-- ==== Sys2Proof/Word.lean ====
section
/-! DEFINITION. The word types of the machine, and the one sparse table that every indexed piece of state uses. -/

namespace Sys2Proof

abbrev Byte := BitVec 8
abbrev W16 := BitVec 16
abbrev W32 := BitVec 32
abbrev W64 := BitVec 64

/-- A 128-bit template (R69). -/
abbrev W128 := BitVec 128

/-- One vector register: 64 lanes of 32 bits (R47). -/
abbrev Vec := BitVec 2048

/-- One 128-byte line of memory, byte `i` in bits `[8i+7 : 8i]` (R5). -/
abbrev LineData := BitVec 1024

/-- One bit per byte of a line. -/
abbrev LineMask := BitVec 128

/-- An indexed collection held as plain data: entries in strictly rising key order, and no entry that equals
the value an unlisted key reads as. The operations stand in `Machine/Base.lean`. -/
abbrev Sparse (β : Type) := List (Nat × β)

/-- The six streams of a job (R13); the order is the engine code `e` of R17. -/
inductive StreamId where
  | cl | cc | cs | vx | mx | cx
  deriving DecidableEq, Repr

/-- The engine code `e` of R17. -/
def StreamId.code : StreamId → Nat
  | .cl => 0 | .cc => 1 | .cs => 2 | .vx => 3 | .mx => 4 | .cx => 5

/-- The stream with engine code `n`. -/
def StreamId.ofCode? : Nat → Option StreamId
  | 0 => some .cl | 1 => some .cc | 2 => some .cs | 3 => some .vx | 4 => some .mx | 5 => some .cx
  | _ => none

/-- CL, CC and CS: the contexts of the control core (R11). -/
def StreamId.isControl : StreamId → Bool
  | .cl | .cc | .cs => true
  | _ => false

end Sys2Proof
end

