-- ==== Sys2Proof/Machine/Base.lean ====
section
/-! DEFINITION. Sparse tables, bit fields, sign extension and byte order: the helpers every meaning rests on (R5, R6). -/

namespace Sys2Proof.Machine

/-! ## Sparse tables -/

/-- The value at key `k`; an unlisted key reads as `d`. -/
def sget {β : Type} (d : β) : Sparse β → Nat → β
  | [], _ => d
  | (k', v) :: m, k => if k = k' then v else sget d m k

/-- Put `v` at key `k`, keeping keys in rising order. -/
def sinsert {β : Type} : Sparse β → Nat → β → Sparse β
  | [], k, v => [(k, v)]
  | (k', v') :: m, k, v =>
    if k < k' then (k, v) :: (k', v') :: m
    else if k = k' then (k, v) :: m
    else (k', v') :: sinsert m k v

/-- Remove key `k`. -/
def serase {β : Type} (m : Sparse β) (k : Nat) : Sparse β :=
  m.filter fun e => e.1 != k

/-- Write `v` at `k`; writing what an unlisted key reads as removes the entry, so equal tables are equal data. -/
def sset {β : Type} [DecidableEq β] (d : β) (m : Sparse β) (k : Nat) (v : β) : Sparse β :=
  if v = d then serase m k else sinsert m k v

/-- The entry at `k`, if one is listed. -/
def sfind {β : Type} : Sparse β → Nat → Option β
  | [], _ => none
  | (k', v) :: m, k => if k = k' then some v else sfind m k

/-- Change the value at `k`. -/
def supd {β : Type} [DecidableEq β] (d : β) (m : Sparse β) (k : Nat) (f : β → β) : Sparse β :=
  sset d m k (f (sget d m k))

/-- Write `f i` at key `base + i` for each `i < n`. -/
def sfill {β : Type} [DecidableEq β] (d : β) (m : Sparse β) (base : Nat) (f : Nat → β) : Nat → Sparse β
  | 0 => m
  | n + 1 => sset d (sfill d m base f n) (base + n) (f n)

/-- The values at keys `key, key + 1, …`, `n` of them, of a table with rising keys none below `key`. -/
def sdenseFrom {β : Type} (d : β) : Nat → Nat → Sparse β → List β
  | 0, _, _ => []
  | n + 1, key, [] => d :: sdenseFrom d n (key + 1) []
  | n + 1, key, (k, v) :: m => if k = key then v :: sdenseFrom d n (key + 1) m else d :: sdenseFrom d n (key + 1) ((k, v) :: m)

/-- The `n` values from key `base`. -/
def sdense {β : Type} (d : β) (m : Sparse β) (base n : Nat) : List β :=
  sdenseFrom d n base (m.filter fun e => decide (base ≤ e.1) && decide (e.1 < base + n))

/-- Replace the values from key `base` by a list. -/
def sreplace {β : Type} [DecidableEq β] (d : β) (m : Sparse β) (base : Nat) (l : List β) : Sparse β :=
  (m.filter fun e => decide (e.1 < base))
    ++ ((l.zipIdx base).map fun p => (p.2, p.1)).filter (fun e => e.2 != d)
    ++ m.filter fun e => decide (base + l.length ≤ e.1)

/-- Rising keys, no entry equal to what an unlisted key reads as. -/
def swf {β : Type} [DecidableEq β] (d : β) : Sparse β → Bool
  | [] => true
  | [(_, v)] => v != d
  | (k, v) :: (k', v') :: m => decide (k < k') && v != d && swf d ((k', v') :: m)

/-! ## Bits -/

/-- Bits `[lo+len-1 : lo]` of a word, as a number. -/
def field {w : Nat} (x : BitVec w) (lo len : Nat) : Nat :=
  (x.toNat >>> lo) % 2 ^ len

/-- Bit `i` of a word. -/
def bit {w : Nat} (x : BitVec w) (i : Nat) : Bool := x.getLsbD i

/-- The word with bit `i` set to `b`. -/
def setBit {w : Nat} (x : BitVec w) (i : Nat) (b : Bool) : BitVec w :=
  if b then x ||| BitVec.ofNat w (1 <<< i) else x &&& ~~~ BitVec.ofNat w (1 <<< i)

/-- Bits `[lo+len-1 : lo]` replaced by the low bits of `v`. -/
def putField {w : Nat} (x : BitVec w) (lo len v : Nat) : BitVec w :=
  (x &&& ~~~ BitVec.ofNat w ((2 ^ len - 1) <<< lo)) ||| BitVec.ofNat w ((v % 2 ^ len) <<< lo)

/-- Field of a plain number. -/
def nbits (x lo len : Nat) : Nat := (x >>> lo) % 2 ^ len

/-- The number with the bits `f i` for `i < n`. -/
def natOfBits (f : Nat → Bool) : Nat → Nat
  | 0 => 0
  | n + 1 => natOfBits f n + (if f n then 2 ^ n else 0)

/-- The word whose bit `i` is `f i`. -/
def ofBits (w : Nat) (f : Nat → Bool) : BitVec w := BitVec.ofNat w (natOfBits f w)

/-- How many of the low `n` bits are set. -/
def countBits (x : Nat) : Nat → Nat
  | 0 => 0
  | n + 1 => countBits x n + (if x.testBit n then 1 else 0)

/-- The index of the lowest set bit below `n`, or `n`. -/
def lowestBit (x n : Nat) : Nat :=
  ((List.range n).find? fun i => x.testBit i).getD n

/-- The index of the highest set bit, plus one; zero for zero. -/
def bitLen (x : Nat) : Nat := if x = 0 then 0 else Nat.log2 x + 1

/-- `n` zero-based elements of width `w` packed into `W` bits, element 0 lowest. -/
def packElems (W w : Nat) (f : Nat → Nat) : Nat → BitVec W
  | 0 => 0
  | n + 1 => packElems W w f n ||| BitVec.ofNat W ((f n % 2 ^ w) <<< (w * n))

/-- Element `i` of width `w` of a packed word. -/
def elem {W : Nat} (x : BitVec W) (w i : Nat) : Nat := (x.toNat >>> (w * i)) % 2 ^ w

/-- Signed value of the low `w` bits. -/
def sx (w x : Nat) : Int :=
  let y := x % 2 ^ w
  if y < 2 ^ (w - 1) then (y : Int) else (y : Int) - (2 ^ w : Nat)

/-- An integer narrowed to `w` bits, as a natural number. -/
def narrow (w : Nat) (x : Int) : Nat := (x % ((2 ^ w : Nat) : Int)).toNat

/-- Clamp an integer. -/
def clampInt (lo hi x : Int) : Int := if x < lo then lo else if hi < x then hi else x

/-- Round `x` down to a multiple of `n`. -/
def alignDown (x n : Nat) : Nat := x - x % n

/-- Ceiling division. -/
def ceilDiv (a b : Nat) : Nat := (a + b - 1) / b

/-! ## Byte order -/

/-- Little-endian bytes of a number (R5). -/
def leBytes (v : Nat) : Nat → List Byte
  | 0 => []
  | n + 1 => BitVec.ofNat 8 v :: leBytes (v / 256) n

/-- The number little-endian bytes stand for (R5). -/
def leNat : List Byte → Nat
  | [] => 0
  | b :: bs => b.toNat + 256 * leNat bs

/-- Byte `i` of a packed word. -/
def byteAt {W : Nat} (x : BitVec W) (i : Nat) : Byte := BitVec.ofNat 8 (x.toNat >>> (8 * i))

/-- `l` with `f` applied to the element at position `i`. -/
def modifyAt {α : Type} : List α → Nat → (α → α) → List α
  | [], _, _ => []
  | a :: l, 0, f => f a :: l
  | a :: l, i + 1, f => a :: modifyAt l i f

/-- Every element satisfying `p` replaced by `f` of it. -/
def mapIf {α : Type} (p : α → Bool) (f : α → α) (l : List α) : List α :=
  l.map fun a => if p a then f a else a

/-- Fold over `0 .. n-1`. -/
def foldUpTo {α : Type} (n : Nat) (f : α → Nat → α) (a : α) : α := (List.range n).foldl f a

end Sys2Proof.Machine
end

