-- ==== Sys2Proof/Syntax.lean ====
section
/-! DEFINITION. The instruction set: one constructor for every row of spec/opcode_table.json. A template instruction
carries the issued template's fields below OPC (R69); a word-level form carries the patch word's fields (R71); an event
carries the names of the things it acts on. -/

namespace Sys2Proof

/-- The fields of an issued template below OPC (R69), after the patch has been applied. -/
structure Tpl where
  /-- MOD, bits [117:112]. -/
  mod : BitVec 6
  /-- DST, bits [111:104], a register code of R50. -/
  dst : BitVec 8
  /-- SA, bits [103:96]. -/
  sa : BitVec 8
  /-- SB, bits [95:88]. -/
  sb : BitVec 8
  /-- SC, bits [87:80]. -/
  sc : BitVec 8
  /-- PRED, bits [79:75]: negate bit above the predicate number. -/
  pred : BitVec 5
  /-- CTL, bits [74:64] (R70). -/
  ctl : BitVec 11
  /-- IMM, bits [63:32]. -/
  imm : W32
  /-- EXT, bits [31:0]. -/
  ext : W32
  deriving DecidableEq, Repr

/-- Why a node rolls back (R389). -/
inductive RollCause where
  | poison | silentError | hardware
  deriving DecidableEq, Repr

/-- What fires the over-current alarm (R440). -/
inductive AlarmKind where
  | peak | didt | fault | conv | therm
  deriving DecidableEq, Repr

/-- RoCEv2 operations that R457 refuses. -/
inductive HostOp where
  | unreliable | compareSwap | sendOther | bindWindow
  deriving DecidableEq, Repr

/-- Operations a peer asks for through a scale-up link (R460). -/
inductive PeerOp where
  | read (len : Nat)
  | write (data : List Byte) (staged : Option Nat)
  | fetchAdd (add : W64)
  deriving DecidableEq, Repr

/-- IEEE 1149.1 operations (R465). -/
inductive TapOp where
  | bypass (tdi : Bool) | idcode | boundaryScan
  deriving DecidableEq, Repr

/-- One constructor per row of the table of operations and events: the word-level forms and the template instructions first,
then the events. -/
inductive Instr where
  /-- STAGE (R75). -/
  | stage (t f h v : Nat)
  /-- ISSUE_AND_WRITE_BACK (R72). -/
  | issueAndWriteBack (t f h v : Nat)
  /-- TEMPLATE_LOAD (R76). -/
  | templateLoad (n rsv : Nat) (d0 d1 d2 d3 : W32)
  /-- LONG_IMMEDIATE (R77). -/
  | longImmediate (n : Nat) (wb : Bool) (h rsv : Nat) (data : W32)
  /-- ADD (R120). -/
  | add (t : Tpl)
  /-- SUB (R120). -/
  | sub (t : Tpl)
  /-- ADDI (R120). -/
  | addi (t : Tpl)
  /-- MUL (R120). -/
  | mul (t : Tpl)
  /-- MULH (R120). -/
  | mulh (t : Tpl)
  /-- MULHU (R120). -/
  | mulhu (t : Tpl)
  /-- DIV (R122). -/
  | div (t : Tpl)
  /-- DIVU (R122). -/
  | divu (t : Tpl)
  /-- REM (R122). -/
  | rem (t : Tpl)
  /-- REMU (R122). -/
  | remu (t : Tpl)
  /-- AND (R120). -/
  | and (t : Tpl)
  /-- OR (R120). -/
  | or (t : Tpl)
  /-- XOR (R120). -/
  | xor (t : Tpl)
  /-- ANDN (R120). -/
  | andn (t : Tpl)
  /-- ORN (R120). -/
  | orn (t : Tpl)
  /-- SHL (R120). -/
  | shl (t : Tpl)
  /-- SHR (R120). -/
  | shr (t : Tpl)
  /-- SRA (R120). -/
  | sra (t : Tpl)
  /-- ROTL (R120). -/
  | rotl (t : Tpl)
  /-- CLZ (R120). -/
  | clz (t : Tpl)
  /-- CTZ (R120). -/
  | ctz (t : Tpl)
  /-- POPC (R120). -/
  | popc (t : Tpl)
  /-- MIN (R120). -/
  | min (t : Tpl)
  /-- MAX (R120). -/
  | max (t : Tpl)
  /-- MINU (R120). -/
  | minu (t : Tpl)
  /-- MAXU (R120). -/
  | maxu (t : Tpl)
  /-- SEL (R125). -/
  | sel (t : Tpl)
  /-- CMP (R124). -/
  | cmp (t : Tpl)
  /-- CMPI (R124). -/
  | cmpi (t : Tpl)
  /-- LI (R126). -/
  | li (t : Tpl)
  /-- LI_HI (R126). -/
  | liHi (t : Tpl)
  /-- MOV (R127). -/
  | mov (t : Tpl)
  /-- BR (R129). -/
  | br (t : Tpl)
  /-- JMP (R129). -/
  | jmp (t : Tpl)
  /-- CALL (R129). -/
  | call (t : Tpl)
  /-- RET (R129). -/
  | ret (t : Tpl)
  /-- JR (R129). -/
  | jr (t : Tpl)
  /-- LOOP (R130). -/
  | loop (t : Tpl)
  /-- LD (R132). -/
  | ld (t : Tpl)
  /-- ST (R132). -/
  | st (t : Tpl)
  /-- PF (R135). -/
  | pf (t : Tpl)
  /-- RPUSH (R136). -/
  | rpush (t : Tpl)
  /-- RPOP (R136). -/
  | rpop (t : Tpl)
  /-- RPEEK (R136). -/
  | rpeek (t : Tpl)
  /-- RLEVEL (R136). -/
  | rlevel (t : Tpl)
  /-- FPUSH (R137). -/
  | fpush (t : Tpl)
  /-- WID (R138). -/
  | wid (t : Tpl)
  /-- RCLAIM (R139). -/
  | rclaim (t : Tpl)
  /-- TSUB (R140). -/
  | tsub (t : Tpl)
  /-- TSUB_REL (R140). -/
  | tsubRel (t : Tpl)
  /-- TSUB_OFF (R140). -/
  | tsubOff (t : Tpl)
  /-- RDGTC (R142). -/
  | rdgtc (t : Tpl)
  /-- RDSCNT (R142). -/
  | rdscnt (t : Tpl)
  /-- RDVC (R142). -/
  | rdvc (t : Tpl)
  /-- RDWARN (R143). -/
  | rdwarn (t : Tpl)
  /-- WARNCLR (R143). -/
  | warnclr (t : Tpl)
  /-- TRAP (R144). -/
  | trap (t : Tpl)
  /-- NOP (R145). -/
  | nop (t : Tpl)
  /-- RDV (R145). -/
  | rdv (t : Tpl)
  /-- BEXT (R123). -/
  | bext (t : Tpl)
  /-- BDEP (R123). -/
  | bdep (t : Tpl)
  /-- MADD (R120). -/
  | madd (t : Tpl)
  /-- ADDA (R120). -/
  | adda (t : Tpl)
  /-- FORK (R296). -/
  | fork (t : Tpl)
  /-- FORK_R (R296). -/
  | forkR (t : Tpl)
  /-- PHASE (R297). -/
  | phase (t : Tpl)
  /-- PUB (R298). -/
  | pub (t : Tpl)
  /-- ACQ (R299). -/
  | acq (t : Tpl)
  /-- FENCE (R300). -/
  | fence (t : Tpl)
  /-- FENCE_CX (R300). -/
  | fenceCx (t : Tpl)
  /-- LD_ACQ (R301). -/
  | ldAcq (t : Tpl)
  /-- ST_REL (R302). -/
  | stRel (t : Tpl)
  /-- AMO (R303). -/
  | amo (t : Tpl)
  /-- AMOF (R303). -/
  | amof (t : Tpl)
  /-- CAS (R304). -/
  | cas (t : Tpl)
  /-- TBARW (R305). -/
  | tbarw (t : Tpl)
  /-- CARVE (R306). -/
  | carve (t : Tpl)
  /-- CWANY (R266). -/
  | cwany (t : Tpl)
  /-- CWANY_CX (R266). -/
  | cwanyCx (t : Tpl)
  /-- CWALL (R266). -/
  | cwall (t : Tpl)
  /-- CWALL_CX (R266). -/
  | cwallCx (t : Tpl)
  /-- CFIRST (R266). -/
  | cfirst (t : Tpl)
  /-- CFIRST_CX (R266). -/
  | cfirstCx (t : Tpl)
  /-- CTEST (R266). -/
  | ctest (t : Tpl)
  /-- CTEST_CX (R266). -/
  | ctestCx (t : Tpl)
  /-- CTCLR (R266). -/
  | ctclr (t : Tpl)
  /-- CTCLR_CX (R266). -/
  | ctclrCx (t : Tpl)
  /-- FETEST (R268). -/
  | fetest (t : Tpl)
  /-- FETEST_CX (R268). -/
  | fetestCx (t : Tpl)
  /-- VADD (R151). -/
  | vadd (t : Tpl)
  /-- VSUB (R151). -/
  | vsub (t : Tpl)
  /-- VMUL (R151). -/
  | vmul (t : Tpl)
  /-- VFMA (R151). -/
  | vfma (t : Tpl)
  /-- VFMS (R151). -/
  | vfms (t : Tpl)
  /-- VFNMA (R151). -/
  | vfnma (t : Tpl)
  /-- VMIN (R151). -/
  | vmin (t : Tpl)
  /-- VMAX (R151). -/
  | vmax (t : Tpl)
  /-- VABS (R151). -/
  | vabs (t : Tpl)
  /-- VNEG (R151). -/
  | vneg (t : Tpl)
  /-- VRCP (R152). -/
  | vrcp (t : Tpl)
  /-- VRSQRT (R152). -/
  | vrsqrt (t : Tpl)
  /-- VSQRT (R152). -/
  | vsqrt (t : Tpl)
  /-- VDIV (R152). -/
  | vdiv (t : Tpl)
  /-- VEXP2 (R152). -/
  | vexp2 (t : Tpl)
  /-- VLOG2 (R152). -/
  | vlog2 (t : Tpl)
  /-- VTANH (R152). -/
  | vtanh (t : Tpl)
  /-- VCVT (R153). -/
  | vcvt (t : Tpl)
  /-- VAND (R154). -/
  | vand (t : Tpl)
  /-- VOR (R154). -/
  | vor (t : Tpl)
  /-- VXOR (R154). -/
  | vxor (t : Tpl)
  /-- VNOT (R154). -/
  | vnot (t : Tpl)
  /-- VSHL (R154). -/
  | vshl (t : Tpl)
  /-- VSHR (R154). -/
  | vshr (t : Tpl)
  /-- VSRA (R154). -/
  | vsra (t : Tpl)
  /-- VCLZ (R154). -/
  | vclz (t : Tpl)
  /-- VPOPC (R154). -/
  | vpopc (t : Tpl)
  /-- VCMP (R155). -/
  | vcmp (t : Tpl)
  /-- VSEL (R155). -/
  | vsel (t : Tpl)
  /-- PAND (R156). -/
  | pand (t : Tpl)
  /-- POR (R156). -/
  | por (t : Tpl)
  /-- PXOR (R156). -/
  | pxor (t : Tpl)
  /-- PNOT (R156). -/
  | pnot (t : Tpl)
  /-- PCNT (R156). -/
  | pcnt (t : Tpl)
  /-- PFIRST (R156). -/
  | pfirst (t : Tpl)
  /-- PSET (R156). -/
  | pset (t : Tpl)
  /-- VQUANT (R159). -/
  | vquant (t : Tpl)
  /-- VDEQUANT (R160). -/
  | vdequant (t : Tpl)
  /-- VHAD (R161). -/
  | vhad (t : Tpl)
  /-- VSMOOTH (R161). -/
  | vsmooth (t : Tpl)
  /-- VAMAX (R162). -/
  | vamax (t : Tpl)
  /-- VRED (R164). -/
  | vred (t : Tpl)
  /-- VSCAN (R165). -/
  | vscan (t : Tpl)
  /-- VPERM (R166). -/
  | vperm (t : Tpl)
  /-- VBCAST (R166). -/
  | vbcast (t : Tpl)
  /-- VSPLAT (R166). -/
  | vsplat (t : Tpl)
  /-- VMOV (R166). -/
  | vmov (t : Tpl)
  /-- VMOVS (R166). -/
  | vmovs (t : Tpl)
  /-- VINS (R166). -/
  | vins (t : Tpl)
  /-- VLD (R167). -/
  | vld (t : Tpl)
  /-- VST (R167). -/
  | vst (t : Tpl)
  /-- VLDX (R169). -/
  | vldx (t : Tpl)
  /-- VSTX (R169). -/
  | vstx (t : Tpl)
  /-- VSTX_ADD (R170). -/
  | vstxAdd (t : Tpl)
  /-- VLDSLC (R171). -/
  | vldslc (t : Tpl)
  /-- VSTSLC (R171). -/
  | vstslc (t : Tpl)
  /-- VSRND (R172). -/
  | vsrnd (t : Tpl)
  /-- VSRND_RD (R172). -/
  | vsrndRd (t : Tpl)
  /-- CKPT_VX (R408). -/
  | ckptVx (t : Tpl)
  /-- NOP_VX (R158). -/
  | nopVx (t : Tpl)
  /-- NOP_REP_VX (R158). -/
  | nopRepVx (t : Tpl)
  /-- RDV_VX (R34). -/
  | rdvVx (t : Tpl)
  /-- MLOAD (R211). -/
  | mload (t : Tpl)
  /-- MLOAD_CV (R212). -/
  | mloadCv (t : Tpl)
  /-- MLOAD_SC (R213). -/
  | mloadSc (t : Tpl)
  /-- MSTORE (R213). -/
  | mstore (t : Tpl)
  /-- MSTORE_SC (R213). -/
  | mstoreSc (t : Tpl)
  /-- MZERO (R214). -/
  | mzero (t : Tpl)
  /-- MMOV (R214). -/
  | mmov (t : Tpl)
  /-- MMOV_CV (R214). -/
  | mmovCv (t : Tpl)
  /-- MTR (R214). -/
  | mtr (t : Tpl)
  /-- MMA (R215). -/
  | mma (t : Tpl)
  /-- MDRAIN (R217). -/
  | mdrain (t : Tpl)
  /-- MDRAIN_X (R218). -/
  | mdrainX (t : Tpl)
  /-- MKAT (R225). -/
  | mkat (t : Tpl)
  /-- MSLOT (R226). -/
  | mslot (t : Tpl)
  /-- MCNT (R220). -/
  | mcnt (t : Tpl)
  /-- MCNT_SET (R220). -/
  | mcntSet (t : Tpl)
  /-- MCLR (R221). -/
  | mclr (t : Tpl)
  /-- MTHR (R221). -/
  | mthr (t : Tpl)
  /-- MPAIR (R228). -/
  | mpair (t : Tpl)
  /-- MSTAMP (R206). -/
  | mstamp (t : Tpl)
  /-- MSTAMP_NOW (R206). -/
  | mstampNow (t : Tpl)
  /-- MSTAMP_ADD (R206). -/
  | mstampAdd (t : Tpl)
  /-- MSCL (R216). -/
  | mscl (t : Tpl)
  /-- MWAIT_SCNT (R223). -/
  | mwaitScnt (t : Tpl)
  /-- MWAIT_TAGS (R223). -/
  | mwaitTags (t : Tpl)
  /-- MWAIT_LINE (R223). -/
  | mwaitLine (t : Tpl)
  /-- MWAIT_TAKE (R223). -/
  | mwaitTake (t : Tpl)
  /-- MWAIT_IDLE (R223). -/
  | mwaitIdle (t : Tpl)
  /-- MWAIT_POST (R223). -/
  | mwaitPost (t : Tpl)
  /-- NMV (R231). -/
  | nmv (t : Tpl)
  /-- NMV_ACC (R231). -/
  | nmvAcc (t : Tpl)
  /-- NOP_MX (R233). -/
  | nopMx (t : Tpl)
  /-- NOP_REP_MX (R233). -/
  | nopRepMx (t : Tpl)
  /-- RDV_MX (R233). -/
  | rdvMx (t : Tpl)
  /-- TMMA (R182). -/
  | tmma (t : Tpl)
  /-- TCONV (R182). -/
  | tconv (t : Tpl)
  /-- TNMV (R183). -/
  | tnmv (t : Tpl)
  /-- TMAP (R184). -/
  | tmap (t : Tpl)
  /-- TRED (R185). -/
  | tred (t : Tpl)
  /-- TCOPY (R186). -/
  | tcopy (t : Tpl)
  /-- TKAT (R187). -/
  | tkat (t : Tpl)
  /-- TBAR (R188). -/
  | tbar (t : Tpl)
  /-- TDESC (R178). -/
  | tdesc (t : Tpl)
  /-- TSYNC (R188). -/
  | tsync (t : Tpl)
  /-- CPOST (R254). -/
  | cpost (t : Tpl)
  /-- CPOST_Q (R261). -/
  | cpostQ (t : Tpl)
  /-- FEFILL (R267). -/
  | fefill (t : Tpl)
  /-- FEEMPTY (R267). -/
  | feempty (t : Tpl)
  /-- LBSET (R271). -/
  | lbset (t : Tpl)
  /-- LBADV (R272). -/
  | lbadv (t : Tpl)
  /-- CHALO (R273). -/
  | chalo (t : Tpl)
  /-- COVL (R259). -/
  | covl (t : Tpl)
  /-- BCPOST (R275). -/
  | bcpost (t : Tpl)
  /-- BCWAIT (R277). -/
  | bcwait (t : Tpl)
  /-- BCWAIT_RD (R277). -/
  | bcwaitRd (t : Tpl)
  /-- BCWAIT_ARM (R277). -/
  | bcwaitArm (t : Tpl)
  /-- NOP_CX (R249). -/
  | nopCx (t : Tpl)
  /-- NOP_REP_CX (R249). -/
  | nopRepCx (t : Tpl)
  /-- RDV_CX (R249). -/
  | rdvCx (t : Tpl)
  /-- CSRR (R325). -/
  | csrr (t : Tpl)
  /-- CSRW (R340). -/
  | csrw (t : Tpl)
  /-- CSRW_CTX (R340). -/
  | csrwCtx (t : Tpl)
  /-- ERET (R64). -/
  | eret (t : Tpl)
  /-- SYSC (R329). -/
  | sysc (t : Tpl)
  /-- TLBI_CTX (R341). -/
  | tlbiCtx (t : Tpl)
  /-- TLBI_PAGE (R341). -/
  | tlbiPage (t : Tpl)
  /-- ATBW (R333). -/
  | atbw (t : Tpl)
  /-- INCB (R351). -/
  | incb (t : Tpl)
  /-- RECLAIM (R353). -/
  | reclaim (t : Tpl)
  /-- CTXSAVE (R421). -/
  | ctxsave (t : Tpl)
  /-- CTXLOAD (R421). -/
  | ctxload (t : Tpl)
  /-- PSTOP (R339). -/
  | pstop (t : Tpl)
  /-- PRUN (R423). -/
  | prun (t : Tpl)
  /-- PRUN_CORE (R339). -/
  | prunCore (t : Tpl)
  /-- PREEMPT (R407). -/
  | preempt (t : Tpl)
  /-- HLTCLR (R339). -/
  | hltclr (t : Tpl)
  /-- GATE (R343). -/
  | gate (t : Tpl)
  /-- WAKE (R343). -/
  | wake (t : Tpl)
  /-- ALARMCLR (R343). -/
  | alarmclr (t : Tpl)
  /-- LOGRD (R343). -/
  | logrd (t : Tpl)
  /-- LOGRD_POP (R343). -/
  | logrdPop (t : Tpl)
  /-- CKPT (R408). -/
  | ckpt (t : Tpl)
  /-- CARVE_APPLY (R243). -/
  | carveApply (core : Nat)
  /-- MX_COMMAND_START (R201). -/
  | mxCommandStart (core : Nat)
  /-- MX_COMMAND_COMPLETE (R202). -/
  | mxCommandComplete (core seq : Nat)
  /-- SCHEDULE_MISS (R208). -/
  | scheduleMiss (core : Nat)
  /-- COUNTER_THRESHOLD_TRAP (R222). -/
  | counterThresholdTrap (core : Nat)
  /-- PAIR_PARTIAL_ARRIVE (R228). -/
  | pairPartialArrive (core : Nat)
  /-- PAIR_ACK_ARRIVE (R229). -/
  | pairAckArrive (core : Nat)
  /-- KAT_WINDOW_CLOSE (R226). -/
  | katWindowClose (core : Nat)
  /-- NMV_BLOCK_COMPLETE (R231). -/
  | nmvBlockComplete (core seq block : Nat)
  /-- TILE_CHILD_ACCEPT (R190). -/
  | tileChildAccept (tile node : Nat)
  /-- TILE_CHILD_COMPLETE (R188). -/
  | tileChildComplete (tile node : Nat)
  /-- TILE_REDUCTION_START (R191). -/
  | tileReductionStart (tile node : Nat)
  /-- FABRIC_TILE_PACKET (R181). -/
  | fabricTilePacket (link : Nat) (ctag : W16) (desc aux : BitVec 512) (ret : Nat)
  /-- FABRIC_TILE_RETURN (R181). -/
  | fabricTileReturn (tile : Nat)
  /-- COPY_START (R254). -/
  | copyStart (engine seq : Nat)
  /-- COPY_CHUNK (R255). -/
  | copyChunk (engine seq : Nat)
  /-- COPY_COMPLETE (R257). -/
  | copyComplete (engine seq : Nat)
  /-- OVERLAY_COMPLETE (R259). -/
  | overlayComplete (core seq : Nat)
  /-- QUEUE_SLOT_SERVE (R261). -/
  | queueSlotServe (queue : Nat)
  /-- QUEUE_SERVER_APPEND (R261). -/
  | queueServerAppend (ctx : Nat)
  /-- RESULT_LAND (R56). -/
  | resultLand (core : Nat)
  /-- L1_MISS_FILL (R58). -/
  | l1MissFill (req : Nat)
  /-- TIMER_FIRE (R141). -/
  | timerFire (core : Nat)
  /-- STREAM_STALL (R38). -/
  | streamStall (core : Nat)
  /-- POOL_SPILL_TRAP (R331). -/
  | poolSpillTrap (core : Nat)
  /-- NODE_DISPATCH (R381). -/
  | nodeDispatch (ctx : Nat) (node : W32)
  /-- STREAM_FETCH_START (R42). -/
  | streamFetchStart (core : Nat) (strm : StreamId)
  /-- SLICE_SCRUB_COMPLETE (R42). -/
  | sliceScrubComplete (core slice : Nat)
  /-- JOB_RETIRE (R35). -/
  | jobRetire (core : Nat)
  /-- WORK_REQUEST (R382). -/
  | workRequest (core : Nat)
  /-- PRIORITY_PROMOTION (R44). -/
  | priorityPromotion (ctx : Nat) (node : W32)
  /-- OPERATING_POINT_SELECT (R435). -/
  | operatingPointSelect (ctx : Nat) (node : W32)
  /-- NODE_RETIRE (R386). -/
  | nodeRetire (ctx : Nat) (node : W32)
  /-- SIGNAL_STALL_RESUME (R379). -/
  | signalStallResume (ctx : Nat) (node : W32)
  /-- QUEUE_OVERFLOW_TRAP (R384). -/
  | queueOverflowTrap (queue : Nat)
  /-- NODE_ROLLBACK (R388). -/
  | nodeRollback (ctx : Nat) (node : W32) (cause : RollCause)
  /-- KAT_SWEEP (R453). -/
  | katSweep (core : Nat)
  /-- L2_HOME_ACCESS (R283). -/
  | l2HomeAccess (req : Nat)
  /-- ATOMIC_PERFORM (R292). -/
  | atomicPerform (req : Nat)
  /-- RESPONSE_ACCEPT (R350). -/
  | responseAccept (req : Nat)
  /-- ACCESS_VIOLATION_NOTICE (R335). -/
  | accessViolationNotice (req : Nat)
  /-- ACCESS_TABLE_ENTRY_APPLY (R336). -/
  | accessTableEntryApply (target : Nat)
  /-- TRANSLATION_WALK (R361). -/
  | translationWalk (unit : Nat) (va : W64)
  /-- DIRTY_SET_WALK (R369). -/
  | dirtySetWalk (req : Nat)
  /-- PTROOT_WRITE (R363). -/
  | ptrootWrite (ctx : Nat)
  /-- DLOGBASE_WRITE (R363). -/
  | dlogbaseWrite (ctx : Nat)
  /-- DLOGIDX_WRITE (R371). -/
  | dlogidxWrite (ctx : Nat)
  /-- DLOGEP_WRITE (R369). -/
  | dlogepWrite (ctx : Nat)
  /-- TSEGPOOL_WRITE (R385). -/
  | tsegpoolWrite (ctx : Nat)
  /-- STOPLOG_WRITE (R402). -/
  | stoplogWrite (ctx : Nat)
  /-- QUEUE_POOL_LIMITS_WRITE (R330). -/
  | queuePoolLimitsWrite (ctx : Nat)
  /-- INCARNATION_INSTALL (R351). -/
  | incarnationInstall (unit ctx : Nat)
  /-- RECLAIM_COMPLETE (R353). -/
  | reclaimComplete (ctx : Nat)
  /-- PEER_INSTALL (R356). -/
  | peerInstall (device ctx : Nat)
  /-- PEER_DRAIN_TIMEOUT (R356). -/
  | peerDrainTimeout (device ctx : Nat)
  /-- LINK_RESYNC (R356). -/
  | linkResync (link : Nat)
  /-- CLUSTER_WAKE_REGISTER (R447). -/
  | clusterWakeRegister (cluster : Nat)
  /-- WAKE_COMPLETE (R447). -/
  | wakeComplete (cluster : Nat)
  /-- UNIT_HALT_STOP (R397). -/
  | unitHaltStop (part unit : Nat)
  /-- HALT_COMPLETE (R399). -/
  | haltComplete (ctx : Nat)
  /-- PREEMPT_REQUEST_RECEIVE (R405). -/
  | preemptRequestReceive (part unit : Nat)
  /-- CKWD_TIMEOUT (R411). -/
  | ckwdTimeout (core : Nat)
  /-- CORE_SAVE (R407). -/
  | coreSave (core : Nat)
  /-- CUFF_ACK (R406). -/
  | cuffAck (part unit : Nat)
  /-- CURVE_IN_FORCE (R426). -/
  | curveInForce
  /-- CURVE_EXPIRE (R426). -/
  | curveExpire
  /-- CURVE_STEP (R428). -/
  | curveStep
  /-- BRIM_WINDOW_END (R431). -/
  | brimWindowEnd
  /-- GRADE_CHANGE (R442). -/
  | gradeChange
  /-- C_DIE_PARK_GATE (R444). -/
  | cDieParkGate (die : Nat)
  /-- CLOCK_RESTART (R437). -/
  | clockRestart (cluster : Nat)
  /-- OVERCURRENT_ALARM (R440). -/
  | overcurrentAlarm (kind : AlarmKind) (cluster : Nat)
  /-- REPLAY_LIMIT (R454). -/
  | replayLimit (cluster : Nat)
  /-- MACHINE_CHECK (R454). -/
  | machineCheck (cause unit engine : Nat)
  /-- BASE_DIE_REQUEST (R455). -/
  | baseDieRequest (stack port : Nat)
  /-- BASE_DIE_REPLY (R455). -/
  | baseDieReply (stack port tag : Nat)
  /-- HOST_RDMA_WRITE (R458). -/
  | hostRdmaWrite (qp pa : Nat) (data : List Byte)
  /-- HOST_RDMA_READ (R458). -/
  | hostRdmaRead (qp pa len : Nat)
  /-- HOST_RDMA_FETCH_ADD (R458). -/
  | hostRdmaFetchAdd (qp pa : Nat) (add : W64)
  /-- HOST_SEND (R458). -/
  | hostSend (qp : Nat) (slot : BitVec 512)
  /-- HOST_REQUEST_REFUSED (R457). -/
  | hostRequestRefused (qp : Nat) (op : HostOp)
  /-- PEER_REQUEST_INGRESS (R460). -/
  | peerRequestIngress (link : Nat) (ctag : W16) (op : PeerOp) (pa : Nat)
  /-- LINK_FLIT_RECEIVE (R459). -/
  | linkFlitReceive (link seq : Nat) (crcOk : Bool)
  /-- LINK_REPLAY_LIMIT (R459). -/
  | linkReplayLimit (link : Nat)
  /-- LINK_UP (R459). -/
  | linkUp (link : Nat)
  /-- INFO (R461). -/
  | info
  /-- ATTEST (R464). -/
  | attest
  /-- BUDGET (R425). -/
  | budget
  /-- PWRSET (R427). -/
  | pwrset
  /-- CTXDEF (R461). -/
  | ctxdef
  /-- PARTDEF (R323). -/
  | partdef
  /-- ATSET (R333). -/
  | atset
  /-- QPBIND (R461). -/
  | qpbind
  /-- QREG (R262). -/
  | qreg
  /-- DEVID (R460). -/
  | devid
  /-- APSET (R460). -/
  | apset
  /-- ENERGY (R430). -/
  | energy
  /-- TABLES (R461). -/
  | tables
  /-- FWSTAGE (R462). -/
  | fwstage
  /-- RESET (R465). -/
  | reset
  /-- SWEEP (R453). -/
  | sweep
  /-- FWLOG (R461). -/
  | fwlog
  /-- WARM_RESET (R465). -/
  | warmReset
  /-- COLD_RESET (R465). -/
  | coldReset
  /-- UNDERVOLTAGE (R466). -/
  | undervoltage
  /-- ETHERNET_LINK_TRAINING (R457). -/
  | ethernetLinkTraining (port : Nat) (rate400 : Bool)
  /-- TAP_INSTRUCTION (R465). -/
  | tapInstruction (op : TapOp)
  deriving DecidableEq, Repr

end Sys2Proof
end

