-- ==== Sys2Proof/Decode.lean ====
section
/-! DEFINITION. Decoding: patch words (R71-R77), templates (R69, R81), the operand positions each instruction accepts
(R50, R118, R150, R174, R204, R249, R294, R337), and the encoder beside them. Every function is total; what is
refused is refused by name. -/

namespace Sys2Proof

open Sys2Proof.Machine

/-- Why a word is refused: the steps of R80, in their order. -/
inductive Reject where
  /-- Step 1: an extended form with T = 0-61. -/
  | extendedIndex (t : Nat)
  /-- Step 2: an OPC that the opcode map leaves unassigned. -/
  | unassignedOpcode (opc : Nat)
  /-- Step 3: an OPC of a class the stream may not issue (R13). -/
  | wrongStream (opc : Nat)
  /-- Step 5: a register code outside the files the position accepts (R50). -/
  | registerCode (position : Nat)
  /-- Step 6: slice selector 11 (R54). -/
  | sliceSelector
  deriving DecidableEq, Repr

/-! ## Templates -/

/-- The fields of a template below OPC (R69). -/
def unpackTpl (w : W128) : Tpl :=
  { mod := w.extractLsb' 112 6, dst := w.extractLsb' 104 8, sa := w.extractLsb' 96 8, sb := w.extractLsb' 88 8,
    sc := w.extractLsb' 80 8, pred := w.extractLsb' 75 5, ctl := w.extractLsb' 64 11, imm := w.extractLsb' 32 32,
    ext := w.extractLsb' 0 32 }

/-- OPC, bits [127:118] (R69). -/
def tplOpc (w : W128) : Nat := (w.extractLsb' 118 10).toNat

/-- The template with opcode `o` and the fields of `t` (R69). -/
def packTpl (o : Nat) (t : Tpl) : W128 :=
  BitVec.ofNat 10 o ++ t.mod ++ t.dst ++ t.sa ++ t.sb ++ t.sc ++ t.pred ++ t.ctl ++ t.imm ++ t.ext

/-- CTL.RND (R70). -/
def Tpl.rnd (t : Tpl) : Nat := field t.ctl 8 3
/-- CTL.SAT (R70). -/
def Tpl.sat (t : Tpl) : Bool := bit t.ctl 7
/-- CTL.SCOPE (R70). -/
def Tpl.scope (t : Tpl) : Nat := field t.ctl 4 3
/-- CTL.ORD (R70). -/
def Tpl.ord (t : Tpl) : Nat := field t.ctl 2 2
/-- CTL.SPARE (R70). -/
def Tpl.spare (t : Tpl) : Nat := field t.ctl 0 2
/-- The slice selector, EXT[31:30] (R54). -/
def Tpl.slice (t : Tpl) : Nat := field t.ext 30 2

/-- The control rows of the opcode map (R81). -/
def decodeControl (o : Nat) (t : Tpl) : Option Instr :=
  match o with
  | 0x000 => some (.add t)
  | 0x001 => some (.sub t)
  | 0x002 => some (.addi t)
  | 0x003 => some (.mul t)
  | 0x004 => some (.mulh t)
  | 0x005 => some (.mulhu t)
  | 0x006 => some (.div t)
  | 0x007 => some (.divu t)
  | 0x008 => some (.rem t)
  | 0x009 => some (.remu t)
  | 0x00a => some (.and t)
  | 0x00b => some (.or t)
  | 0x00c => some (.xor t)
  | 0x00d => some (.andn t)
  | 0x00e => some (.orn t)
  | 0x00f => some (.shl t)
  | 0x010 => some (.shr t)
  | 0x011 => some (.sra t)
  | 0x012 => some (.rotl t)
  | 0x013 => some (.clz t)
  | 0x014 => some (.ctz t)
  | 0x015 => some (.popc t)
  | 0x016 => some (.min t)
  | 0x017 => some (.max t)
  | 0x018 => some (.minu t)
  | 0x019 => some (.maxu t)
  | 0x01a => some (.sel t)
  | 0x01b => some (.cmp t)
  | 0x01c => some (.cmpi t)
  | 0x01d => some (if bit t.mod 0 then .liHi t else .li t)
  | 0x01e => some (.mov t)
  | 0x028 => some (.br t)
  | 0x029 => some (.jmp t)
  | 0x02a => some (.call t)
  | 0x02b => some (.ret t)
  | 0x02c => some (.jr t)
  | 0x02d => some (.loop t)
  | 0x030 => some (.ld t)
  | 0x031 => some (.st t)
  | 0x032 => some (.pf t)
  | 0x038 => some (.rpush t)
  | 0x039 => some (.rpop t)
  | 0x03a => some (.rpeek t)
  | 0x03b => some (.rlevel t)
  | 0x03c => some (.fpush t)
  | 0x040 => some (.wid t)
  | 0x041 => some (.rclaim t)
  | 0x042 => some (if bit t.mod 1 then .tsubOff t else if bit t.mod 0 then .tsubRel t else .tsub t)
  | 0x043 => some (.rdgtc t)
  | 0x044 => some (.rdscnt t)
  | 0x045 => some (.rdvc t)
  | 0x046 => some (.rdwarn t)
  | 0x047 => some (.warnclr t)
  | 0x048 => some (.trap t)
  | 0x07e => some (.nop t)
  | 0x07f => some (.rdv t)
  | _ => none

/-- The control-extended rows of the opcode map (R81). -/
def decodeControlExt (o : Nat) (t : Tpl) : Option Instr :=
  match o with
  | 0x080 => some (.bext t)
  | 0x081 => some (.bdep t)
  | 0x082 => some (.madd t)
  | 0x083 => some (.adda t)
  | 0x090 => some (if bit t.mod 5 then .forkR t else .fork t)
  | 0x091 => some (.phase t)
  | 0x092 => some (.pub t)
  | 0x093 => some (.acq t)
  | 0x094 => some (.fence t)
  | 0x095 => some (.ldAcq t)
  | 0x096 => some (.stRel t)
  | 0x097 => some (.amo t)
  | 0x098 => some (.amof t)
  | 0x099 => some (.cas t)
  | 0x09a => some (.tbarw t)
  | 0x09b => some (.carve t)
  | 0x0a0 => some (.cwany t)
  | 0x0a1 => some (.cwall t)
  | 0x0a2 => some (.cfirst t)
  | 0x0a3 => some (.ctest t)
  | 0x0a4 => some (.ctclr t)
  | 0x0a5 => some (.fetest t)
  | _ => none

/-- The vector rows of the opcode map (R81). -/
def decodeVector (o : Nat) (t : Tpl) : Option Instr :=
  match o with
  | 0x100 => some (.vadd t)
  | 0x101 => some (.vsub t)
  | 0x102 => some (.vmul t)
  | 0x103 => some (.vfma t)
  | 0x104 => some (.vfms t)
  | 0x105 => some (.vfnma t)
  | 0x106 => some (.vmin t)
  | 0x107 => some (.vmax t)
  | 0x108 => some (.vabs t)
  | 0x109 => some (.vneg t)
  | 0x10a => some (.vrcp t)
  | 0x10b => some (.vrsqrt t)
  | 0x10c => some (.vsqrt t)
  | 0x10d => some (.vdiv t)
  | 0x10e => some (.vexp2 t)
  | 0x10f => some (.vlog2 t)
  | 0x110 => some (.vtanh t)
  | 0x111 => some (.vcvt t)
  | 0x118 => some (.vand t)
  | 0x119 => some (.vor t)
  | 0x11a => some (.vxor t)
  | 0x11b => some (.vnot t)
  | 0x11c => some (.vshl t)
  | 0x11d => some (.vshr t)
  | 0x11e => some (.vsra t)
  | 0x11f => some (.vclz t)
  | 0x120 => some (.vpopc t)
  | 0x121 => some (.vcmp t)
  | 0x122 => some (.vsel t)
  | 0x128 => some (.pand t)
  | 0x129 => some (.por t)
  | 0x12a => some (.pxor t)
  | 0x12b => some (.pnot t)
  | 0x12c => some (.pcnt t)
  | 0x12d => some (.pfirst t)
  | 0x12e => some (.pset t)
  | _ => none

/-- The vector-extended rows of the opcode map (R81). -/
def decodeVectorExt (o : Nat) (t : Tpl) : Option Instr :=
  match o with
  | 0x180 => some (.vquant t)
  | 0x181 => some (.vdequant t)
  | 0x182 => some (.vhad t)
  | 0x183 => some (.vsmooth t)
  | 0x184 => some (.vamax t)
  | 0x188 => some (.vred t)
  | 0x189 => some (.vscan t)
  | 0x18a => some (.vperm t)
  | 0x18b => some (.vbcast t)
  | 0x18c => some (.vsplat t)
  | 0x18d => some (.vmov t)
  | 0x18e => some (.vmovs t)
  | 0x18f => some (.vins t)
  | 0x190 => some (.vld t)
  | 0x191 => some (.vst t)
  | 0x192 => some (.vldx t)
  | 0x193 => some (.vstx t)
  | 0x194 => some (.vstxAdd t)
  | 0x195 => some (.vldslc t)
  | 0x196 => some (.vstslc t)
  | 0x197 => some (if bit t.mod 0 then .vsrndRd t else .vsrnd t)
  | 0x1fd => some (.ckptVx t)
  | 0x1fe => some (if bit t.mod 0 then .nopRepVx t else .nopVx t)
  | 0x1ff => some (.rdvVx t)
  | _ => none

/-- The matrix rows of the opcode map (R81). -/
def decodeMatrix (o : Nat) (t : Tpl) : Option Instr :=
  match o with
  | 0x200 => some (if field t.mod 0 2 == 3 then .mloadSc t else if field t.mod 0 2 != 0 then .mloadCv t else .mload t)
  | 0x201 => some (if field t.mod 0 2 == 3 then .mstoreSc t else .mstore t)
  | 0x202 => some (.mzero t)
  | 0x203 => some (if bit t.mod 0 then .mmovCv t else .mmov t)
  | 0x204 => some (.mtr t)
  | 0x205 => some (.mma t)
  | 0x206 => some (.mdrain t)
  | 0x207 => some (.mdrainX t)
  | 0x208 => some (.mkat t)
  | 0x209 => some (.mslot t)
  | 0x20a => some (if field t.mod 0 3 == 4 then .mcntSet t else .mcnt t)
  | 0x20b => some (.mclr t)
  | 0x20c => some (.mthr t)
  | 0x20d => some (.mpair t)
  | 0x20e => some (if field t.mod 0 2 == 1 then .mstampNow t else if field t.mod 0 2 == 2 then .mstampAdd t else .mstamp t)
  | 0x20f => some (.mscl t)
  | 0x210 => some (if field t.mod 0 3 == 1 then .mwaitTags t else if field t.mod 0 3 == 2 then .mwaitLine t else if field t.mod 0 3 == 3 then .mwaitTake t else if field t.mod 0 3 == 4 then .mwaitIdle t else if field t.mod 0 3 == 5 then .mwaitPost t else .mwaitScnt t)
  | 0x211 => some (.nmv t)
  | 0x212 => some (.nmvAcc t)
  | 0x27e => some (if bit t.mod 0 then .nopRepMx t else .nopMx t)
  | 0x27f => some (.rdvMx t)
  | _ => none

/-- The shared-tile-set rows of the opcode map (R81). -/
def decodeTile (o : Nat) (t : Tpl) : Option Instr :=
  match o with
  | 0x280 => some (.tmma t)
  | 0x281 => some (.tconv t)
  | 0x282 => some (.tnmv t)
  | 0x283 => some (.tmap t)
  | 0x284 => some (.tred t)
  | 0x285 => some (.tcopy t)
  | 0x286 => some (.tkat t)
  | 0x287 => some (.tbar t)
  | 0x288 => some (.tdesc t)
  | 0x289 => some (.tsync t)
  | _ => none

/-- The copy, completion and synchronisation rows of the opcode map (R81). -/
def decodeCopy (o : Nat) (t : Tpl) : Option Instr :=
  match o with
  | 0x300 => some (if bit t.mod 0 then .cpostQ t else .cpost t)
  | 0x301 => some (.cwanyCx t)
  | 0x302 => some (.cwallCx t)
  | 0x303 => some (.cfirstCx t)
  | 0x304 => some (.ctestCx t)
  | 0x305 => some (.ctclrCx t)
  | 0x306 => some (.fefill t)
  | 0x307 => some (.feempty t)
  | 0x308 => some (.fetestCx t)
  | 0x309 => some (.lbset t)
  | 0x30a => some (.lbadv t)
  | 0x30b => some (.chalo t)
  | 0x30c => some (.covl t)
  | 0x30d => some (.bcpost t)
  | 0x30e => some (if field t.mod 0 2 == 1 then .bcwaitRd t else if field t.mod 0 2 == 2 then .bcwaitArm t else .bcwait t)
  | 0x318 => some (.fenceCx t)
  | 0x37e => some (if bit t.mod 0 then .nopRepCx t else .nopCx t)
  | 0x37f => some (.rdvCx t)
  | _ => none

/-- The system rows of the opcode map (R81). -/
def decodeSystem (o : Nat) (t : Tpl) : Option Instr :=
  match o with
  | 0x380 => some (.csrr t)
  | 0x381 => some (if bit t.mod 0 then .csrwCtx t else .csrw t)
  | 0x382 => some (.eret t)
  | 0x383 => some (.sysc t)
  | 0x384 => some (if field t.mod 0 2 == 1 then .tlbiPage t else .tlbiCtx t)
  | 0x385 => some (.atbw t)
  | 0x386 => some (.incb t)
  | 0x387 => some (.reclaim t)
  | 0x388 => some (.ctxsave t)
  | 0x389 => some (.ctxload t)
  | 0x38a => some (.pstop t)
  | 0x38b => some (if bit t.mod 0 then .prunCore t else .prun t)
  | 0x38c => some (.preempt t)
  | 0x38d => some (.hltclr t)
  | 0x38e => some (.gate t)
  | 0x38f => some (.wake t)
  | 0x390 => some (.alarmclr t)
  | 0x391 => some (if bit t.mod 0 then .logrdPop t else .logrd t)
  | 0x392 => some (.ckpt t)
  | _ => none

/-- The instruction with opcode `o` (R81): OPC[9:7] gives the class. -/
def decodeOpc (o : Nat) (t : Tpl) : Option Instr :=
  match o / 128 with
  | 0 => decodeControl o t
  | 1 => decodeControlExt o t
  | 2 => decodeVector o t
  | 3 => decodeVectorExt o t
  | 4 => decodeMatrix o t
  | 5 => decodeTile o t
  | 6 => decodeCopy o t
  | 7 => decodeSystem o t
  | _ => none

/-- The opcode and the fields of a template instruction; none for a word-level form or an event. -/
def opcTpl? : Instr → Option (Nat × Tpl)
  | .add t => some (0x000, t)
  | .sub t => some (0x001, t)
  | .addi t => some (0x002, t)
  | .mul t => some (0x003, t)
  | .mulh t => some (0x004, t)
  | .mulhu t => some (0x005, t)
  | .div t => some (0x006, t)
  | .divu t => some (0x007, t)
  | .rem t => some (0x008, t)
  | .remu t => some (0x009, t)
  | .and t => some (0x00a, t)
  | .or t => some (0x00b, t)
  | .xor t => some (0x00c, t)
  | .andn t => some (0x00d, t)
  | .orn t => some (0x00e, t)
  | .shl t => some (0x00f, t)
  | .shr t => some (0x010, t)
  | .sra t => some (0x011, t)
  | .rotl t => some (0x012, t)
  | .clz t => some (0x013, t)
  | .ctz t => some (0x014, t)
  | .popc t => some (0x015, t)
  | .min t => some (0x016, t)
  | .max t => some (0x017, t)
  | .minu t => some (0x018, t)
  | .maxu t => some (0x019, t)
  | .sel t => some (0x01a, t)
  | .cmp t => some (0x01b, t)
  | .cmpi t => some (0x01c, t)
  | .li t => some (0x01d, t)
  | .liHi t => some (0x01d, t)
  | .mov t => some (0x01e, t)
  | .br t => some (0x028, t)
  | .jmp t => some (0x029, t)
  | .call t => some (0x02a, t)
  | .ret t => some (0x02b, t)
  | .jr t => some (0x02c, t)
  | .loop t => some (0x02d, t)
  | .ld t => some (0x030, t)
  | .st t => some (0x031, t)
  | .pf t => some (0x032, t)
  | .rpush t => some (0x038, t)
  | .rpop t => some (0x039, t)
  | .rpeek t => some (0x03a, t)
  | .rlevel t => some (0x03b, t)
  | .fpush t => some (0x03c, t)
  | .wid t => some (0x040, t)
  | .rclaim t => some (0x041, t)
  | .tsub t => some (0x042, t)
  | .tsubRel t => some (0x042, t)
  | .tsubOff t => some (0x042, t)
  | .rdgtc t => some (0x043, t)
  | .rdscnt t => some (0x044, t)
  | .rdvc t => some (0x045, t)
  | .rdwarn t => some (0x046, t)
  | .warnclr t => some (0x047, t)
  | .trap t => some (0x048, t)
  | .nop t => some (0x07e, t)
  | .rdv t => some (0x07f, t)
  | .bext t => some (0x080, t)
  | .bdep t => some (0x081, t)
  | .madd t => some (0x082, t)
  | .adda t => some (0x083, t)
  | .fork t => some (0x090, t)
  | .forkR t => some (0x090, t)
  | .phase t => some (0x091, t)
  | .pub t => some (0x092, t)
  | .acq t => some (0x093, t)
  | .fence t => some (0x094, t)
  | .fenceCx t => some (0x318, t)
  | .ldAcq t => some (0x095, t)
  | .stRel t => some (0x096, t)
  | .amo t => some (0x097, t)
  | .amof t => some (0x098, t)
  | .cas t => some (0x099, t)
  | .tbarw t => some (0x09a, t)
  | .carve t => some (0x09b, t)
  | .cwany t => some (0x0a0, t)
  | .cwanyCx t => some (0x301, t)
  | .cwall t => some (0x0a1, t)
  | .cwallCx t => some (0x302, t)
  | .cfirst t => some (0x0a2, t)
  | .cfirstCx t => some (0x303, t)
  | .ctest t => some (0x0a3, t)
  | .ctestCx t => some (0x304, t)
  | .ctclr t => some (0x0a4, t)
  | .ctclrCx t => some (0x305, t)
  | .fetest t => some (0x0a5, t)
  | .fetestCx t => some (0x308, t)
  | .vadd t => some (0x100, t)
  | .vsub t => some (0x101, t)
  | .vmul t => some (0x102, t)
  | .vfma t => some (0x103, t)
  | .vfms t => some (0x104, t)
  | .vfnma t => some (0x105, t)
  | .vmin t => some (0x106, t)
  | .vmax t => some (0x107, t)
  | .vabs t => some (0x108, t)
  | .vneg t => some (0x109, t)
  | .vrcp t => some (0x10a, t)
  | .vrsqrt t => some (0x10b, t)
  | .vsqrt t => some (0x10c, t)
  | .vdiv t => some (0x10d, t)
  | .vexp2 t => some (0x10e, t)
  | .vlog2 t => some (0x10f, t)
  | .vtanh t => some (0x110, t)
  | .vcvt t => some (0x111, t)
  | .vand t => some (0x118, t)
  | .vor t => some (0x119, t)
  | .vxor t => some (0x11a, t)
  | .vnot t => some (0x11b, t)
  | .vshl t => some (0x11c, t)
  | .vshr t => some (0x11d, t)
  | .vsra t => some (0x11e, t)
  | .vclz t => some (0x11f, t)
  | .vpopc t => some (0x120, t)
  | .vcmp t => some (0x121, t)
  | .vsel t => some (0x122, t)
  | .pand t => some (0x128, t)
  | .por t => some (0x129, t)
  | .pxor t => some (0x12a, t)
  | .pnot t => some (0x12b, t)
  | .pcnt t => some (0x12c, t)
  | .pfirst t => some (0x12d, t)
  | .pset t => some (0x12e, t)
  | .vquant t => some (0x180, t)
  | .vdequant t => some (0x181, t)
  | .vhad t => some (0x182, t)
  | .vsmooth t => some (0x183, t)
  | .vamax t => some (0x184, t)
  | .vred t => some (0x188, t)
  | .vscan t => some (0x189, t)
  | .vperm t => some (0x18a, t)
  | .vbcast t => some (0x18b, t)
  | .vsplat t => some (0x18c, t)
  | .vmov t => some (0x18d, t)
  | .vmovs t => some (0x18e, t)
  | .vins t => some (0x18f, t)
  | .vld t => some (0x190, t)
  | .vst t => some (0x191, t)
  | .vldx t => some (0x192, t)
  | .vstx t => some (0x193, t)
  | .vstxAdd t => some (0x194, t)
  | .vldslc t => some (0x195, t)
  | .vstslc t => some (0x196, t)
  | .vsrnd t => some (0x197, t)
  | .vsrndRd t => some (0x197, t)
  | .ckptVx t => some (0x1fd, t)
  | .nopVx t => some (0x1fe, t)
  | .nopRepVx t => some (0x1fe, t)
  | .rdvVx t => some (0x1ff, t)
  | .mload t => some (0x200, t)
  | .mloadCv t => some (0x200, t)
  | .mloadSc t => some (0x200, t)
  | .mstore t => some (0x201, t)
  | .mstoreSc t => some (0x201, t)
  | .mzero t => some (0x202, t)
  | .mmov t => some (0x203, t)
  | .mmovCv t => some (0x203, t)
  | .mtr t => some (0x204, t)
  | .mma t => some (0x205, t)
  | .mdrain t => some (0x206, t)
  | .mdrainX t => some (0x207, t)
  | .mkat t => some (0x208, t)
  | .mslot t => some (0x209, t)
  | .mcnt t => some (0x20a, t)
  | .mcntSet t => some (0x20a, t)
  | .mclr t => some (0x20b, t)
  | .mthr t => some (0x20c, t)
  | .mpair t => some (0x20d, t)
  | .mstamp t => some (0x20e, t)
  | .mstampNow t => some (0x20e, t)
  | .mstampAdd t => some (0x20e, t)
  | .mscl t => some (0x20f, t)
  | .mwaitScnt t => some (0x210, t)
  | .mwaitTags t => some (0x210, t)
  | .mwaitLine t => some (0x210, t)
  | .mwaitTake t => some (0x210, t)
  | .mwaitIdle t => some (0x210, t)
  | .mwaitPost t => some (0x210, t)
  | .nmv t => some (0x211, t)
  | .nmvAcc t => some (0x212, t)
  | .nopMx t => some (0x27e, t)
  | .nopRepMx t => some (0x27e, t)
  | .rdvMx t => some (0x27f, t)
  | .tmma t => some (0x280, t)
  | .tconv t => some (0x281, t)
  | .tnmv t => some (0x282, t)
  | .tmap t => some (0x283, t)
  | .tred t => some (0x284, t)
  | .tcopy t => some (0x285, t)
  | .tkat t => some (0x286, t)
  | .tbar t => some (0x287, t)
  | .tdesc t => some (0x288, t)
  | .tsync t => some (0x289, t)
  | .cpost t => some (0x300, t)
  | .cpostQ t => some (0x300, t)
  | .fefill t => some (0x306, t)
  | .feempty t => some (0x307, t)
  | .lbset t => some (0x309, t)
  | .lbadv t => some (0x30a, t)
  | .chalo t => some (0x30b, t)
  | .covl t => some (0x30c, t)
  | .bcpost t => some (0x30d, t)
  | .bcwait t => some (0x30e, t)
  | .bcwaitRd t => some (0x30e, t)
  | .bcwaitArm t => some (0x30e, t)
  | .nopCx t => some (0x37e, t)
  | .nopRepCx t => some (0x37e, t)
  | .rdvCx t => some (0x37f, t)
  | .csrr t => some (0x380, t)
  | .csrw t => some (0x381, t)
  | .csrwCtx t => some (0x381, t)
  | .eret t => some (0x382, t)
  | .sysc t => some (0x383, t)
  | .tlbiCtx t => some (0x384, t)
  | .tlbiPage t => some (0x384, t)
  | .atbw t => some (0x385, t)
  | .incb t => some (0x386, t)
  | .reclaim t => some (0x387, t)
  | .ctxsave t => some (0x388, t)
  | .ctxload t => some (0x389, t)
  | .pstop t => some (0x38a, t)
  | .prun t => some (0x38b, t)
  | .prunCore t => some (0x38b, t)
  | .preempt t => some (0x38c, t)
  | .hltclr t => some (0x38d, t)
  | .gate t => some (0x38e, t)
  | .wake t => some (0x38f, t)
  | .alarmclr t => some (0x390, t)
  | .logrd t => some (0x391, t)
  | .logrdPop t => some (0x391, t)
  | .ckpt t => some (0x392, t)
  | _ => none

/-- The instruction a 128-bit template stands for (R69, R81), or the step of R80 that refuses it. -/
def decodeTpl (w : W128) : Except Reject Instr :=
  match decodeOpc (tplOpc w) (unpackTpl w) with
  | some i => .ok i
  | none => .error (.unassignedOpcode (tplOpc w))

/-! ## Operand positions -/

/-- The registers a position accepts. -/
inductive RegKind where
  /-- Not read. -/
  | no
  /-- A scalar or special code. -/
  | s
  /-- A predicate code. -/
  | p
  /-- A scalar, special or predicate code (`mov`, R127). -/
  | y
  /-- A vector code. -/
  | v
  /-- A tile code. -/
  | z
  /-- An accumulator code. -/
  | a
  /-- A tile or accumulator code. -/
  | t
  deriving DecidableEq, Repr

/-- Whether code `c` names a register that position kind `k` accepts with `regsl` register slices (R50). -/
def RegKind.accepts (k : RegKind) (regsl c : Nat) : Bool :=
  let special := 168 ≤ c && c ≤ 179
  let pr := 128 ≤ c && c ≤ 143
  let tile := (144 ≤ c && c ≤ 151) || (152 ≤ c && c ≤ 159 && regsl == 2)
  let accum := (160 ≤ c && c ≤ 163) || (164 ≤ c && c ≤ 167 && regsl == 2)
  match k with
  | .no => true
  | .s => c < 64 || special
  | .p => pr
  | .y => c < 64 || special || pr
  | .v => 64 ≤ c && c ≤ 127
  | .z => tile
  | .a => accum
  | .t => tile || accum

/-- When CTL.SCOPE is read: never, always, or with an order that is not relaxed. -/
inductive ScopeUse where
  | never | always | withOrder
  deriving DecidableEq, Repr

/-- What an instruction's entry says of its fields. -/
structure OpInfo where
  dst : RegKind := .no
  sa : RegKind := .no
  sb : RegKind := .no
  sc : RegKind := .no
  /-- IMM is read. -/
  imm : Bool := false
  /-- EXT is read. -/
  ext : Bool := false
  /-- The MOD bits that the entry defines. -/
  mod : Nat := 0
  /-- 0: does not round (row 4); 1: rounds without stochastic rounding (row 6); 2: offers it. -/
  rnd : Nat := 0
  /-- Has a saturating form (row 7). -/
  sat : Bool := false
  scope : ScopeUse := .never
  /-- CTL.ORD is not read (row 10), or the orders that apply: bit 0 acquire, bit 1 release (row 11). -/
  ord : Option Nat := none
  /-- Predicated (otherwise row 19). -/
  pred : Bool := true
  /-- Takes an EXT slice (otherwise row 2). -/
  slice : Bool := false
  deriving DecidableEq, Repr

/-- Three scalar operands. -/
def infoSss : OpInfo := { dst := .s, sa := .s, sb := .s }

/-- R118, R119: the control rows. -/
def infoControl (o : Nat) (t : Tpl) : OpInfo :=
  if o ≤ 0x001 then { infoSss with sat := true }
  else if o = 0x002 then { dst := .s, sa := .s, imm := true, sat := true }
  else if o ≤ 0x00E then infoSss
  else if o ≤ 0x012 then
    if bit t.mod 0 then { dst := .s, sa := .s, imm := true, mod := 1 } else { infoSss with mod := 1 }
  else if o ≤ 0x015 then { dst := .s, sa := .s }
  else if o ≤ 0x019 then infoSss
  else if o = 0x01A then { infoSss with sc := .p }
  else if o = 0x01B then { dst := .p, sa := .s, sb := .s, mod := 7 }
  else if o = 0x01C then { dst := .p, sa := .s, imm := true, mod := 7 }
  else if o = 0x01D then { dst := .s, sa := if bit t.mod 0 then .s else .no, imm := true, mod := 1 }
  else if o = 0x01E then { dst := .y, sa := .y }
  else if o = 0x028 then { sa := .s, sb := .s, imm := true, mod := 15 }
  else if o = 0x029 then { imm := true, mod := 1 }
  else if o = 0x02A then { imm := true }
  else if o = 0x02B then {}
  else if o = 0x02C then { sa := .s, imm := true }
  else if o = 0x02D then { dst := .s, sa := .s, imm := true, mod := 1 }
  else if o = 0x030 then
    { dst := .s, sa := .s, imm := true, mod := 15, scope := .withOrder, ord := if bit t.mod 3 then none else some 1 }
  else if o = 0x031 then
    { sa := .s, sb := .s, imm := true, mod := 11, scope := .withOrder, ord := if bit t.mod 3 then none else some 2 }
  else if o = 0x032 then { sa := .s, imm := true, mod := 1 }
  else if o = 0x038 then { sa := .s, mod := 1 }
  else if o ≤ 0x03B then { dst := .s, mod := 1 }
  else if o = 0x03C then { sa := .s }
  else if o = 0x040 then { dst := .s, mod := 15 }
  else if o = 0x041 then { dst := .s, sa := .s }
  else if o = 0x042 then if bit t.mod 1 then { mod := 3 } else { sa := .s, imm := true, mod := 3 }
  else if o ≤ 0x045 then { dst := .s }
  else if o = 0x046 then { dst := .s, mod := 7 }
  else if o = 0x047 then { sa := .s, mod := 7 }
  else if o = 0x048 then { imm := true }
  else { pred := false }

/-- Whether the low four MOD bits of an atomic name `.fadd` (R303). -/
def amoIsFadd (t : Tpl) : Bool := field t.mod 0 4 == 9

/-- The MOD bits an atomic defines (R303): operations 10 to 15 read as zero, and `.fadd` has no `.d` form. -/
def amoMod (t : Tpl) : Nat :=
  if amoIsFadd t then 15 else if 10 ≤ field t.mod 0 4 then 16 else 31

/-- R118, R294, R249: the control-extended rows. -/
def infoControlExt (o : Nat) (t : Tpl) : OpInfo :=
  if o ≤ 0x081 then infoSss
  else if o = 0x082 then { infoSss with sc := .s }
  else if o = 0x083 then { infoSss with imm := true, mod := 3, sat := true }
  else if o = 0x090 then if bit t.mod 5 then { sa := .s, mod := 0x27 } else { mod := 0x3F }
  else if o = 0x091 then { scope := .withOrder, ord := some 3 }
  else if o = 0x092 then { sa := .s, sb := .s, scope := .always, ord := some 2 }
  else if o = 0x093 then { scope := .always, ord := some 1 }
  else if o = 0x094 then { mod := 0x1F }
  else if o = 0x095 then { dst := .s, sa := .s, imm := true, mod := 7, scope := .always, ord := some 1 }
  else if o = 0x096 then { sa := .s, sb := .s, imm := true, mod := 3, scope := .always, ord := some 2 }
  else if o = 0x097 then
    { sa := .s, sb := .s, imm := true, mod := amoMod t, rnd := if amoIsFadd t then 1 else 0, scope := .always, ord := some 3 }
  else if o = 0x098 then
    { infoSss with imm := true, mod := amoMod t, rnd := if amoIsFadd t then 1 else 0, scope := .always, ord := some 3 }
  else if o = 0x099 then { infoSss with sc := .s, imm := true, mod := 0x11, scope := .always, ord := some 3 }
  else if o = 0x09A then { dst := .s, ord := some 3 }
  else if o = 0x09B then { dst := .s, sa := .s, ord := some 3 }
  else if o ≤ 0x0A2 then { dst := .s, sa := .s, mod := 1 }
  else if o = 0x0A3 then { dst := .s, sa := .s }
  else if o = 0x0A4 then { sa := .s }
  else { dst := .s, sa := .s }

/-- Whether vector opcode `o` accepts element type `ty` (R148, R151, R152, R157, R170). -/
def vtypeOk (o ty : Nat) : Bool :=
  if o ≤ 0x101 ∨ (0x118 ≤ o ∧ o ≤ 0x11A) ∨ (0x11C ≤ o ∧ o ≤ 0x11E) then true
  else if 0x10A ≤ o ∧ o ≤ 0x110 then ty ≤ 2
  else if o = 0x194 then ty == 0 || ty == 3 || ty == 4
  else ty < 7

/-- The element type an instruction runs with: one its entry does not accept reads as `.f32` (R148). -/
def vtypeOf (o : Nat) (t : Tpl) : Nat :=
  let ty := field t.mod 0 3
  if vtypeOk o ty then ty else 0

/-- The low MOD bits that the entry defines for this word: none of them for a type it does not accept (row 17). -/
def vtypeMask (o : Nat) (t : Tpl) : Nat := if vtypeOk o (field t.mod 0 3) then 7 else 0

/-- How a typed instruction rounds: integer types do not (R149). -/
def vrnd (o : Nat) (t : Tpl) (r : Nat) : Nat := if vtypeOf o t ≤ 2 then r else 0

/-- The part-number bits that format code `c` uses (R153): a register holds 32 over the element width parts. -/
def partMask (c : Nat) : Nat :=
  if c = 16 then 7
  else if c = 17 ∨ c = 18 ∨ c = 22 then 1
  else if c = 19 ∨ c = 23 then 0
  else 3

/-- R147-R157: the vector rows. -/
def infoVector (o : Nat) (t : Tpl) : OpInfo :=
  let m := vtypeMask o t
  let scal := vtypeOf o t == 7
  if o ≤ 0x101 then
    if scal then { infoSss with imm := true, mod := 7, sat := true }
    else { dst := .v, sa := .v, sb := .v, mod := 7, rnd := vrnd o t 2, sat := true }
  else if o = 0x102 then { dst := .v, sa := .v, sb := .v, mod := m, rnd := vrnd o t 2, sat := true }
  else if o ≤ 0x105 then { dst := .v, sa := .v, sb := .v, sc := .v, mod := m, rnd := vrnd o t 2, sat := true }
  else if o ≤ 0x107 then { dst := .v, sa := .v, sb := .v, mod := m }
  else if o ≤ 0x109 then { dst := .v, sa := .v, mod := m, sat := true }
  else if o ≤ 0x10C then { dst := .v, sa := .v, mod := m, rnd := 1, sat := true }
  else if o = 0x10D then { dst := .v, sa := .v, sb := .v, mod := m, rnd := 1, sat := true }
  else if o ≤ 0x110 then { dst := .v, sa := .v, mod := m, rnd := 1, sat := true }
  else if o = 0x111 then
    { dst := .v, sa := .v, imm := true, mod := 8 * partMask (field t.imm 8 5) + partMask (field t.imm 0 5), rnd := 2,
      sat := true }
  else if o ≤ 0x11A then
    if scal then { infoSss with mod := 7 } else { dst := .v, sa := .v, sb := .v, mod := 7 }
  else if o = 0x11B then { dst := .v, sa := .v }
  else if o ≤ 0x11E then
    let k : RegKind := if scal then .s else .v
    if bit t.mod 3 then { dst := k, sa := k, imm := true, mod := 15 } else { dst := k, sa := k, sb := k, mod := 15 }
  else if o ≤ 0x120 then { dst := .v, sa := .v, mod := m }
  else if o = 0x121 then { dst := .p, sa := .v, sb := .v, mod := 0x38 ||| m }
  else if o = 0x122 then { dst := .v, sa := .v, sb := .v, sc := .p }
  else if o ≤ 0x12A then { dst := .p, sa := .p, sb := .p }
  else if o = 0x12B then { dst := .p, sa := .p }
  else if o = 0x12C then { dst := .s, sa := .p }
  else if o = 0x12D then { dst := .p, sa := .p }
  else if field t.mod 0 2 = 1 then { dst := .p, sa := .s, mod := 3 }
  else { dst := .p, imm := true, mod := 3 }

/-- The reduction operator MOD bits that are defined: operators 6 and 7 read as zero (R163). -/
def vredMod (o : Nat) (t : Tpl) : Nat := vtypeMask o t ||| (if field t.mod 3 3 < 6 then 0x38 else 0)

/-- R159-R172: the vector-extended rows. A relaxed `vld`, `vst`, `vldx` or `vstx` reads no SCOPE, so that one other than 0 sets SCOPENA, although
R147 lists these forms among the readers of SCOPE (log entry 92). -/
def infoVectorExt (o : Nat) (t : Tpl) : OpInfo :=
  let sp := bit t.mod 3
  if o ≤ 0x181 then { dst := .v, sa := .v, sb := .s, sc := .s, mod := 7, rnd := 2, sat := true }
  else if o = 0x182 then { dst := .v, sa := .v, mod := 1 }
  else if o = 0x183 then { dst := .v, sa := .v, sb := .v, mod := 1, rnd := 2, sat := true }
  else if o = 0x184 then { dst := .v, sa := .v, mod := 3 }
  else if o ≤ 0x189 then { dst := .v, sa := .v, imm := true, mod := vredMod o t, rnd := vrnd o t 1, sat := true }
  else if o = 0x18A then { dst := .v, sa := .v, sb := .v, sc := .v }
  else if o = 0x18B then { dst := .v, sa := .v, imm := true, mod := 1 }
  else if o = 0x18C then
    if bit t.mod 0 then { dst := .v, imm := true, mod := 1 } else { dst := .v, sa := .s, mod := 1 }
  else if o = 0x18D then { dst := .v, sa := .v }
  else if o = 0x18E then { dst := .s, sa := .v, imm := true, mod := 1 }
  else if o = 0x18F then { dst := .v, sa := .s, imm := true }
  else if o = 0x190 then
    { dst := .v, sa := .s, imm := true, mod := 12, scope := .withOrder, ord := if sp then none else some 1 }
  else if o = 0x191 then
    { sa := .s, sb := .v, imm := true, mod := 12, scope := .withOrder, ord := if sp then none else some 2 }
  else if o = 0x192 then
    { dst := .v, sa := .s, sb := .v, imm := true, mod := 8, scope := .withOrder, ord := if sp then none else some 1 }
  else if o = 0x193 then
    { sa := .s, sb := .v, sc := .v, imm := true, mod := 8, scope := .withOrder, ord := if sp then none else some 2 }
  else if o = 0x194 then
    { sa := .s, sb := .v, sc := .v, imm := true, mod := 8 ||| vtypeMask o t, rnd := vrnd o t 1, sat := true,
      scope := .always, ord := if sp then none else some 3 }
  else if o ≤ 0x196 then
    let k := if o = 0x195 then t.sa else t.dst
    let view := if 160 ≤ k.toNat then 0 else if field t.mod 2 2 = 3 then 0 else 12
    if o = 0x195 then { dst := .v, sa := .t, imm := true, ext := true, mod := view, slice := true }
    else { dst := .t, sa := .v, imm := true, ext := true, mod := view, slice := true }
  else if o = 0x197 then if bit t.mod 0 then { dst := .v, mod := 1 } else { sa := .v, mod := 1 }
  else if o = 0x1FD then { imm := true }
  else if o = 0x1FE then if bit t.mod 0 then { sa := .s, imm := true, mod := 1, pred := false } else { mod := 1, pred := false }
  else { pred := false }

/-- R204, R205: the matrix rows; every one is unpredicated. -/
def infoMatrix (o : Nat) (t : Tpl) : OpInfo :=
  let va := bit t.mod 3
  if o = 0x200 then
    let k := field t.mod 0 2
    let view := if k = 0 ∧ bit t.mod 2 ∧ field t.mod 4 2 ≠ 3 then 0x30 else 0
    let tr := if k = 3 then 0 else 4
    { dst := .z, sa := .s, sb := if k = 1 ∨ k = 2 then .s else .no, imm := true, ext := true, mod := 11 ||| tr ||| view,
      rnd := if k = 1 ∨ k = 2 then 2 else 0, sat := k == 1 || k == 2, scope := .withOrder,
      ord := if va then some 1 else none, pred := false }
  else if o = 0x201 then
    let k := field t.mod 0 2
    { sa := .s, sb := .z, imm := true, ext := true, mod := 8 ||| (if k = 1 ∨ k = 2 then 0 else 3), scope := .withOrder,
      ord := if va then some 2 else none, pred := false }
  else if o = 0x202 then { dst := .t, pred := false }
  else if o = 0x203 then
    if bit t.mod 0 then { dst := .z, sa := .a, mod := 1, pred := false }
    else if 160 ≤ t.dst.toNat then { dst := .a, sa := .a, mod := 1, pred := false }
    else { dst := .z, sa := .z, mod := 1, pred := false }
  else if o = 0x204 then
    if 160 ≤ t.dst.toNat then { dst := .a, sa := .a, pred := false } else { dst := .z, sa := .z, pred := false }
  else if o = 0x205 then { dst := .a, sa := .z, sb := .z, ext := true, mod := 1, pred := false }
  else if o = 0x206 then
    { sa := .s, sb := .a, imm := true, ext := true, mod := 9, scope := .withOrder, ord := if va then some 2 else none,
      pred := false }
  else if o = 0x207 then
    { sa := .s, sb := .a, sc := .s, imm := true, ext := true, mod := 9, scope := .withOrder,
      ord := if va then some 2 else none, pred := false }
  else if o = 0x208 then { sa := .z, sb := .z, imm := true, ext := true, mod := 0x33, pred := false }
  else if o = 0x209 then { imm := true, ext := true, pred := false }
  else if o = 0x20A then
    let k := field t.mod 0 3
    if k = 4 then { dst := .s, sa := .s, imm := true, mod := 7, pred := false }
    else { dst := .s, imm := k != 5 && k != 6, mod := if k = 7 then 0 else 7, pred := false }
  else if o = 0x20B then { imm := true, mod := 7, pred := false }
  else if o = 0x20C then { sa := .s, imm := true, mod := if field t.mod 0 2 = 3 then 0 else 3, pred := false }
  else if o = 0x20D then
    { dst := if bit t.mod 2 then .no else .a, sa := .z, sb := .z, ext := true, mod := 7, pred := false }
  else if o = 0x20E then
    let k := field t.mod 0 2
    { sa := if k = 1 ∨ k = 2 then .no else .s, imm := true, mod := if k = 3 then 0 else 3, pred := false }
  else if o = 0x20F then { dst := .a, sa := .s, sb := .s, pred := false }
  else if o = 0x210 then
    let k := field t.mod 0 3
    { sa := if k = 4 then .no else .s, imm := k != 1 && k != 4, mod := if k < 6 then 7 else 0, pred := false }
  else if o ≤ 0x212 then { sa := .s, imm := true, mod := 0x3F, pred := false }
  else if o = 0x27E then if bit t.mod 0 then { sa := .s, imm := true, mod := 1, pred := false } else { mod := 1, pred := false }
  else { pred := false }

/-- R174: the shared-tile-set rows. -/
def infoTile (o : Nat) (t : Tpl) : OpInfo :=
  if o = 0x288 then { sa := .s, imm := true, mod := 15 }
  else { sa := .s, sb := if field t.mod 0 3 = 5 then .s else .no, imm := true, mod := 15 }

/-- R249, R250: the copy, completion and barrier rows of CX, and its fence (R300). -/
def infoCopy (o : Nat) (t : Tpl) : OpInfo :=
  if o = 0x300 then
    if bit t.mod 0 then { infoSss with imm := true, mod := 9 } else { sa := .s, imm := true, mod := 9 }
  else if o ≤ 0x303 then { dst := .s, sa := .s, mod := 1 }
  else if o = 0x304 then { dst := .s, sa := .s }
  else if o = 0x305 then { sa := .s }
  else if o ≤ 0x307 then { sa := .s, imm := true }
  else if o = 0x308 then { dst := .s, sa := .s }
  else if o = 0x309 then { sa := .s, imm := true, mod := 11 }
  else if o = 0x30A then { imm := true, mod := 3 }
  else if o = 0x30B then { sa := .s, sb := .s, imm := true, mod := 3 }
  else if o = 0x30C then { sa := .s, imm := true, mod := 8 }
  else if o = 0x30D then { dst := .s, sa := .s, imm := true }
  else if o = 0x30E then
    let k := field t.mod 0 2
    if k = 1 then { dst := .s, imm := true, mod := 3 }
    else if k = 2 then { sa := .s, imm := true, mod := 3 }
    else { dst := .s, sa := .s, imm := true, mod := if k = 3 then 0 else 3 }
  else if o = 0x318 then { mod := 0x1F }
  else if o = 0x37E then if bit t.mod 0 then { sa := .s, imm := true, mod := 1, pred := false } else { mod := 1, pred := false }
  else { pred := false }

/-- R337, R338, R408: the system rows. -/
def infoSystem (o : Nat) (t : Tpl) : OpInfo :=
  if o = 0x380 then { dst := .s, imm := true }
  else if o = 0x381 then { sa := .s, sb := if bit t.mod 0 then .s else .no, imm := true, mod := 1 }
  else if o = 0x382 then {}
  else if o = 0x383 then { imm := true }
  else if o = 0x384 then
    let k := field t.mod 0 2
    { sa := .s, sb := if k = 1 then .s else .no, mod := if k ≤ 1 then 3 else 0 }
  else if o = 0x385 then { sa := .s, sb := .s, sc := .s }
  else if o = 0x386 then { dst := .s, sa := .s }
  else if o = 0x387 then { sa := .s }
  else if o = 0x388 then infoSss
  else if o = 0x389 then { infoSss with sc := .s }
  else if o = 0x38A then { dst := .s, sa := .s }
  else if o = 0x38B then { dst := .s, sa := .s, sb := if bit t.mod 0 then .s else .no, mod := 1 }
  else if o ≤ 0x38F then { dst := .s, sa := .s }
  else if o = 0x390 then { dst := .s }
  else if o = 0x391 then { dst := .s, sa := .s, mod := 1 }
  else { imm := true }

/-- What the entry of opcode `o` says of its fields, for the word `t`. -/
def opInfo (o : Nat) (t : Tpl) : OpInfo :=
  match o / 128 with
  | 0 => infoControl o t
  | 1 => infoControlExt o t
  | 2 => infoVector o t
  | 3 => infoVectorExt o t
  | 4 => infoMatrix o t
  | 5 => infoTile o t
  | 6 => infoCopy o t
  | _ => infoSystem o t

/-- Whether stream `e` may issue opcode `o` (R13, R81). -/
def streamAccepts (e : StreamId) (o : Nat) : Bool :=
  match e with
  | .cl | .cc | .cs => o / 128 == 0 || o / 128 == 1 || o / 128 == 5 || o / 128 == 7
  | .vx => o / 128 == 2 || o / 128 == 3
  | .mx => o / 128 == 4
  | .cx => o / 128 == 6

/-- Whether opcode `o` needs supervisor privilege (the Level column of R337). -/
def isSupervisorOp (o : Nat) : Bool := 0x384 ≤ o && o ≤ 0x391

/-- R80 step 5: the first position whose code is outside the files it accepts. -/
def badRegister (regsl : Nat) (o : Nat) (t : Tpl) : Option Nat :=
  let f := opInfo o t
  if !f.dst.accepts regsl t.dst.toNat then some 0
  else if !f.sa.accepts regsl t.sa.toNat then some 1
  else if !f.sb.accepts regsl t.sb.toNat then some 2
  else if !f.sc.accepts regsl t.sc.toNat then some 3
  else none

/-! ## Patch words -/

/-- The fields of a patch word (R71). -/
structure Patch where
  t : Nat
  m : Nat
  f : Nat
  h : Nat
  v : Nat
  deriving DecidableEq, Repr

/-- A patch word cut into its fields (R71). -/
def unpackPatch (w : W32) : Patch :=
  { t := field w 26 6, m := field w 24 2, f := field w 20 4, h := field w 16 4, v := field w 0 16 }

/-- The patch word with the given fields (R71). -/
def packPatch (t m f h v : Nat) : W32 :=
  BitVec.ofNat 6 t ++ BitVec.ofNat 2 m ++ BitVec.ofNat 4 f ++ BitVec.ofNat 4 h ++ BitVec.ofNat 16 v

/-- The amendment that field-select code `f` makes (R73). -/
def amendField (w : W128) (f v : Nat) : W128 :=
  match f with
  | 0 => putField w 104 8 v
  | 1 => putField w 96 8 v
  | 2 => putField w 88 8 v
  | 3 => putField w 80 8 v
  | 4 => putField w 32 16 v
  | 5 => putField w 48 16 v
  | 6 => putField w 0 16 v
  | 7 => putField w 16 16 v
  | 8 => putField (putField w 104 8 (v / 256)) 96 8 v
  | 9 => putField (putField w 88 8 (v / 256)) 80 8 v
  | 10 => putField w 75 5 v
  | 11 => putField w 112 6 v
  | 12 => putField w 32 32 (if v % 65536 < 32768 then v % 65536 else v % 65536 + 0xFFFF0000)
  | 13 => putField w 16 14 v
  | 14 => putField w 118 10 v
  | _ => w

/-- The predicate override of H (R74): the negate bit is kept, the register becomes p0-p7. -/
def overridePred (w : W128) (h : Nat) : W128 :=
  if nbits h 3 1 = 1 then putField w 75 4 (nbits h 0 3) else w

/-- The copy of a template that a patch word makes (R72-R74): F first, then H. -/
def amend (w : W128) (f h v : Nat) : W128 := overridePred (amendField w f v) h

/-- How many V bits field-select code `f` uses (R73). -/
def amendWidth (f : Nat) : Nat :=
  match f with
  | 0 | 1 | 2 | 3 => 8
  | 10 => 5
  | 11 => 6
  | 13 => 14
  | 14 => 10
  | 15 => 0
  | _ => 16

/-- What one 32-bit word asks of its stream (R72). -/
inductive Word32 where
  /-- Mode 00: issue the amended copy of template `t`. -/
  | issue (t f h v : Nat)
  /-- Mode 01: as 00, and write the copy back. -/
  | issueWb (t f h v : Nat)
  /-- Mode 10: amend the staged copy. -/
  | stage (t f h v : Nat)
  /-- Mode 11, T = 63: four data words follow (R76). -/
  | loadIntro (n rsv : Nat)
  /-- Mode 11, T = 62: one data word follows (R77). -/
  | longIntro (n : Nat) (wb : Bool) (h rsv : Nat)
  deriving DecidableEq, Repr

/-- A patch word by its mode (R72). The reserved bits of an introducer are kept as one number (row 16): for a template
load F, H and V[15:6], for a long immediate F and V[15:7]. -/
def decodePatch (w : W32) : Except Reject Word32 :=
  let p := unpackPatch w
  match p.m with
  | 0 => .ok (.issue p.t p.f p.h p.v)
  | 1 => .ok (.issueWb p.t p.f p.h p.v)
  | 2 => .ok (.stage p.t p.f p.h p.v)
  | _ =>
    if p.t = 63 then .ok (.loadIntro (p.v % 64) (p.f * 16384 + p.h * 1024 + p.v / 64))
    else if p.t = 62 then .ok (.longIntro (p.v % 64) (nbits p.v 6 1 == 1) p.h (p.f * 512 + p.v / 128))
    else .error (.extendedIndex p.t)

/-- How many words the form begun by `w` takes (R76, R77). -/
def wordsOf (w : W32) : Nat :=
  let p := unpackPatch w
  if p.m = 3 then if p.t = 63 then 5 else if p.t = 62 then 2 else 1 else 1

/-- The instruction a form stands for, with the template its T names (`base`, the staging buffer's content or the
table's) and the words that follow its first (R72-R77). -/
def decodeForm (base : W128) (w : W32) (rest : List W32) : Except Reject Instr :=
  match decodePatch w with
  | .error r => .error r
  | .ok (.issue _ f h v) => decodeTpl (amend base f h v)
  | .ok (.issueWb t f h v) => .ok (.issueAndWriteBack t f h v)
  | .ok (.stage t f h v) => .ok (.stage t f h v)
  | .ok (.loadIntro n rsv) =>
    .ok (.templateLoad n rsv (rest.getD 0 0) (rest.getD 1 0) (rest.getD 2 0) (rest.getD 3 0))
  | .ok (.longIntro n wb h rsv) => .ok (.longImmediate n wb h rsv (rest.getD 0 0))

/-! ## The encoder -/

/-- The 32-bit words of a template, lowest first (R76). -/
def tplWords (w : W128) : List W32 :=
  [w.extractLsb' 0 32, w.extractLsb' 32 32, w.extractLsb' 64 32, w.extractLsb' 96 32]

/-- The template of four words (R76). -/
def wordsTpl (d0 d1 d2 d3 : W32) : W128 := d3 ++ d2 ++ d1 ++ d0

/-- The template of a template instruction (R69). -/
def encodeTpl (i : Instr) : Option W128 := (opcTpl? i).map fun p => packTpl p.1 p.2

/-- The words of an instruction: a word-level form's own words (R71, R76, R77), or the four words of the template of a
template instruction, lowest first (R69). An event has none. -/
def encode (i : Instr) : List W32 :=
  match i with
  | .stage t f h v => [packPatch t 2 f h v]
  | .issueAndWriteBack t f h v => [packPatch t 1 f h v]
  | .templateLoad n rsv d0 d1 d2 d3 =>
    [packPatch 63 3 (rsv / 16384) (rsv / 1024) (n % 64 + rsv % 1024 * 64), d0, d1, d2, d3]
  | .longImmediate n wb h rsv data =>
    [packPatch 62 3 (rsv / 512) h (n % 64 + (if wb then 64 else 0) + rsv % 512 * 128), data]
  | i => match encodeTpl i with
    | some w => tplWords w
    | none => []

/-- The instruction that words stand for: four words are a template (R69), and one, two or five words are a
word-level form of modes 01, 10 and 11 (R71-R77). -/
def decode (ws : List W32) : Except Reject Instr :=
  match ws with
  | [d0, d1, d2, d3] => decodeTpl (wordsTpl d0 d1 d2 d3)
  | w :: rest => decodeForm 0 w rest
  | [] => .error (.unassignedOpcode 0)

/-- The instruction read from a 32-bit word with the given bits, its operand words zero and the stream's template
table all zero (R66). -/
def decodeTableWord (_nbits w : Nat) : Option Instr :=
  match decodeForm 0 (BitVec.ofNat 32 w) [] with
  | .ok i => some i
  | .error _ => none

end Sys2Proof
end

