-- ==== Sys2Proof/Machine/Formats.lean ====
section
/-! DEFINITION. Number formats, decoding, exact arithmetic and the one rounding function (R89-R106). -/

namespace Sys2Proof.Machine

/-- An exact real, an infinity or NaN. `fin neg m e sticky` is `m * 2^e` with the sign, or, with `sticky`, a value
strictly between `m * 2^e` and `(m+1) * 2^e`; a sticky `m` always carries more bits than any format keeps. -/
inductive Num where
  | nan
  | inf (neg : Bool)
  | fin (neg : Bool) (m : Nat) (e : Int) (sticky : Bool)
  deriving DecidableEq, Repr

/-- Element formats (R90-R97). -/
inductive Fmt where
  | b8 (p : Nat) | ub8 (p : Nat) | e2m1 | bf16 | fp16 | fp32 | int8 | uint8 | int16 | int32
  deriving DecidableEq, Repr

/-- The format with code `c` (R115). -/
def Fmt.ofCode? (c : Nat) : Option Fmt :=
  if c ≤ 6 then some (.b8 (c + 1))
  else if c = 7 then none
  else if c ≤ 14 then some (.ub8 (c - 7))
  else match c with
    | 16 => some .e2m1 | 17 => some .bf16 | 18 => some .fp16 | 19 => some .fp32
    | 20 => some .int8 | 21 => some .uint8 | 22 => some .int16 | 23 => some .int32
    | _ => none

/-- Width of an element in bits (R89). -/
def Fmt.width : Fmt → Nat
  | .b8 _ | .ub8 _ | .int8 | .uint8 => 8
  | .e2m1 => 4
  | .bf16 | .fp16 | .int16 => 16
  | .fp32 | .int32 => 32

def Fmt.isInt : Fmt → Bool
  | .int8 | .uint8 | .int16 | .int32 => true
  | _ => false

/-- No code of the format is negative (R91, R97). -/
def Fmt.isUnsigned : Fmt → Bool
  | .ub8 _ | .uint8 => true
  | _ => false

/-- BF16, FP16 and FP32 (R96). -/
def Fmt.isIeee : Fmt → Bool
  | .bf16 | .fp16 | .fp32 => true
  | _ => false

/-- Significand bits, the leading bit counted (R101). -/
def Fmt.prec : Fmt → Nat
  | .b8 p | .ub8 p => p
  | .e2m1 => 2 | .bf16 => 8 | .fp16 => 11 | .fp32 => 24
  | _ => 1

/-- Exponent of the smallest normal value (R90-R92, R101). -/
def Fmt.emin : Fmt → Int
  | .b8 p => 1 - (2 ^ (7 - p) : Nat)
  | .ub8 p => 1 - (2 ^ (8 - p) : Nat)
  | .e2m1 => 0 | .bf16 => -126 | .fp16 => -14 | .fp32 => -126
  | _ => 0

/-- Bits of a code that hold the magnitude. -/
def Fmt.magBits : Fmt → Nat
  | .b8 _ => 7 | .ub8 _ => 8 | .e2m1 => 3 | .bf16 => 15 | .fp16 => 15 | .fp32 => 31
  | f => f.width

/-- The code of the largest finite magnitude (R92, R95, R101). -/
def Fmt.maxCode (f : Fmt) (inf : Bool) : Nat :=
  match f with
  | .b8 _ => if inf then 0x7E else 0x7F
  | .ub8 _ => if inf then 0xFD else 0xFE
  | .e2m1 => 7 | .bf16 => 0x7F7F | .fp16 => 0x7BFF | .fp32 => 0x7F7FFFFF
  | _ => 0

/-- The code of NaN (R90, R91, R96); e2m1 and the integers have none and give 0 (R97, R103). -/
def Fmt.nanCode : Fmt → Nat
  | .b8 _ => 0x80 | .ub8 _ => 0xFF | .bf16 => 0x7FC0 | .fp16 => 0x7E00 | .fp32 => 0x7FC00000
  | _ => 0

/-- Range of an integer format (R97). -/
def Fmt.intRange : Fmt → Int × Int
  | .int8 => (-128, 127)
  | .uint8 => (0, 255)
  | .int16 => (-32768, 32767)
  | _ => (-2147483648, 2147483647)

/-- The value of a magnitude code of a float format: exponent field above `prec - 1` fraction bits (R91, R95, R96). -/
def magValue (f : Fmt) (m : Nat) (neg : Bool) : Num :=
  let q := 2 ^ (f.prec - 1)
  let e := m / q
  let fr := m % q
  let ulp0 : Int := f.emin - (f.prec - 1 : Nat)
  if e = 0 ∧ f.prec ≠ 1 then .fin neg fr ulp0 false
  else if e = 0 then .fin neg 0 ulp0 false
  else .fin neg (q + fr) (ulp0 + (e - 1 : Nat)) false

/-- An integer as an exact number. -/
def Num.ofInt (x : Int) : Num := .fin (decide (x < 0)) x.natAbs 0 false

/-- decode(F, c, inf) (R90-R99, R106). -/
def decodeFmt (f : Fmt) (c : Nat) (inf : Bool) : Num :=
  match f with
  | .b8 _ =>
    let c := c % 256
    if c = 0x80 then .nan
    else if inf ∧ c = 0x7F then .inf false
    else if inf ∧ c = 0xFF then .inf true
    else magValue f (c % 128) (128 ≤ c)
  | .ub8 _ =>
    let c := c % 256
    if c = 0xFF then .nan else if inf ∧ c = 0xFE then .inf false else magValue f c false
  | .e2m1 => magValue f (c % 8) (8 ≤ c % 16)
  | .bf16 =>
    let m := c % 2 ^ 15
    if m > 0x7F80 then .nan else if m = 0x7F80 then .inf (c.testBit 15) else magValue f m (c.testBit 15)
  | .fp16 =>
    let m := c % 2 ^ 15
    if m > 0x7C00 then .nan else if m = 0x7C00 then .inf (c.testBit 15) else magValue f m (c.testBit 15)
  | .fp32 =>
    let m := c % 2 ^ 31
    if m > 0x7F800000 then .nan else if m = 0x7F800000 then .inf (c.testBit 31) else magValue f m (c.testBit 31)
  | .uint8 => Num.ofInt ((c % 256 : Nat) : Int)
  | .int8 => Num.ofInt (sx 8 c)
  | .int16 => Num.ofInt (sx 16 c)
  | .int32 => Num.ofInt (sx 32 c)

/-- The value of an E8M0 scale code (R98). -/
def decodeE8M0 (c : Nat) : Num :=
  if c % 256 = 255 then .nan else .fin false 1 ((c % 256 : Nat) - 127 : Int) false

/-- The value of a block scale: E8M0, or binary8p3 without infinities (R98, R99). -/
def decodeScale (p3 : Bool) (c : Nat) : Num :=
  if p3 then decodeFmt (.b8 3) c false else decodeE8M0 c

/-! ## Exact arithmetic -/

def Num.isNaN : Num → Bool
  | .nan => true
  | _ => false

def Num.isInf : Num → Bool
  | .inf _ => true
  | _ => false

def Num.isZero : Num → Bool
  | .fin _ 0 _ false => true
  | _ => false

/-- The sign bit; NaN counts as positive (R96). -/
def Num.neg? : Num → Bool
  | .nan => false
  | .inf n => n
  | .fin n _ _ _ => n

def Num.negate : Num → Num
  | .nan => .nan
  | .inf n => .inf (!n)
  | .fin n m e s => .fin (!n) m e s

def Num.abs : Num → Num
  | .nan => .nan
  | .inf _ => .inf false
  | .fin _ m e s => .fin false m e s

/-- Exact product; NaN for a NaN factor or infinity times zero (R108). -/
def Num.mul : Num → Num → Num
  | .nan, _ => .nan
  | _, .nan => .nan
  | .inf a, .inf b => .inf (a != b)
  | .inf a, .fin b m _ s => if m = 0 ∧ !s then .nan else .inf (a != b)
  | .fin a m _ s, .inf b => if m = 0 ∧ !s then .nan else .inf (a != b)
  | .fin a m e s, .fin b n f t => .fin (a != b) (m * n) (e + f) (s || t)

/-- A signed mantissa at exponent `e0 ≤ e`. -/
def alignMant (neg : Bool) (m : Nat) (e e0 : Int) : Int :=
  let v : Int := ((m <<< (e - e0).toNat : Nat) : Int)
  if neg then -v else v

/-- Exact sum. Opposite infinities give NaN. An exact zero sum of unlike signs is −0 under round-down (`rdn`) and +0
otherwise (R108, R151). -/
def Num.add (rdn : Bool) : Num → Num → Num
  | .nan, _ => .nan
  | _, .nan => .nan
  | .inf a, .inf b => if a = b then .inf a else .nan
  | .inf a, _ => .inf a
  | _, .inf b => .inf b
  | .fin a m e s, .fin b n f t =>
    if m = 0 ∧ n = 0 then .fin (if a = b then a else rdn) 0 0 (s || t)
    else if m = 0 then .fin b n f t
    else if n = 0 then .fin a m e s
    else
      let e0 := if e ≤ f then e else f
      let v := alignMant a m e e0 + alignMant b n f e0
      if v = 0 then .fin rdn 0 0 (s || t) else .fin (decide (v < 0)) v.natAbs e0 (s || t)

/-- Exact comparison of two numbers that are not NaN: whether `x < y`, zeros of both signs equal. -/
def Num.lt : Num → Num → Bool
  | .nan, _ => false
  | _, .nan => false
  | .inf a, .inf b => a && !b
  | .inf a, _ => a
  | _, .inf b => !b
  | .fin a m e _, .fin b n f _ =>
    let e0 := if e ≤ f then e else f
    decide (alignMant a m e e0 < alignMant b n f e0)

/-- Exact equality of two numbers that are not NaN, zeros of both signs equal. -/
def Num.eq (x y : Num) : Bool := !x.isNaN && !y.isNaN && !x.lt y && !y.lt x

/-- Multiply by `2^k`. -/
def Num.scale2 (x : Num) (k : Int) : Num :=
  match x with
  | .fin n m e s => .fin n m (e + k) s
  | y => y

/-- IEEE 754 quotient, exact up to 300 bits and sticky beyond. -/
def Num.div : Num → Num → Num
  | .nan, _ => .nan
  | _, .nan => .nan
  | .inf _, .inf _ => .nan
  | .inf a, .fin b _ _ _ => .inf (a != b)
  | .fin a _ _ _, .inf b => .fin (a != b) 0 0 false
  | .fin a m e s, .fin b n f _ =>
    if n = 0 then if m = 0 then .nan else .inf (a != b)
    else
      let k := 300 + bitLen n
      let q := (m <<< k) / n
      let r := (m <<< k) % n
      .fin (a != b) q (e - f - k) (s || r != 0)

/-- Floor of the square root, one bit at a time from bit `k - 1`. -/
def isqrtFrom (n : Nat) : Nat → Nat → Nat
  | 0, acc => acc
  | k + 1, acc =>
    let c := acc + 2 ^ k
    isqrtFrom n k (if c * c ≤ n then c else acc)

/-- Floor of the square root. -/
def isqrt (n : Nat) : Nat := isqrtFrom n (bitLen n / 2 + 1) 0

/-- Square root of a number that is not negative. -/
def Num.sqrt : Num → Num
  | .fin n m e s =>
    let k := 300
    let odd := e % 2 = 1
    let m' := (if odd then m * 2 else m) <<< (2 * k)
    let e' := (if odd then e - 1 else e) / 2 - k
    let r := isqrt m'
    .fin n r e' (s || r * r != m')
  | x => x

/-- Reciprocal square root of a positive finite number. -/
def Num.rsqrt : Num → Num
  | .fin n m e s =>
    let odd := e % 2 = 1
    let m' := if odd then m * 2 else m
    let e' := (if odd then e - 1 else e) / 2
    let k := 300 + bitLen m'
    let r := isqrt (2 ^ (2 * k) / m')
    .fin n r (-e' - k) (s || r * r * m' != 2 ^ (2 * k))
  | x => x

/-! ## Rounding -/

/-- Rounding modes (R70, R102). -/
inductive Rnd where
  | rne | rtz | rup | rdn | sr
  deriving DecidableEq, Repr

/-- The mode CTL.RND names; 101-111 mean RNE (R70, row 5). -/
def Rnd.ofCode (c : Nat) : Rnd :=
  match c with
  | 1 => .rtz | 2 => .rup | 3 => .rdn | 4 => .sr
  | _ => .rne

/-- A rounded code and whether R103 counts a saturation. -/
structure Rounded where
  code : Nat
  sat : Bool := false
  deriving DecidableEq, Repr

/-- A magnitude code with its sign (R90, R95, R96). -/
def signed (f : Fmt) (neg : Bool) (mag : Nat) : Nat := if neg then mag + 2 ^ f.magBits else mag

/-- zero_code: the binary8 families have no negative zero (R102). -/
def zeroCode (f : Fmt) (neg : Bool) : Nat :=
  match f with
  | .e2m1 | .bf16 | .fp16 | .fp32 => signed f neg 0
  | _ => 0

/-- The code of an infinity in a format that has one. -/
def infCode (f : Fmt) (neg : Bool) : Nat :=
  match f with
  | .b8 _ => if neg then 0xFF else 0x7F
  | .ub8 _ => 0xFE
  | .bf16 => signed f neg 0x7F80
  | .fp16 => signed f neg 0x7C00
  | .fp32 => signed f neg 0x7F800000
  | f => signed f neg (f.maxCode false)

/-- An integer's code in an integer format. -/
def intCode (f : Fmt) (x : Int) : Nat := narrow f.width x

/-- Overflow of a finite value (R103). -/
def overflowCode (f : Fmt) (neg : Bool) (md : Rnd) (sat inf : Bool) : Rounded :=
  match f with
  | .b8 _ =>
    if sat then ⟨signed f neg (f.maxCode inf), true⟩
    else if inf then ⟨infCode f neg, false⟩ else ⟨0x80, false⟩
  | .ub8 _ => if sat then ⟨f.maxCode inf, true⟩ else if inf then ⟨0xFE, false⟩ else ⟨0xFF, false⟩
  | .e2m1 => ⟨signed f neg 7, true⟩
  | .bf16 | .fp16 | .fp32 =>
    if sat then ⟨signed f neg (f.maxCode inf), true⟩
    else
      match md with
      | .rne | .sr => ⟨infCode f neg, false⟩
      | .rtz => ⟨signed f neg (f.maxCode inf), false⟩
      | .rup => ⟨if neg then signed f neg (f.maxCode inf) else infCode f neg, false⟩
      | .rdn => ⟨if neg then infCode f neg else signed f neg (f.maxCode inf), false⟩
  | f => ⟨intCode f (if neg then f.intRange.1 else f.intRange.2), true⟩

/-- NaN and infinite inputs (R103). -/
def specialCode (f : Fmt) (x : Num) (sat inf : Bool) : Rounded :=
  match x with
  | .inf neg =>
    match f with
    | .b8 _ => if inf then ⟨infCode f neg, false⟩ else if sat then ⟨signed f neg 0x7F, false⟩ else ⟨0x80, false⟩
    | .ub8 _ =>
      if neg then ⟨0, true⟩ else if inf then ⟨0xFE, false⟩ else if sat then ⟨0xFE, false⟩ else ⟨0xFF, false⟩
    | .e2m1 => ⟨signed f neg 7, false⟩
    | .bf16 | .fp16 | .fp32 => ⟨infCode f neg, false⟩
    | .uint8 => if neg then ⟨0, true⟩ else ⟨255, false⟩
    | f => ⟨intCode f (if neg then f.intRange.1 else f.intRange.2), false⟩
  | _ => ⟨f.nanCode, false⟩

/-- Whether the fraction part `r / 2^k` (plus a sticky remainder) rounds the magnitude up (R102). `odd` is bit 0 of the
lower candidate's code, `d` the generator's draw. -/
def roundsUp (md : Rnd) (neg odd : Bool) (r k : Nat) (sticky : Bool) (d : Nat) : Bool :=
  match md with
  | .rne => 2 ^ k < 2 * r || (2 * r == 2 ^ k && (sticky || odd))
  | .rtz => false
  | .rup => !neg && (r != 0 || sticky)
  | .rdn => neg && (r != 0 || sticky)
  | .sr => 256 ≤ (r * 256) / 2 ^ k + d

/-- The lower candidate and the remainder of `m * 2^e` at spacing `2^eu`: `(lo, r, k)` with remainder `r / 2^k`. A value
far below the spacing keeps a remainder below any half. -/
def splitAt (m : Nat) (e eu : Int) : Nat × Nat × Nat :=
  if eu ≤ e then (m <<< (e - eu).toNat, 0, 0)
  else
    let k := (eu - e).toNat
    if bitLen m + 64 < k then (0, 1, 64) else (m >>> k, m % 2 ^ k, k)

/-- Half the smallest positive value of an unsigned format is exceeded by `m * 2^e` (R103). -/
def exceedsHalfMin (f : Fmt) (m : Nat) (e : Int) (sticky : Bool) : Bool :=
  let half : Int := if f.isInt then -1 else f.emin - (f.prec - 1 : Nat) - 1
  let (lo, r, _) := splitAt m e half
  1 < lo || (lo == 1 && (r != 0 || sticky))

/-- round_to(x, F, md, sat, inf, i) with the generator's draw `d` (R102, R103, and the clamp of R97). -/
def roundTo (x : Num) (f : Fmt) (md : Rnd) (sat inf : Bool) (d : Nat) : Rounded :=
  match x with
  | .nan => specialCode f .nan sat inf
  | .inf neg => specialCode f (.inf neg) sat inf
  | .fin neg m e sticky =>
    if f.isUnsigned ∧ neg ∧ m ≠ 0 then ⟨0, exceedsHalfMin f m e sticky⟩
    else if m = 0 then ⟨if f.isInt then 0 else zeroCode f neg, false⟩
    else if f.isInt then
      let (lo, r, k) := splitAt m e 0
      let v : Nat := lo + if roundsUp md neg (lo % 2 == 1) r k sticky d then 1 else 0
      let y : Int := if neg then -(v : Int) else v
      if y < f.intRange.1 ∨ f.intRange.2 < y then overflowCode f neg md sat inf else ⟨intCode f y, false⟩
    else
      let top : Int := (bitLen m : Int) - 1 + e
      let ulp0 : Int := f.emin - (f.prec - 1 : Nat)
      let eu : Int := (if top < f.emin then f.emin else top) - (f.prec - 1 : Nat)
      let (lo, r, k) := splitAt m e eu
      let base : Nat := (eu - ulp0).toNat * 2 ^ (f.prec - 1)
      let odd := if lo = 0 then false else (base + lo) % 2 == 1
      let mag := if roundsUp md neg odd r k sticky d then lo + 1 else lo
      if mag = 0 then ⟨zeroCode f neg, false⟩
      else if f.maxCode inf < base + mag then overflowCode f neg md sat inf
      else ⟨signed f neg (base + mag), false⟩

/-- fp32(x) (R106), as a code. -/
def fp32Code (x : Num) : Nat := (roundTo x .fp32 .rne false true 0).code

/-- The value of an FP32 code. -/
def fp32Val (c : Nat) : Num := decodeFmt .fp32 c true

/-- fp32(x) (R106), as a number. -/
def fp32 (x : Num) : Num := fp32Val (fp32Code x)

/-! ## Stochastic rounding -/

/-- The next state of a generator (R104). -/
def srNext (x : W32) : W32 :=
  let x := if x = 0 then 0x6A09E667 else x
  let x := x ^^^ (x <<< 13)
  let x := x ^^^ (x >>> 17)
  x ^^^ (x <<< 5)

/-- The byte that a draw returns, from the new state (R104). -/
def srByte (x : W32) : Nat := field x 24 8

/-! ## Block scales (R111) -/

/-- floor(log2 |x|) of a finite non-zero number. -/
def Num.log2Floor : Num → Int
  | .fin _ m e _ => (bitLen m : Int) - 1 + e
  | _ => 0

/-- The largest of the magnitudes of a list of finite numbers. -/
def amaxOf (xs : List Num) : Num := xs.foldl (fun a x => if a.lt x.abs then x.abs else a) (.fin false 0 0 false)

/-- The block scale chosen for exact values: its code, its value, whether it is the NaN scale, and whether a
block-scale event is counted (R111). -/
structure BlockScale where
  code : Nat
  value : Num
  bad : Bool
  event : Bool
  deriving DecidableEq, Repr

/-- R111 on the block content `xs`, for element format `f` with infinity option `inf` and scale format `p3`. -/
def blockScale (xs : List Num) (f : Fmt) (inf p3 : Bool) : BlockScale :=
  if xs.any fun x => x.isNaN || x.isInf then ⟨if p3 then 0x80 else 0xFF, .nan, true, true⟩
  else
    let amax := amaxOf xs
    if amax.isZero then ⟨if p3 then 0x40 else 0x7F, .fin false 1 0 false, false, false⟩
    else if p3 then
      let r := roundTo (amax.div (decodeFmt f (f.maxCode inf) inf)) (.b8 3) .rup true false 0
      ⟨r.code, decodeFmt (.b8 3) r.code false, false, r.sat⟩
    else
      let k := amax.log2Floor - (decodeFmt f (f.maxCode inf) inf).log2Floor
      let k' := clampInt (-127) 127 k
      ⟨(k' + 127).toNat, .fin false 1 k' false, false, decide (127 < k)⟩

/-! ## Transforms (R112, R113) -/

/-- The Hadamard sum for output `i` of a block of exact values, rounded once to FP32 (R112). Several infinities of one sign whose
coefficients differ give NaN for that output, as their exact sum has no value: the rule speaks of one infinity, or of both signs (log
entry 95). -/
def hadamardElem (xs : List Num) (i : Nat) : Num :=
  fp32 ((xs.zipIdx).foldl
    (fun acc xj => acc.add false (if countBits (i &&& xj.2) 6 % 2 = 1 then xj.1.negate else xj.1)) (.fin false 0 0 false))

/-- The Hadamard transform of one block (R112): a NaN, or infinities of both signs, make every output NaN. -/
def hadamardBlock (xs : List Num) : List Num :=
  if xs.any Num.isNaN || (xs.any (· == .inf false) && xs.any (· == .inf true)) then xs.map fun _ => .nan
  else (List.range xs.length).map (hadamardElem xs)

/-- Whether a smoothing channel is usable: finite and positive (R113). -/
def smoothOk : Num → Bool
  | .fin neg m _ _ => !neg && m != 0
  | _ => false

/-- The exact product that smoothing rounds, for an activation (`wt = false`) or a weight (R113). -/
def smoothProduct (wt : Bool) (x sk : Num) : Num :=
  if smoothOk sk then x.mul (if wt then sk else fp32 ((Num.fin false 1 0 false).div sk)) else .nan

end Sys2Proof.Machine
end

