-- ==== Sys2Proof/Machine/CoreState.lean ====
section
/-! DEFINITION. The state of one core: streams, register files, rings, pending results, frozen accesses, scratchpad and
L1 (chapters 02, 03, 04, 06, 10, 12). Plain data only. -/

namespace Sys2Proof.Machine

/-- Where a result lands: the physical register bound at issue (R52, R56). -/
inductive Dst where
  | scalar (e : StreamId) (n : Nat)
  | pred (e : StreamId) (n : Nat)
  | vec (n : Nat)
  | lnk (e : StreamId)
  | rvb (e : StreamId)
  | rpb (e : StreamId)
  | fmask
  | wid
  /-- Counter `kind` of set `set`: the landing value is added (R219). -/
  | count (set kind : Nat)
  /-- Bytes of tile `z` (R171). -/
  | tile (z : Nat)
  /-- Bytes of accumulator `a`, element words in row order (R171). -/
  | accum (a : Nat)
  /-- A whole tile, a whole accumulator (R202). -/
  | tileAll (z : Nat)
  | accAll (a : Nat)
  deriving DecidableEq, Repr

/-- What lands. -/
inductive Val where
  | word (v : W64)
  | vector (v : Vec)
  /-- Bits ORed into the register (FMASK, R169). -/
  | orBits (v : W64)
  /-- Bytes at offsets of a tile or accumulator, each with the mask of its bits that are written. -/
  | bytes (l : List (Nat × Byte × Byte))
  /-- Every byte of a tile, every element of an accumulator. -/
  | elems (l : List Nat)
  deriving DecidableEq, Repr

/-- A VCYC-timed result on its way to a register (R56, R62). -/
structure Pend where
  strm : StreamId
  /-- Issue order within the core (R55, R57). -/
  ord : Nat
  dst : Dst
  /-- It lands at the end of this virtual cycle. -/
  due : Nat
  val : Val
  /-- It waits for its virtual cycle: the result of a word that held its stream lands in the engine cycle in which the hold ends (R305,
  R337). -/
  timed : Bool := true
  deriving DecidableEq, Repr

/-- One access of a memory word: `size` bytes at `va`, for lane `lane`; `data` is what a store writes. -/
structure Lane where
  lane : Nat
  va : Nat
  size : Nat
  data : Nat
  deriving DecidableEq, Repr

/-- What a memory word does once its commits are done and its lanes can be reached (R131, R167-R170, R297-R304). -/
inductive MemKind where
  /-- Nothing: `phase`, `pub`, `acq` and the waits. -/
  | none
  /-- Scalar load, zero- or sign-extended. -/
  | load (sx : Bool)
  /-- Vector load, merged into the old destination. -/
  | vload (old : Vec)
  /-- Gather; the bits set FMASK with the data. -/
  | gather (old : Vec) (fm : W64)
  /-- Scalar store, vector store, scatter: the lanes carry the data. -/
  | store
  /-- `vstx.add`: element type, rounding code, saturation (R170). -/
  | scatterAdd (ty : Nat) (rnd : Rnd) (sat : Bool)
  /-- `amo`, `amof`: operation, rounding, operand, whether the old value is fetched (R303). -/
  | amo (op : Nat) (rnd : Rnd) (b : W64) (fetch : Bool)
  /-- `cas`: comparand, new value, FA (R304). -/
  | cas (cmp new : W64) (fa : Bool)
  /-- A tile word whose descriptor or AUX record is not there yet: kind, level code, and opb (R175). -/
  | tile (kind code : Nat) (opb : W64)
  deriving DecidableEq, Repr

/-- What a held context waits for after its commits (R188, R295, R337). -/
inductive HoldKind where
  /-- The access of the word itself. -/
  | mem
  /-- `tbarw`, `carve` (R305, R306): the new L1SL of a `carve`, whether it has arrived, and the generation awaited. -/
  | barrier (carve : Option W64) (arrived : Bool) (gen : Nat)
  /-- `fence` (R300): VX words, MX and CX commands, tile instructions, and atomics by issue order, still awaited. -/
  | fence (vx mx cx tile amo : List Nat)
  /-- `tbar`, `tsync` (R188): tile instructions still awaited. -/
  | tiles (ids : List Nat)
  /-- A parameter write or a system instruction (R337, R340): its OPC, MOD, operands, and how far it has come. -/
  | system (opc mod : Nat) (a b c : W64) (step : Nat) (aux : List Nat)
  deriving DecidableEq, Repr

/-- Which bytes of the phase a word commits (R297, R298). -/
inductive CommitSel where
  | all
  /-- Lines meeting the virtual range. -/
  | range (lo hi : Nat)
  /-- A physical line, under whatever virtual addresses it was written (R292). -/
  | line (n : Nat)
  deriving DecidableEq, Repr

/-- A memory word of a control context or of VX that has issued and is not finished: first its commits, then its
publication, then its lanes, then its acquire. The core is frozen while one that does not hold its stream stands (R58,
R62). -/
structure MemOp where
  strm : StreamId
  ord : Nat
  /-- Address of its word. -/
  pc : W64
  kind : MemKind
  sp : Bool := false
  lanes : List Lane := []
  /-- Physical destination, if the access has one. -/
  dst : Option Dst := none
  /-- The result lands at the end of this virtual cycle. -/
  due : Nat := 0
  /-- Commit before it; the phase number then advances (R280). -/
  commit : Option CommitSel := none
  newPhase : Bool := false
  /-- Scopes of the publication before it and of the acquire after it. -/
  pub : Option Nat := none
  acq : Option Nat := none
  /-- Its scope, for a failed `cas` (R293). -/
  scope : Nat := 0
  /-- It stops only its own stream, for this reason (R295). -/
  hold : Option HoldKind := none
  /-- 0 nothing begun, 1 commits outstanding, 2 lanes to be reached, 3 requests outstanding, 4 finished. -/
  stage : Nat := 0
  /-- Requests that have left the core for it (R295). -/
  reqs : List Nat := []
  /-- Physical lines it has committed, for the signature of a ranged `pub`. -/
  lines : List Nat := []
  /-- Lines read at their homes: line number, bytes, poison. -/
  got : List (Nat × LineData × BitVec 4) := []
  deriving DecidableEq, Repr

/-- One level of the repeat stack (R158). -/
structure Rep where
  start : W64
  last : W64
  left : W64
  deriving DecidableEq, Repr

/-- What the checkpoint entry that a stream stopped at names as live (R409). -/
structure CkptLive where
  smask : W64 := 0
  vmask : W64 := 0
  pmask : W16 := 0
  ranges : List (Nat × Nat) := []
  deriving DecidableEq, Repr

/-- One stream of a job (R13, R47, R60, R66, R75, R158). -/
structure Stream where
  started : Bool := false
  /-- The template table is loaded and the register slices are scrubbed (R33, R42). -/
  fetching : Bool := false
  /-- `rdv` has issued (R34). -/
  ended : Bool := false
  /-- Stopped by a valid checkpoint or a pre-emption request (R408). -/
  parked : Bool := false
  pc : W64 := 0
  s : Sparse W64 := []
  p : Sparse W64 := []
  lnk : W64 := 0
  rvb : BitVec 5 := 0
  rpb : BitVec 3 := 0
  warn : W64 := 0
  /-- WARN bits set and cleared in the current engine cycle (R143). -/
  warnSet : W64 := 0
  warnClr : W64 := 0
  table : Sparse W128 := []
  stage : Option (Nat × W128) := none
  /-- Words of an extended form taken so far (R78). -/
  form : List W32 := []
  redirects : List (Nat × W64) := []
  annul : Nat := 0
  /-- Countdowns of base decrements of `loop` (R53). -/
  rot : List Nat := []
  /-- Words that `eret` reinstates ahead of the pc, with their N bits (R64). -/
  resume : List (W64 × Bool) := []
  reps : List Rep := []
  /-- Base slots (R178). -/
  slots : Sparse (BitVec 512) := []
  /-- EPC0 to EPC2 (R63). -/
  epc0 : W64 := 0
  epc1 : W64 := 0
  epc2 : W64 := 0
  tcmp : W64 := 0
  armed : Bool := false
  /-- The word that holds the stream (R295). -/
  hold : Option MemOp := none
  /-- The stream's fetch buffer: words fetched ahead, by virtual address (R259). -/
  fetchBuf : Sparse W32 := []
  /-- The checkpoint entry it stopped at (R408). -/
  ckptAt : Option Nat := none
  live : CkptLive := {}
  /-- A word of this stream raised a synchronous cause in this engine cycle (R327). -/
  trapped : Bool := false
  /-- A word of this stream did not issue in this engine cycle (R36). -/
  blocked : Bool := false
  deriving DecidableEq, Repr

/-- The range slot (R29) with its values at the start of the engine cycle (R138). -/
structure RangeSlot where
  lo : W64 := 0
  hi : W64 := 0
  grain : W64 := 1
  lo0 : W64 := 0
  hi0 : W64 := 0
  deriving DecidableEq, Repr

/-- A ring (R37): entries oldest first, the level at the start of the engine cycle, and the pops and pushes in it. -/
structure Ring where
  q : List W64 := []
  start : Nat := 0
  pops : Nat := 0
  pushes : Nat := 0
  deriving DecidableEq, Repr

/-- A line of L1 (R245): bytes valid, bytes dirty, and the translation they were written through (R368). -/
structure L1Line where
  /-- Line number of the DRAM location. -/
  loc : Nat
  pa : Nat
  va : Nat
  ctag : W16
  valid : LineMask := 0
  dirty : LineMask := 0
  data : LineData := 0
  /-- Poisoned 32-byte sectors. -/
  poison : BitVec 4 := 0
  deriving DecidableEq, Repr

/-- A line of the scratchpad (R240): its full/empty bit and poison marks (R237). -/
structure SpLine where
  full : Bool := false
  data : LineData := 0
  poison : BitVec 4 := 0
  deriving DecidableEq, Repr

/-- A change of a full/empty bit that takes effect at the end of the engine cycle (R241). -/
structure SpEvent where
  /-- Position in the order of R55, CX completions after MX, base-die completions last. -/
  rank : Nat
  line : Nat
  /-- `some (mask, data)`: a fill writing those bytes; `none`: an empty. -/
  fill : Option (LineMask × LineData)
  deriving DecidableEq, Repr

/-- An entry of the range checker (R269): who holds it, since when, and what it reads and writes. -/
structure RangeEnt where
  stamp : Nat
  engine : StreamId
  /-- Sequence number of the command in its engine. -/
  seq : Nat
  reads : List (Nat × Nat)
  writes : List (Nat × Nat)
  deriving DecidableEq, Repr

end Sys2Proof.Machine
end

