-- ==== Sys2Proof/Machine/MemState.lean ====
section
/-! DEFINITION. The state of memory beyond the cores: versions, requests, translation, access tables, incarnation tables,
error logs (chapters 12, 15, 16, 17, 21). -/

namespace Sys2Proof.Machine

/-- Whose version of a line it is (R281). -/
inductive Owner where
  /-- Phase-pending, of a core's phase. -/
  | pending (core phase : Nat)
  /-- Node-staged, of a partition's staging slot (R387). -/
  | staged (part slot : Nat)
  deriving DecidableEq, Repr

/-- A version of a line other than the committed one (R281, R349, R368). -/
structure Version where
  owner : Owner
  /-- Line number of the DRAM location, or of the physical address for peer memory. -/
  line : Nat
  mask : LineMask
  data : LineData
  ctag : W16
  /-- Virtual and physical line address of the write that last extended it. -/
  va : W64
  pa : Nat
  /-- Dirty epoch in which D was confirmed for it. -/
  epoch : Option W16 := none
  poison : BitVec 4 := 0
  /-- A commit of it has begun: later writes start another version. -/
  closing : Bool := false
  /-- It stands in the staging spill region (R246). -/
  spilled : Bool := false
  deriving DecidableEq, Repr

/-- An atomic at the home (R303, R304, R170, R257, R261). -/
inductive AtomOp where
  /-- `amo`, `amof`: operation code, rounding code, operand, size. -/
  | amo (op : Nat) (rnd : Rnd) (b : W64) (size : Nat)
  | cas (cmp new : W64) (size : Nat)
  /-- `vstx.add`: type, rounding, saturation, the lanes' values in ascending order. -/
  | vadd (ty : Nat) (rnd : Rnd) (sat : Bool) (vals : List Nat)
  deriving DecidableEq, Repr

/-- What a request does at the home of its line. -/
inductive ReqKind where
  /-- Bring the line into L1. -/
  | fill
  /-- `pf`: a request that is dropped where a load would fault (R135). -/
  | prefetch (l2 : Bool)
  /-- Read the line at its home (R301), or at its owning device (R282). -/
  | read
  /-- Commit of the pending version of a phase (R282). -/
  | commit (phase : Nat)
  /-- One write into the staged version (R302). -/
  | write
  | atomic (op : AtomOp)
  deriving DecidableEq, Repr

/-- How far a request has come. -/
inductive Stage where
  /-- Waits for a dirty-set walk (R369). -/
  | dirty
  /-- On its way to its home. -/
  | home
  /-- Performed; its response is on its way. -/
  | reply
  /-- Accepted; the L1 fill remains. -/
  | arrived
  /-- Refused; the violation notice is on its way (R335). -/
  | notice
  /-- Discarded at a scale-up link that is down: nothing will answer it (R356). -/
  | lost
  deriving DecidableEq, Repr

/-- A request of a core that has left it (R283, R345). -/
structure Req where
  id : Nat
  master : Nat
  ctag : W16
  strm : StreamId
  /-- It belongs to this issue of the core (R295). -/
  ord : Nat
  va : W64
  pa : Nat
  line : Nat
  kind : ReqKind
  stage : Stage
  /-- Partition and staging slot of the node. -/
  part : Nat
  slot : Option Nat
  node : W32
  /-- Bytes written; then the bytes of the response. -/
  mask : LineMask := 0
  data : LineData := 0
  poison : BitVec 4 := 0
  /-- Dirty epoch in which D is confirmed for it (R369). -/
  epoch : Option W16 := none
  /-- Scope of an atomic, for `fence` (R300). -/
  scope : Nat := 0
  /-- GTC of the check that refused it (R335). -/
  stamp : Nat := 0
  /-- Requests that must be performed before it. -/
  pre : List Nat := []
  deriving DecidableEq, Repr

/-- An entry of a translation cache (R364): unit 0-63 clusters, 64-65 schedulers, 66 the Crown, 67-68 copy servers, 69 the
queue server. -/
structure TEnt where
  unit : Nat
  ctag : W16
  /-- First byte of the page, and log2 of its size. -/
  va : Nat
  size : Nat
  frame : Nat
  /-- R, W, X, A from bit 0. -/
  perm : Nat
  /-- Epoch in which D was last read set, if it was. -/
  epoch : Option W16
  deriving DecidableEq, Repr

/-- Who waits for a walk, and so takes its fault. -/
inductive Waiter where
  /-- Stream `e` of a core. -/
  | strm (core : Nat) (e : StreamId)
  /-- A unit working for context `ctx`, by source number. -/
  | unit (ctx src : Nat)
  /-- A prefetch of stream `e` of a core, into L2 only or into L1: it takes no fault, and its request follows the walk (R135). -/
  | prefetch (core : Nat) (e : StreamId) (l2 : Bool)
  /-- Work of tile instruction `id`: source number, child path, and the units above it (R196, R197). -/
  | tile (id src path : Nat) (above : List Nat)
  deriving DecidableEq, Repr

/-- An outstanding walk (R364), and who takes its fault. -/
structure Walk where
  unit : Nat
  ctag : W16
  /-- Virtual page, 4 KiB aligned. -/
  va : W64
  /-- Who waits, each with the address it missed. -/
  waiters : List (W64 × Waiter)
  /-- A `tlbi` came after it began: its result is discarded (R341). -/
  discard : Bool := false
  deriving DecidableEq, Repr

/-- An access-table write on its way (R336). -/
structure AtWrite where
  id : Nat
  master : Nat
  entry : W128
  /-- Targets that hold it. -/
  done : List Nat
  deriving DecidableEq, Repr

/-- An entry of an incarnation table (R346); the in-flight counts are read off the packets themselves. -/
structure IncEnt where
  cur : BitVec 6 := 0
  pend : Bool := false
  drops : Nat := 0
  orph : Nat := 0
  deriving DecidableEq, Repr

/-- A bump on its way to the tables (R351). -/
structure Bump where
  ctx : Nat
  inc : BitVec 6
  /-- Units that hold it. -/
  done : List Nat
  /-- Devices of the fabric set that have installed it, and those that have drained. -/
  peers : List Nat := []
  peersDrained : List Nat := []
  /-- Its reclaim has completed before every table held it. -/
  reclaimed : Bool := false
  /-- It came from a peer, whose reclaim it awaits (R356). -/
  peer : Bool := false
  deriving DecidableEq, Repr

/-- An error-log entry (R452): dwords 0 to 3; dwords 4 to 7 are zero. -/
structure LogEnt where
  d0 : W64
  d1 : W64
  d2 : W64
  d3 : W64
  deriving DecidableEq, Repr

/-- An error that the physical world has left in a structure and that the next use finds (R68, R237, R448, R454). -/
inductive Latent where
  /-- A parity error of a template; uncorrectable in the shadow or not. -/
  | template (core : Nat) (strm : StreamId) (index : Nat) (bad : Bool)
  /-- A correctable error of a 32-byte sector of DRAM. -/
  | corrected (sector : Nat)
  /-- An L1 line of a core, by line number, that is uncorrectable when it is written back (R451). -/
  | dirtyLine (core line : Nat)
  /-- A timing error of a core's pipelines at HI, with the engine cycles its replay takes. -/
  | timing (core cycles : Nat)
  /-- Engine cycles that the replay of a detected timing error still takes. -/
  | replaying (core cycles : Nat)
  /-- A correctable error of a word of a core's array (R237). -/
  | array (core : Nat)
  /-- An uncorrectable word in a sector of a scratchpad line of a core, or in a line of its L1, by line number. -/
  | spWord (core line sector : Nat)
  | l1Word (core line : Nat)
  /-- A dirty L2 line, by line number, that is uncorrectable when it is evicted (R451). -/
  | l2Line (line : Nat)
  deriving DecidableEq, Repr

/-- A request of the MGC, an SCP or a walker to append a packet to a manager's service queue (R261). -/
structure SvcMsg where
  /-- The manager's context. -/
  ctx : Nat
  /-- Virtual address of the queue's header in the manager's space. -/
  hdr : W64
  /-- The 64-byte packet, the lap mark left zero. -/
  slot : BitVec 512
  /-- The index claimed for it. -/
  index : Option Nat := none
  deriving DecidableEq, Repr

/-- A valid aperture of the peer range (R460). -/
structure Aper where
  dev : Nat
  /-- Remote physical base. -/
  base : Nat
  deriving DecidableEq, Repr

/-- A protected input range of a restartable node (R390). -/
structure Prot where
  part : Nat
  node : W32
  base : Nat
  len : Nat
  deriving DecidableEq, Repr

/-- A request at a base-die port (R455). -/
structure BdReq where
  stack : Nat
  port : Nat
  /-- Tag 0-7; 8 while it waits for a free one. -/
  tag : Nat
  kind : Nat
  len : Nat
  /-- Stack offset [35:5]. -/
  addr : Nat
  mask : W32
  ctag : W16
  data : List Byte
  performed : Bool := false
  /-- GTC of its issue at the port; of its reply, once that has been accepted. -/
  issued : Nat := 0
  /-- Status of the reply: 0 OK, 1 CORR, 2 POISON, 3 DEFERRED. -/
  status : Nat := 0
  /-- The block of a near-memory product it stands for: core, command, block (R231). -/
  nmv : Option (Nat × Nat × Nat) := none
  /-- Its reply has been accepted at the port. -/
  replied : Bool := false
  /-- Dropped as stale: its tag stays in use until reclaim (R455). -/
  dropped : Bool := false
  /-- The L2 request that waits for its line. -/
  fetch : Option Nat := none
  /-- An L2 writeback: machine traffic, which no unit checks (R345). -/
  wb : Bool := false
  deriving DecidableEq, Repr

/-- A line that an L2 slice group holds (R247, R349). -/
structure L2Line where
  line : Nat
  /-- Owner tag of a dirty line. -/
  owner : Option W16 := none
  deriving DecidableEq, Repr

/-- Memory and what is on its way to it. -/
structure Mem where
  /-- Committed bytes by DRAM location, in rising order; an unlisted byte reads zero. -/
  bytes : List (Nat × Byte) := []
  /-- Poisoned 32-byte sectors of DRAM. -/
  poison : List Nat := []
  /-- Lines that L2 holds (R247); their bytes are the committed bytes. -/
  l2 : List L2Line := []
  /-- Requests that a target has refused (R335), by unit. -/
  denials : Sparse Nat := []
  /-- Versions, oldest first. -/
  vers : List Version := []
  reqs : List Req := []
  nextReq : Nat := 0
  tcache : List TEnt := []
  walks : List Walk := []
  /-- Dirty-set walks that wait for room in the log, in walk order (R371). -/
  logWait : List Nat := []
  /-- Access-table entries that differ from reset: key `1024 target + master`. -/
  acc : Sparse W128 := []
  atq : List AtWrite := []
  /-- Incarnation tables: key `1024 unit + context`. -/
  inc : Sparse IncEnt := []
  bumps : List Bump := []
  /-- Error logs: key the manager's context, 1024 the firmware log; oldest first. -/
  logs : Sparse (List LogEnt) := []
  latent : List Latent := []
  svc : List SvcMsg := []
  bd : List BdReq := []
  prots : List Prot := []
  /-- The device's ID, and its valid apertures by number (R460). -/
  devId : Nat := 0
  domain : Nat := 1
  aper : Sparse Aper := []
  /-- Partition that owns each 2 MiB granule in the page-ownership table (R451), plus one. -/
  owner : Sparse Nat := []
  deriving DecidableEq, Repr

end Sys2Proof.Machine
end

