-- ==== Sys2Proof/Machine/EngineState.lean ====
section
/-! DEFINITION. The state of the matrix engine (R199), the copy engine (R251-R254) and the tile front end of a core (R175,
R178). -/

namespace Sys2Proof.Machine

/-- A matrix register (R199): a tile with its scales, an accumulator with its AREC and TS. -/
inductive MReg where
  | tile (z : Nat)
  | acc (a : Nat)
  deriving DecidableEq, Repr

/-- A byte with its sector's poison mark. -/
abbrev PByte := Byte × Bool

/-- Bytes that a command has moved and that become readable at its completion: line, mask, data, poison (R255). -/
abbrev LineBuf := List (Nat × LineMask × LineData × BitVec 4)

/-- A command of the MX queue (R200): the instruction, the scalars and the stamp read at issue. -/
structure MxCmd where
  seq : Nat
  pc : W64
  /-- Opcode and template. -/
  o : Nat
  t : Tpl
  opa : W64
  opb : W64
  opc : W64
  /-- GTC of the issue edge (R203). -/
  gtc : Nat
  /-- The start stamp S, if the command has one (R207). -/
  stamp : Option Nat
  /-- It was issued while lateness was suspended (R209). -/
  susp : Bool := false
  /-- SCNT at which its deadline began to count: at the head with every other condition met (R208), or first ready to start
  (R229). -/
  ready : Option Nat := none
  /-- GTC ticks its deadline edge has moved later: stopped clock, charge bucket (R208, R438). -/
  slip : Nat := 0
  /-- The commits of a releasing store have begun, under these requests (R205). -/
  rel : Option (List Nat) := none
  /-- A pair that was discarded keeps the word it popped (R229). -/
  word : Option W64 := none
  /-- Blocks of a near-memory product that a saved image records as complete (R232). -/
  done : List Nat := []
  /-- The core's phase at its issue, to which its virtual rows belong (R280). -/
  phase : Nat := 0
  /-- Its place in the core's issue order (R55, R291); a command from an image follows whatever the image replays. -/
  ord : Nat := 2 ^ 40
  deriving DecidableEq, Repr

/-- What a started command makes when it completes (R202). -/
structure MxOut where
  /-- Bytes of a tile, elements of an accumulator. -/
  tiles : List (Nat × List Nat) := []
  accs : List (Nat × List Nat) := []
  /-- Bytes of the block scales, at byte `1024 z + offset`. -/
  zs : List (Nat × List Nat) := []
  arec : List (Nat × Option W64) := []
  ts : List (Nat × Option (W32 × W32)) := []
  /-- Events for the counters: set, kind, number (R219). -/
  counts : List (Nat × Nat × Nat) := []
  /-- Scratchpad lines written. -/
  buf : LineBuf := []
  /-- Virtual rows written. -/
  rows : List (Nat × List PByte) := []
  /-- A scalar written: register code and value. -/
  scalar : Option (Nat × W64) := none
  /-- The signature of a known-answer tile differs from its constant (R225). -/
  mismatch : Bool := false
  deriving DecidableEq, Repr

/-- A started command. -/
structure MxRun where
  cmd : MxCmd
  /-- The format word it popped or peeked. -/
  word : W64 := 0
  /-- 0 none, 1 pipe L, 2 pipe A (R202). -/
  pipe : Nat
  occ : Nat
  land : Nat
  /-- Engine cycles of the cluster since its start edge. -/
  age : Nat := 0
  reads : List MReg
  writes : List MReg
  out : MxOut
  /-- This accumulator becomes zero at the end of the occupancy (R217). -/
  zero : Option Nat := none
  /-- Its occupancy has not ended when its zeroing is done, its landing is done. -/
  landed : Bool := false
  /-- 0 no pair, 1 the owner, 2 the supplier (R227). -/
  pair : Nat := 0
  /-- The age at which the owner took the partial; the supplier has sent its own. -/
  joined : Option Nat := none
  sent : Bool := false
  deriving DecidableEq, Repr

/-- A partial on its way to the owner of a pair (R228). -/
structure Partial where
  /-- The supplier's core. -/
  core : Nat
  word : W64
  stamp : Nat
  ctag : W16
  sums : List Nat
  /-- Events of the supplier's half: saturations, NaN results, block-scale events. -/
  sat : Nat
  nan : Nat
  bso : Nat
  deriving DecidableEq, Repr

/-- An outstanding near-memory product (R230-R232). -/
structure Nmv where
  seq : Nat
  pc : W64
  /-- The command that issued it, and would issue it again. -/
  cmd : MxCmd
  tag : Nat
  a : Nat
  m : Nat
  k : Nat
  fmt : W64
  asb : Nat
  /-- Row stride. -/
  lda : Nat
  scl : Nat
  /-- Scratchpad offset of the results. -/
  y : Nat
  /-- X, and the addends of `nmv.acc`. -/
  x : List Nat
  add : List Nat
  /-- Blocks of 256 rows that have completed. -/
  done : List Nat := []
  deriving DecidableEq, Repr

/-- The matrix engine (R199). -/
structure Mx where
  queue : List MxCmd := []
  running : List MxRun := []
  nmvs : List Nmv := []
  /-- Scales: key `1024 z + byte`. -/
  zs : Sparse Byte := []
  arec : Sparse (Option W64) := []
  ts : Sparse (Option (W32 × W32)) := []
  sbase : W64 := 0
  ssus : Bool := false
  /-- Event counters and thresholds: key `3 set + kind`, kinds SAT 0, NAN 1, BSO 2; KRUN and KSKIP at 30 and 31 (R199, R219). -/
  counts : Sparse Nat := []
  thresholds : Sparse Nat := []
  /-- Threshold crossings whose trap has not been taken, as set and kind (R222). -/
  crossed : List (Nat × Nat) := []
  /-- A threshold trap stands: no later command starts until `eret` (R222). -/
  stopped : Bool := false
  /-- The KAT window: its end, while it is open (R226). -/
  kat : Option Nat := none
  /-- The pair buffer, and partials and acknowledgements on their way here (R228, R229). -/
  pairBuf : Option Partial := none
  partials : List Partial := []
  acks : List Nat := []
  nextSeq : Nat := 0
  /-- The head of the queue cannot start at this edge. -/
  idle : Bool := false
  deriving DecidableEq, Repr

/-- What a command of the copy queue does. -/
inductive CopyKind where
  /-- `cpost`, `covl`, or a packet served from a queue: the 64-byte packet (R252, R259). -/
  | copy (pkt : BitVec 512) (overlay : Bool)
  /-- `cpost.q`: the packet, the queue header, the claimed index (R261). -/
  | post (pkt : BitVec 512) (hdr : W64) (index : Nat)
  /-- `fefill`, `feempty`: offset of the first line, lines (R267). -/
  | fe (fill : Bool) (off n : Nat)
  /-- `lbset`: buffer and record (R271). -/
  | lbset (k : Nat) (record : BitVec 512)
  /-- `lbadv`: buffer, rows, tag (R272). -/
  | advance (k n tag : Nat) (tagv : Bool)
  /-- `chalo` (R273). -/
  | halo (dir lines dst src bar tag : Nat) (barv tagv : Bool)
  deriving DecidableEq, Repr

/-- A command of a copy queue. -/
structure CopyCmd where
  seq : Nat
  pc : W64
  kind : CopyKind
  started : Bool := false
  /-- Destination bytes, rows or lines completed. -/
  done : Nat := 0
  /-- Rows an advance has yet to fetch (R272). -/
  rows : List Int := []
  /-- Complete but for its CPA add (R257). -/
  complete : Bool := false
  buf : LineBuf := []
  /-- Physical lines written, for its signature (R287). -/
  pas : List Nat := []
  /-- The CTAG a server runs it under, and the index of its queue (R262); none on a core. -/
  server : Option (W16 × Nat) := none
  /-- Its place in the core's issue order (R55, R255); a command from an image follows whatever the image replays. -/
  ord : Nat := 2 ^ 40
  /-- The engine cycle of its completion has ended: its CPA add follows (R257). -/
  past : Bool := false
  /-- It fetches a line buffer's window again after a resumption (R272). -/
  again : Bool := false
  deriving DecidableEq, Repr

/-- A line buffer (R271): its record, the window top, and whether it holds the window's rows. -/
structure LineBuffer where
  record : BitVec 512
  top : Int
  held : Bool
  deriving DecidableEq, Repr

/-- The copy engine (R251, R269, R271, R277). -/
structure Cx where
  queue : List CopyCmd := []
  nextSeq : Nat := 0
  lbs : Sparse LineBuffer := []
  /-- Barrier arms: barrier, generation, tag. -/
  arms : List (Nat × Nat × Nat) := []
  deriving DecidableEq, Repr

end Sys2Proof.Machine
end

