-- ==== Sys2Proof/Machine/TileState.lean ====
section
/-! DEFINITION. The state of tile instructions as their levels decompose them (R175-R198), and of the scale-up links (R459). -/

namespace Sys2Proof.Machine

/-- A region of a tile instruction: rows, columns and K range, each half open (R190). -/
structure Region where
  m0 : Nat
  m1 : Nat
  n0 : Nat
  n1 : Nat
  k0 : Nat
  k1 : Nat
  deriving DecidableEq, Repr

/-- A unit of work below the accepting level (R190, R191). -/
structure TileNode where
  id : Nat
  parent : Option Nat
  /-- 1 core, 2 cluster, 3 chiplet, 4 package; 0 a base-die multiplier of `tnmv`. -/
  level : Nat
  /-- Core, cluster, C-die or stack. -/
  unit : Nat
  reg : Region
  /-- Child path (R196). -/
  path : Nat
  /-- It is the K part that starts from the ACC value. -/
  first : Bool := true
  /-- Its sums are a K part of an ancestor: it writes a partial and drains nothing. -/
  part : Bool := false
  /-- A reduction child: the K parts it combines. -/
  reduces : List Nat := []
  accepted : Bool := false
  /-- The command of a core-level child has started, as its core's queue and range checker allow (R195). -/
  started : Bool := false
  complete : Bool := false
  /-- GTC at which its core took it, its place among the tile work of all cores, and the stamp of its first `mma` (R195). -/
  stamp : Nat := 0
  ord : Nat := 0
  mma : Option Nat := none
  /-- GTC ticks its deadline edge has moved later (R208). -/
  slip : Nat := 0
  /-- Output tiles of its region that it has made, in their order (R190). -/
  made : Nat := 0
  /-- Draws of the row block of tiles that it is in, in ascending n within ascending m (R184). -/
  draws : List Nat := []
  /-- Operand blocks that a cluster has fetched for several of its cores: address and bytes (R194). -/
  staged : List (Nat × List PByte) := []
  /-- Sums by tile: first row, first column, the 64 by 64 elements. -/
  sums : List (Nat × Nat × List Nat) := []
  /-- Reduced lines: line, value, the core that holds its first part. -/
  lines : List (Nat × Num × Nat) := []
  deriving DecidableEq, Repr

/-- A tile instruction that is outstanding (R175, R188). -/
structure TileIns where
  id : Nat
  /-- Issuing core and stream; none for a task node or for work from a peer. -/
  core : Option Nat
  strm : StreamId := .cc
  pc : W64 := 0
  ctx : Nat
  ctag : W16
  part : Nat
  slot : Option Nat
  node : W32
  /-- OPC − 0x280. -/
  kind : Nat
  level : Nat
  /-- The merged descriptor and its auxiliary record. -/
  desc : BitVec 512
  aux : BitVec 512
  /-- Clusters that form the children's pool: those of the partition, or of the node. -/
  clusters : List Nat
  /-- Its place in the core's issue order (R55, R175). -/
  ord : Nat := 2 ^ 40
  /-- Tile instructions of the core that `tbar` and `tsync` wait for. -/
  waits : List Nat := []
  nodes : List TileNode := []
  /-- Physical lines written, for its signature. -/
  pas : List Nat := []
  /-- It runs on this device of the load-store domain (R181). -/
  remote : Option Nat := none
  /-- It came over this link, and its completion returns there under this number (R181). -/
  back : Option (Nat × Nat) := none
  /-- The registered queue it was served from (R264). -/
  queue : Option Nat := none
  done : Bool := false
  /-- Ranges of output tiles that an image records as complete: ordinals in row-major order of tiles, first and last (R198). -/
  skip : List (Nat × Nat) := []
  deriving DecidableEq, Repr

/-- A tile descriptor that came over a link, with its AUX record and the number under which its completion returns (R181). -/
structure FabTile where
  link : Nat
  ctag : W16
  desc : BitVec 512
  aux : BitVec 512
  ret : Nat
  deriving DecidableEq, Repr

/-- A scale-up link (R356, R459, R460). -/
structure Link where
  up : Bool := false
  /-- Device IDs it reaches. -/
  reaches : List Nat := []
  /-- Sequence number of the next flit, flits acknowledged, and failures in a row of the flit awaited: the first and its replays. -/
  next : Nat := 0
  acked : Nat := 0
  fails : Nat := 0
  /-- GTC at which it went down, and contexts whose ingress table is to be resynchronised. -/
  down : Nat := 0
  resync : Bool := false
  deriving DecidableEq, Repr

end Sys2Proof.Machine
end

