-- ==== Sys2Proof/Machine/SystemState.lean ====
section
/-! DEFINITION. The state of task graphs and the schedulers (R374-R392), registered queues (R260-R264), halts and the Cuff
(R396-R412), energy budgets (R424-R442), and firmware (R461-R465). Plain data only. -/

namespace Sys2Proof.Machine

/-- A decoded task record (R375, R384). -/
structure TaskRec where
  nodeid : W32 := 0xFFFFFFFF
  graphid : W32 := 0
  attr : W64 := 0
  depcnt : W32 := 0
  lo : W64 := 0
  hi : W64 := 0
  launch : W64 := 0
  opt : W64 := 0
  deadline : W64 := 0
  indesc : W64 := 0
  succ : W64 := 0
  nsucc : W32 := 0
  done : W64 := 0
  deriving DecidableEq, Repr

/-- A registered queue (R260, R262, R375, R383). -/
structure Queue where
  /-- Virtual address of its header. -/
  hdr : W64
  server : Nat
  ctag : W16
  prev : TaskRec := {}
  /-- First and current segment of a task queue; 0 for none. -/
  first : Nat := 0
  seg : Nat := 0
  /-- Its server waits for a segment (R384), and the pool was empty (R385). -/
  full : Bool := false
  noPool : Bool := false
  /-- Its packet is being run: by a copy server, the Crown or firmware. -/
  busy : Bool := false
  deriving DecidableEq, Repr

/-- An operating point (R433). -/
structure OpPoint where
  index : Nat
  ratio : Nat
  div : Nat
  nclu : Nat
  launch : W64
  dur : Nat
  power : Nat
  /-- Format code, reported and not interpreted. -/
  fmt : Nat := 0
  deriving DecidableEq, Repr

/-- An unstarted range task assigned to a cluster (R28, R381, R382). -/
structure RangeTask where
  lo : W64
  hi : W64
  cluster : Nat
  deriving DecidableEq, Repr

/-- A launch header that has passed its checks (R24, R25). -/
structure Launch where
  header : W64
  flags : Nat
  nfield : Nat
  regsl : Nat
  l1sl : Nat
  rings : Nat
  fw : List Nat
  pt : List Nat
  grain : W64
  entry : List W64
  tt : List W64
  ckpt : W64
  ckptN : Nat
  deriving DecidableEq, Repr

/-- One run of a dispatched node (R387, R392). -/
structure Run where
  num : Nat
  slot : Nat
  clusters : List Nat
  tasks : List RangeTask := []
  /-- Clusters whose team has not started because they are waking (R447). -/
  pending : List Nat := []
  /-- Every core that has served it. -/
  cores : List Nat := []
  tile : Option Nat := none
  /-- Where the partition is too small for disjoint clusters, the third of each cluster's pool cores it may use (R392). -/
  share : Option Nat := none
  deriving DecidableEq, Repr

/-- STATE of a live record (R384). -/
inductive NodeState where
  | waiting | ready | dispatched | retiring
  deriving DecidableEq, Repr

/-- A live node (R377, R384). -/
structure Node where
  ctx : Nat
  /-- Its queue, segment and record. -/
  queue : Nat
  seg : Nat
  idx : Nat
  r : TaskRec
  remain : Nat
  st : NodeState := .waiting
  ready : Nat := 0
  /-- Promotions, and the GTC since which it has waited at its level; of a node that is not ready, how long it had waited (R44, R388). -/
  promo : Nat := 0
  since : Nat := 0
  /-- Valid points of its table, once read (R433). -/
  points : Option (List OpPoint) := none
  /-- A point that the node waits for under rule 3 of R435, and the flag of rule 4. -/
  waits : Option OpPoint := none
  point : Option OpPoint := none
  /-- It is to be selected (R435). -/
  sel : Bool := false
  launch : Option Launch := none
  flags : Nat := 0
  dar : Bool := false
  rb : Bool := false
  rx : Bool := false
  rolls : Nat := 0
  runs : List Run := []
  /-- Cores that served it at a hardware error (R391) and cores of earlier runs (R392). -/
  excluded : List Nat := []
  /-- Its two runs have differed: a third is to be dispatched (R392). -/
  third : Bool := false
  /-- It ends without DONE, with this status (R386). -/
  status : Option Nat := none
  /-- Index of the next successor to signal (R379). -/
  next : Nat := 0
  deriving DecidableEq, Repr

/-- An early-signal entry (R379). -/
structure Early where
  ctag : W16
  node : W32
  count : Nat
  deriving DecidableEq, Repr

/-- A pre-emption in progress (R405, R406). -/
structure Cuff where
  part : Nat
  ctag : W16
  t0 : Nat
  /-- Units that have yet to receive the request, and that have yet to acknowledge: cores as themselves, clusters 512 up,
  chiplet sequencers 576 up, the Crown 584, the scheduler 585. -/
  sends : List Nat
  acks : List Nat
  /-- Cores that make a full save. -/
  full : List Nat := []
  /-- Saved core records, by core, with the size of each. -/
  saved : List Nat := []
  /-- It was asked for by park curtailment. -/
  park : Bool := false
  deriving DecidableEq, Repr

/-- A segment of a curve (R424). -/
structure Seg where
  start : Nat
  limit : Nat
  ramp : Nat
  grade : Nat
  deriving DecidableEq, Repr

/-- A curve (R424, R426). -/
structure Curve where
  seq : W64
  vfrom : Nat
  vto : Nat
  segs : List Seg
  deriving DecidableEq, Repr

/-- Power state kept by the MGC (R426-R441). -/
structure Power where
  /-- Energy table: key `12 class + 3 width + step` (R429). -/
  etable : Sparse W32 := []
  /-- Weight tables: key `32 table + class` (R438). -/
  weights : Sparse Nat := []
  /-- CURT (R441) and OCCAUSE (R440). -/
  curt : W64 := 0
  occause : W64 := 0
  pfloor : Nat := 1500
  rfloor : Nat := 200
  pmin : Nat := 600
  pidle : Nat := 1100
  pcap : Sparse Nat := []
  /-- Highest accepted SEQ; the curve in force and the pending one. -/
  seq : W64 := 0
  curve : Option Curve := none
  pending : Option Curve := none
  /-- C in 1/100 W, and the GTC of the last step. -/
  c : Nat := 150000
  stepped : Option Nat := none
  /-- P10 and OFF in units of 1/(1.6e10) W, and the energy sum of the window in 1/16 pJ. -/
  p10 : Int := 0
  off : Int := 0
  e1 : Nat := 0
  /-- Sum of C over the window, its steps so far, and whether demand stood at every step (R431). -/
  csum : Nat := 0
  steps : Nat := 0
  demand : Bool := true
  /-- GTC of the last reading of the accumulators, and their sum then. -/
  measured : Option Nat := none
  e10 : Nat := 0
  /-- Pm of the last complete window, in the unit of P10, and the GTC of the last window's end. -/
  pm : Nat := 0
  windowed : Option Nat := none
  /-- Escalation, and windows within bounds since (R432). -/
  esc : Bool := false
  good : Nat := 0
  /-- Grade in force, and the GTC until which a raise's bound runs. -/
  grade : Nat := 0
  raiseTo : Nat := 0
  /-- Common refill target (R432). -/
  refill : Nat := 256
  deriving DecidableEq, Repr

/-- A management command in the firmware's queue (R461), and the registered queue it came through, if it did. -/
structure Mgmt where
  slot : BitVec 512
  queue : Option Nat := none
  /-- It has begun, and waits for an access-table write with this number, or for a sweep. -/
  waits : Option Nat := none
  deriving DecidableEq, Repr

/-- An operation of a host queue pair that has stopped at a kill (R352). -/
structure HostReq where
  qp : Nat
  pa : Nat
  op : PeerOp
  deriving DecidableEq, Repr

/-- Firmware (R461-R465). -/
structure Fw where
  recovery : Bool := false
  cmds : List Mgmt := []
  /-- Facility identifier and keys as provisioned (R424, R425): the bytes of the TABLES payload that carry them. -/
  facility : W128 := 0
  keys : List Byte := []
  /-- A reset that a command asked for: cold or not. -/
  wanted : Option Bool := none
  /-- Image staged for the next reset, its security version and digest; those of the running image; the fused minimum (R462). -/
  staged : Option (List Byte) := none
  image : List Byte := []
  version : W32 := 0
  fusedMin : W32 := 0
  /-- Boots since power-up: each derives the identity keys again (R463). -/
  boots : Nat := 0
  /-- Host queue pairs with a bound context, by number (R461). -/
  qps : Sparse Nat := []
  /-- Rate of each Ethernet port: 400GBASE (R457). -/
  rate400 : List Bool := [false, false]
  /-- Cores whose known-answer sweep firmware has to run (R393, R453). -/
  sweeps : List Nat := []
  /-- The board holds the test-mode strap (R465). -/
  strap : Bool := false
  /-- Shift register of the TAP bypass, and what the TAP last shifted out. -/
  bypass : Bool := false
  tapOut : W64 := 0
  /-- Operations of host queue pairs that a check refused, as the MGC logs them (R16, R335): source number, master, address, GTC. -/
  violations : List (Nat × Nat × Nat × Nat) := []
  /-- Operations of queue pairs whose context has been killed and not reclaimed, oldest first (R352, R354). -/
  hostHeld : List HostReq := []
  /-- What a host or a peer is answered, newest last: master ID of the queue pair or link, status, bytes. Status 0 is success, 1 a remote
  access error or a violation notice, 2 a remote operational error or poison, 3 an invalid request. -/
  answers : List (Nat × Nat × List Byte) := []
  deriving DecidableEq, Repr

/-- The part of a tick that the machine is in. -/
inductive TickPhase where
  | edge | issue | finish
  deriving DecidableEq, Repr

end Sys2Proof.Machine
end

