-- ==== Sys2Proof/Machine/State.lean ====
section
/-! DEFINITION. The whole machine: plain data only. -/

namespace Sys2Proof.Machine

/-- A job on a core: what the launch header and the dispatch fixed for it (R24, R39, R41). -/
structure Job where
  /-- Context ID and CTAG (R345). -/
  ctx : Nat := 0
  ctag : W16 := 0
  /-- The node and the run of a redundant node (R392). -/
  node : W32 := 0
  run : Nat := 0
  /-- The node's staging slot (R387), if it has one. -/
  slot : Option Nat := none
  part : Nat := 0
  /-- Virtual address of the launch header. -/
  header : W64 := 0
  flags : Nat := 0
  nfield : Nat := 1
  fw : List Nat := []
  regsl : Nat := 1
  l1sl : Nat := 16
  rings : Nat := 0
  entry : List W64 := []
  tt : List W64 := []
  ckpt : W64 := 0
  ckptN : Nat := 0
  /-- QPCAP and QPMIN as they stood at job start (R330). -/
  qpcap : W64 := 0x082020101010
  qpmin : W64 := 0x020404040404
  /-- The job's privilege level: 0 user, 1 supervisor (R320). -/
  level : Nat := 0
  /-- Weight table of the node's energy class (R438). -/
  eclass : Nat := 0
  deriving DecidableEq, Repr

/-- A core (R11). -/
structure Core where
  job : Option Job := none
  cl : Stream := {}
  cc : Stream := {}
  cs : Stream := {}
  vx : Stream := {}
  mxs : Stream := {}
  cxs : Stream := {}
  vec : Sparse Vec := []
  /-- Tile bytes: key `4096 z + 64 row + column`. -/
  tile : Sparse Byte := []
  /-- Accumulator elements: key `4096 a + 64 m + n`. -/
  acc : Sparse W32 := []
  fmask : W64 := 0
  tags : W64 := 0
  /-- Widest completion scope per tag since it was last cleared (R291). -/
  tagScope : Sparse Nat := []
  /-- Tags set in the current engine cycle with their scopes, and tags cleared in it (R265). -/
  tagSets : List (Nat × Nat) := []
  tagsClr : W64 := 0
  /-- Template writes of overlays that complete in the current engine cycle: stream, index, template (R67). -/
  tplWrites : List (StreamId × Nat × W128) := []
  wid : W64 := 0
  /-- Stochastic generators (R104), and the states MX draws see in this cycle (R172). -/
  sr : Sparse W32 := []
  srSeed : Sparse W32 := []
  vcyc : Nat := 0
  range : RangeSlot := {}
  ring0 : Ring := {}
  ring1 : Ring := {}
  fmtq : List W64 := []
  /-- Entries of each pool queue moved to the spill segment (R331). -/
  spilled : List Nat := [0, 0, 0, 0, 0, 0]
  /-- Format words pushed in the current engine cycle (R137). -/
  fmtqNew : List W64 := []
  issueOrd : Nat := 0
  pend : List Pend := []
  memq : List MemOp := []
  /-- An issue hold keeps the words of this engine cycle back (R58). -/
  holdReq : Bool := false
  /-- A charge of this engine cycle was refused, and so is every later one (R438). -/
  refused : Bool := false
  /-- Out of the pool until a known-answer sweep passes (R393), and the retention error counter (R446, R453). -/
  suspect : Bool := false
  errors : Nat := 0
  /-- It failed a sweep and stays out of the pool until cold reset (R393). -/
  failed : Bool := false
  /-- A virtual cycle has begun and not ended: it ends with the engine cycle in which nothing freezes the core (R56, R58). -/
  cycleOpen : Bool := false
  /-- Control and vector words may issue in this engine cycle (R58). -/
  issuing : Bool := false
  /-- A trap or a halt stood at the start of this engine cycle: only extended forms that have begun go on (R62, R78, R397). -/
  formsOnly : Bool := false
  /-- Engine cycles since job start (R400), and since the halt line of its partition rose (R396). -/
  age : Nat := 0
  skid : Nat := 0
  /-- Engine cycles without an issue or an outstanding operation (R38). -/
  stall : Nat := 0
  /-- Some word issued in the current engine cycle (R38). -/
  issued : Bool := false
  /-- Engine cycles in which nothing issued and some word held on the full pool; one has in this engine cycle (R331). -/
  poolHold : Nat := 0
  poolHeld : Bool := false
  /-- The job is retiring: its last phase is being committed (R35). -/
  retiring : Bool := false
  /-- The phase end of a core that saves itself (R407). -/
  saveOp : Option MemOp := none
  /-- Context, node and run of the core's last job, while the core asks for work (R382). -/
  asks : Option (Nat × W32 × Nat) := none
  /-- Register slices marked scrubbed (R42). -/
  scrubbed : List Nat := []
  sp : Sparse SpLine := []
  spEvents : List SpEvent := []
  /-- Poison marks that go with the fills of this engine cycle: line and sectors (R255). -/
  spPoison : List (Nat × BitVec 4) := []
  l1 : List L1Line := []
  ranges : List RangeEnt := []
  /-- Entries whose commands have completed in the current engine cycle: engine and number (R270). -/
  rangesDone : List (StreamId × Nat) := []
  phase : W32 := 0
  sig1 : BitVec 512 := 0
  sig2 : BitVec 512 := 0
  sig3 : BitVec 512 := 0
  sig4 : BitVec 512 := 0
  lastEp : List W64 := [0, 0, 0, 0]
  /-- Handler mode, handler count and the recorded VCYC (R328). -/
  hm : Bool := false
  hcyc : Nat := 0
  /-- Service wait (R329). -/
  svcWait : Bool := false
  /-- Causes pending: CAUSE bits, TMR bits, CODE and STRM (R326, R327). -/
  trapBits : Nat := 0
  trapTmr : Nat := 0
  trapCode : W32 := 0
  trapStrm : Nat := 0
  trapSync : Bool := false
  tcause : W64 := 0
  tvec : W64 := 0
  tframe : W64 := 0
  tdeleg : W64 := 0
  /-- Job CSRs written in the current engine cycle: number and value (R340). -/
  csrNew : List (Nat × W64) := []
  /-- Words whose requests had left the core when a trap was taken: their answers are awaited by `eret` (R295). -/
  savedOps : List MemOp := []
  /-- The word that held CC when a trap was taken (R295). -/
  savedHold : Option MemOp := none
  /-- MX held a command when the trap was taken (R209). -/
  savedMx : Bool := false
  /-- A completed `carve` whose new L1SL is not yet in force here (R243). -/
  carveTo : Option Nat := none
  mx : Mx := {}
  cx : Cx := {}
  /-- Outstanding tile instructions of the core (R175). -/
  tilesOut : List Nat := []
  deriving DecidableEq, Repr

/-- Why a step ends in a fault. The spec's own faults halt a context and the machine goes on (R396), so none of them
is one of these. -/
inductive Fault where
  /-- The machine is wedged: no part of it can ever act again. Never raised by a meaning; safe. -/
  | wedged
  deriving DecidableEq, Repr

/-- Why a step is refused. -/
inductive Refusal where
  /-- An instruction that has no meaning yet, by its mnemonic; raised by `exec` alone; safe. -/
  | notModelled (mnemonic : String)
  deriving DecidableEq, Repr

/-- What the word being issued brought with it (R71-R80). -/
structure Cur where
  core : Nat := 0
  strm : StreamId := .cc
  slot : Nat := 0
  /-- Words of the form. -/
  words : Nat := 1
  /-- Template the issued copy came from, and the copy (R72, R75). -/
  tmpl : Nat := 0
  copy : W128 := 0
  writeBack : Bool := false
  /-- WARN bits of rows 13, 14, 16 and 18, from the patch word (R83). -/
  patchWarn : W64 := 0
  deriving DecidableEq, Repr

/-- A voltage ratio (R429, R437). -/
inductive Ratio where
  | lo | mid | hi
  deriving DecidableEq, Repr

/-- A byte-counting barrier (R274). -/
structure Bar where
  gen : W16 := 0
  overrun : Bool := false
  posted : Bool := false
  exp : Nat := 0
  arr : Nat := 0
  deriving DecidableEq, Repr

/-- A cluster (R10, R430, R437, R438). -/
structure Cluster where
  /-- Barriers 0 to 15, and the posts and arrivals of the current engine cycle: barrier, posted bytes, arrived bytes. -/
  bars : Sparse Bar := []
  barAdds : List (Nat × Option Nat × Nat) := []
  /-- Its rail and clock are off (R446). -/
  gated : Bool := false
  ratio : Ratio := .lo
  divisor : Nat := 6
  /-- Energy accumulator (R430). -/
  eacc : W64 := 0
  /-- Charge bucket level and refill rate (R438). -/
  bucket : Nat := 4096
  refill : Nat := 32
  /-- Setting asked for, and the GTC at which a stopped clock restarts (R437). -/
  want : Option (Ratio × Nat) := none
  restart : Option Nat := none
  /-- Its wake register has been written (R447). -/
  waking : Bool := false
  /-- GTC by which it has woken (R447). -/
  wakeBy : Nat := 0
  /-- Replays since the last 10 µs step, and a replay limit that has been passed (R454). -/
  replays : Nat := 0
  limited : Bool := false
  deriving DecidableEq, Repr

/-- STATE of a context (R321, R339). -/
inductive CtxState where
  | empty | running | stopped | preempted | halted
  deriving DecidableEq, Repr

/-- A signature board (R289). -/
structure Board where
  cur : BitVec 512 := 0
  prev : BitVec 512 := 0
  epoch : W64 := 0
  deriving DecidableEq, Repr

/-- A context: its table entry (R321) and its parameters (R325, R330, R363, R385, R402, R413). -/
structure Ctx where
  valid : Bool := false
  priv : Bool := false
  inc : BitVec 6 := 0
  mgr : Nat := 0
  res : Bool := false
  part : Nat := 0
  state : CtxState := .empty
  svcq : W64 := 0
  mxslack : W64 := 256
  ckwd : W64 := 350000
  qpmin : W64 := 0x020404040404
  qpcap : W64 := 0x082020101010
  ptroot : W64 := 0
  dlogbase : W64 := 0
  dlogidx : W64 := 0
  dlogep : W64 := 0
  tsegpool : W64 := 0
  stoplog : W64 := 0
  savebase : W64 := 0
  /-- Energy counter, in units of 1 uJ, and the remainder below it in 1/16 pJ (R430). -/
  energy : W64 := 0
  energyRem : Nat := 0
  /-- Boards: key cluster number, 64 + C-die, 72 device, 73 fabric (R289). -/
  boards : Sparse Board := []
  /-- Its task queue that was served last (R377). -/
  lastQueue : Nat := 0
  /-- Devices of the fabric set, and those whose firmware last reported that they hold cores of the context (R356). -/
  fabset : List Nat := []
  peerCores : List Nat := []
  /-- Pre-empted by park curtailment and not touched by its manager since (R445); killed by shed (R394). -/
  parked : Bool := false
  shed : Bool := false
  /-- GTC at which it last stopped running: its nodes' ageing pauses (R395). -/
  stoppedAt : Nat := 0
  deriving DecidableEq, Repr

/-- A partition table entry (R322). -/
structure Part where
  spill : W64 := 0
  stgl2 : W64 := 0
  valid : Bool := false
  ctx : Nat := 0
  ox : Nat := 0
  oy : Nat := 0
  wm1 : Nat := 0
  hm1 : Nat := 0
  deriving DecidableEq, Repr

/-- A stop record (R400). -/
structure StopRec where
  src : Nat := 0
  code : Nat := 0
  flags : Nat := 0
  cpath : Nat := 0xFFFFFF
  gtc : Nat := 0
  ctag : W16 := 0
  node : W32 := 0xFFFFFFFF
  pc : W64 := 0
  addr : W64 := 0
  det1 : W64 := 0
  det2 : W64 := 0
  time : W64 := 0
  /-- Source numbers of the units above the faulting child: they write its path into their own records (R197). -/
  above : List Nat := []
  /-- The target that refused the request, which counts it (R335); no part of the record. -/
  denier : Option Nat := none
  deriving DecidableEq, Repr

/-- The halt line of a partition and the progress of its halt (R396-R402). -/
structure Halt where
  raised : Bool := false
  /-- `hltclr` has released the line; the units stand stopped until `prun` (R339, R399). -/
  cleared : Bool := false
  /-- GTC at which the line rose. -/
  gtc : Nat := 0
  /-- Raised by `pstop`, by a kill. -/
  pstop : Bool := false
  kill : Bool := false
  /-- Fault records raised and not yet written (R402). -/
  faults : List StopRec := []
  /-- Source numbers of the units that have written their stop records. -/
  stopped : List Nat := []
  /-- Its first record has been written (R402). -/
  opened : Bool := false
  /-- Every unit has stopped and the completion is done (R399). -/
  complete : Bool := false
  /-- The primary record so far (R402). -/
  primary : Option StopRec := none
  deriving DecidableEq, Repr

/-- Whether the units of a partition are stopping or stand stopped (R397, R399). -/
def Halt.stops (h : Halt) : Bool := h.raised || h.cleared

/-- A team (R39, R40): the jobs of one run of a node on one cluster, and its barrier. -/
structure Team where
  cluster : Nat
  ctx : Nat
  node : W32
  run : Nat := 0
  /-- Generations completed. -/
  gen : Nat := 0
  l1sl : Nat := 16
  /-- Cores that hold a job of the team. -/
  members : List Nat := []
  /-- Cores that were members when the open generation opened. -/
  present : List Nat := []
  /-- Cores that have arrived, each with the L1SL its `carve` carries. -/
  arrived : List (Nat × Option W64) := []
  deriving DecidableEq, Repr

structure State where
  gtc : Nat := 0
  /-- Counter that free values are drawn with; the model's own. -/
  free : Nat := 0
  cores : Sparse Core := []
  clusters : Sparse Cluster := []
  power : Power := {}
  mem : Mem := {}
  /-- The copy servers of the H-dies (R262). -/
  server0 : Cx := {}
  server1 : Cx := {}
  /-- Registered queues whose current packet a copy server has finished (R261). -/
  served : List Nat := []
  teams : List Team := []
  /-- Tile instructions in issue order, and the next number. -/
  tiles : List TileIns := []
  /-- Tile work that cores have taken so far. -/
  tileOrd : Nat := 0
  /-- Tile descriptors from peers that the Crown has yet to take (R181, R264). -/
  fabTiles : List FabTile := []
  nextTile : Nat := 0
  /-- Scale-up links 0 to 35 (R459). -/
  links : Sparse Link := []
  ctxs : Sparse Ctx := []
  parts : Sparse Part := []
  halts : Sparse Halt := []
  /-- Registered queues, by number (R262). -/
  queues : Sparse Queue := []
  nextQueue : Nat := 0
  nodes : List Node := []
  early : List Early := []
  /-- Pre-emptions the Cuff holds (R406). -/
  cuffs : List Cuff := []
  /-- C-dies that park has gated (R444). -/
  parkedDies : List Nat := []
  fw : Fw := {}
  /-- Machine checks that have not been raised: cause, unit, engine or detail (R454). -/
  checks : List (Nat × Nat × Nat) := []
  /-- Events from outside, each with the GTC at which it comes. -/
  agenda : List (Nat × Sys2Proof.Instr) := []
  phase : TickPhase := .edge
  /-- GTC of the last step at an edge that may have performed a packet: no install follows it at that edge (R350). -/
  moved : Option Nat := none
  /-- Nodes that must roll back, with the cause (R389). -/
  rollbacks : List (Nat × W32 × RollCause) := []
  cur : Cur := {}
  /-- Issue slots left in this tick: core, stream, slot (R36, R55). -/
  turn : List (Nat × StreamId × Nat) := []
  deriving DecidableEq, Repr

/-- The machine right after cold reset (R465): every default above. -/
def State.reset : State := {}

end Sys2Proof.Machine
end

