-- ==== Sys2Proof/Machine/Operands.lean ====
section
/-! DEFINITION. Reaching cores and streams, every operand form, and how a result is put on its way to a register
(R47-R57, R119). -/

namespace Sys2Proof.Machine

/-! ## Cores and streams -/

/-- Core `c`. -/
def State.core (s : State) (c : Nat) : Core := sget {} s.cores c

/-- Change core `c`. -/
def State.updCore (s : State) (c : Nat) (f : Core → Core) : State :=
  { s with cores := sinsert s.cores c (f (s.core c)) }

/-- Cluster `k`. -/
def State.cluster (s : State) (k : Nat) : Cluster := sget {} s.clusters k

/-- Change cluster `k`. -/
def State.updCluster (s : State) (k : Nat) (f : Cluster → Cluster) : State :=
  { s with clusters := sinsert s.clusters k (f (s.cluster k)) }

/-- Stream `e` of a core. -/
def Core.strm (k : Core) : StreamId → Stream
  | .cl => k.cl | .cc => k.cc | .cs => k.cs | .vx => k.vx | .mx => k.mxs | .cx => k.cxs

/-- Replace stream `e` of a core. -/
def Core.setStrm (k : Core) (e : StreamId) (t : Stream) : Core :=
  match e with
  | .cl => { k with cl := t } | .cc => { k with cc := t } | .cs => { k with cs := t }
  | .vx => { k with vx := t } | .mx => { k with mxs := t } | .cx => { k with cxs := t }

/-- Change stream `e` of a core. -/
def Core.updStrm (k : Core) (e : StreamId) (f : Stream → Stream) : Core := k.setStrm e (f (k.strm e))

/-- Change stream `e` of core `c`. -/
def State.updStrm (s : State) (c : Nat) (e : StreamId) (f : Stream → Stream) : State :=
  s.updCore c fun k => k.updStrm e f

/-- The core of the word being issued. -/
def State.curCore (s : State) : Core := s.core s.cur.core

/-- The stream of the word being issued. -/
def State.curStrm (s : State) : Stream := s.curCore.strm s.cur.strm

/-- Change the core of the word being issued. -/
def State.updCur (s : State) (f : Core → Core) : State := s.updCore s.cur.core f

/-- Change the stream of the word being issued. -/
def State.updCurStrm (s : State) (f : Stream → Stream) : State := s.updStrm s.cur.core s.cur.strm f

/-- Context `c`. -/
def State.ctx (s : State) (c : Nat) : Ctx := sget {} s.ctxs c

/-- Change context `c`. -/
def State.updCtx (s : State) (c : Nat) (f : Ctx → Ctx) : State := { s with ctxs := sinsert s.ctxs c (f (s.ctx c)) }

/-- Partition `p`. -/
def State.part (s : State) (p : Nat) : Part := sget {} s.parts p

/-- Change partition `p`. -/
def State.updPart (s : State) (p : Nat) (f : Part → Part) : State := { s with parts := sinsert s.parts p (f (s.part p)) }

/-- The CTAG of a context: its ID above its incarnation (R321). -/
def ctagOf (ctx : Nat) (inc : BitVec 6) : W16 := BitVec.ofNat 16 (ctx * 64 + inc.toNat)

/-- The job of a core, or an empty one. -/
def Core.theJob (k : Core) : Job := k.job.getD {}

/-- The cluster of a core (R10). -/
def clusterOf (c : Nat) : Nat := c / 8

/-- The cycle count results land by: VCYC, or the handler count in handler mode (R328). -/
def Core.now (k : Core) : Nat := if k.hm then k.hcyc else k.vcyc

/-! ## Reading registers -/

/-- The physical vector a name selects (R52). -/
def physVec (st : Stream) (i : Nat) : Nat := if i < 32 then i else 32 + (i - 32 + st.rvb.toNat) % 32

/-- The physical predicate a name selects (R52). -/
def physPred (st : Stream) (i : Nat) : Nat := if i < 8 then i else 8 + (i - 8 + st.rpb.toNat) % 8

/-- Predicate `i` by name: p0 reads all ones (R47, R52). -/
def readPred (st : Stream) (i : Nat) : W64 :=
  if i = 0 then BitVec.allOnes 64 else sget 0 st.p (physPred st i)

/-- Scalar `i`: s0 reads zero (R47). -/
def readScalar (st : Stream) (i : Nat) : W64 := if i = 0 then 0 else sget 0 st.s i

/-- A special register, narrower ones zero-extended (R51). -/
def readSpecial (s : State) (c : Nat) (e : StreamId) (code : Nat) : W64 :=
  let k := s.core c
  let st := k.strm e
  match code with
  | 169 => BitVec.ofNat 64 s.gtc
  | 170 => BitVec.ofNat 64 (s.gtc / 4)
  | 171 => BitVec.ofNat 64 k.vcyc
  | 172 => k.tags
  | 173 => k.wid
  | 174 => st.warn
  | 175 => s.power.curt
  | 176 => st.rvb.setWidth 64
  | 177 => st.rpb.setWidth 64
  | 178 => st.lnk
  | 179 => k.fmask
  | _ => 0

/-- A scalar, special or predicate operand (R50, R119, R127). -/
def readReg (s : State) (c : Nat) (e : StreamId) (code : Nat) : W64 :=
  if code < 64 then readScalar ((s.core c).strm e) code
  else if 128 ≤ code ∧ code < 144 then readPred ((s.core c).strm e) (code - 128)
  else readSpecial s c e code

/-- A register operand of the word being issued. -/
def State.reg (s : State) (code : BitVec 8) : W64 := readReg s s.cur.core s.cur.strm code.toNat

/-- opa, opb and opc (R119). -/
def State.opa (s : State) (t : Tpl) : W64 := s.reg t.sa
def State.opb (s : State) (t : Tpl) : W64 := s.reg t.sb
def State.opc (s : State) (t : Tpl) : W64 := s.reg t.sc

/-- sext(IMM) (R119). -/
def simm (t : Tpl) : W64 := t.imm.signExtend 64

/-- ea := opa + imm (R131). -/
def State.ea (s : State) (t : Tpl) : W64 := s.opa t + simm t

/-- The guard predicate, with the template's negate bit (R48, R69, R147). -/
def State.guard (s : State) (t : Tpl) : W64 :=
  let v := readPred s.curStrm (field t.pred 0 4)
  if bit t.pred 4 then ~~~ v else v

/-- Bit 0 of the guard: the condition of a control, CX or system word (R48, R250). -/
def State.guard0 (s : State) (t : Tpl) : Bool := bit (s.guard t) 0

/-- A vector operand by code (R50, R52). -/
def State.vreg (s : State) (code : BitVec 8) : Vec :=
  sget 0 s.curCore.vec (physVec s.curStrm (code.toNat - 64))

/-- A predicate operand by code. -/
def State.preg (s : State) (code : BitVec 8) : W64 := readPred s.curStrm (code.toNat - 128)

/-! ## Destinations -/

/-- The physical register a destination code binds at issue (R50-R52). None where the write is discarded: s0, p0 and
the RO and RS specials. -/
def bindDst (st : Stream) (e : StreamId) (code : Nat) : Option Dst :=
  if code = 0 then none
  else if code < 64 then some (.scalar e code)
  else if code < 128 then some (.vec (physVec st (code - 64)))
  else if code = 128 then none
  else if code < 144 then some (.pred e (physPred st (code - 128)))
  else match code with
    | 176 => some (.rvb e)
    | 177 => some (.rpb e)
    | 178 => some (.lnk e)
    | 179 => some .fmask
    | _ => none

/-- A pending result added to a core (R56): issued now with latency `lat`, it lands at the end of cycle now + lat − 1. -/
def Core.addPend (k : Core) (e : StreamId) (dst : Dst) (lat : Nat) (v : Val) : Core :=
  { k with pend := k.pend ++ [{ strm := e, ord := k.issueOrd, dst := dst, due := k.now + lat - 1, val := v }] }

/-- Send a value to the register a code names, with a latency (R56). -/
def State.land (s : State) (code : BitVec 8) (lat : Nat) (v : Val) : State :=
  match bindDst s.curStrm s.cur.strm code.toNat with
  | none => s
  | some d => s.updCur fun k => k.addPend s.cur.strm d lat v

/-- Send a 64-bit value to the register a code names. -/
def State.landWord (s : State) (code : BitVec 8) (lat : Nat) (v : W64) : State := s.land code lat (.word v)

/-- Send a vector to the register a code names. -/
def State.landVec (s : State) (code : BitVec 8) (lat : Nat) (v : Vec) : State := s.land code lat (.vector v)

/-! ## Writing registers at landing -/

/-- The bits of `b` under mask `m` put into `old`. -/
def mergeByte (old m b : Byte) : Byte := (old &&& ~~~ m) ||| (b &&& m)

/-- Bytes written into a tile, key `4096 z + offset`. -/
def putTile (m : Sparse Byte) (z : Nat) (l : List (Nat × Byte × Byte)) : Sparse Byte :=
  l.foldl (fun m p => supd 0 m (4096 * z + p.1) fun old => mergeByte old p.2.1 p.2.2) m

/-- Bytes written into an accumulator whose elements are 32-bit words, key `4096 a + element`. -/
def putAccBytes (m : Sparse W32) (a : Nat) (l : List (Nat × Byte × Byte)) : Sparse W32 :=
  l.foldl (fun m p => supd 0 m (4096 * a + p.1 / 4) fun old =>
    putField old (8 * (p.1 % 4)) 8 (mergeByte (byteAt old (p.1 % 4)) p.2.1 p.2.2).toNat) m

/-- Add `n` to counter `kind` of set `set`, stopping at 0xFFFF; an increment that reaches a non-zero threshold from
below leaves a crossing (R219, R222). -/
def Core.bump (k : Core) (set kind n : Nat) : Core :=
  let i := 3 * set + kind
  let old := sget 0 k.mx.counts i
  let new := Nat.min 0xFFFF (old + n)
  let thr := sget 0 k.mx.thresholds i
  { k with mx := { k.mx with
      counts := sset 0 k.mx.counts i new
      crossed := if thr != 0 && old < thr && thr ≤ new then k.mx.crossed ++ [(set, kind)] else k.mx.crossed } }

/-- The value of a landing word. -/
def Val.toWord : Val → W64
  | .word v => v
  | .orBits v => v
  | _ => 0

/-- The vector of a landing result. -/
def Val.toVec : Val → Vec
  | .vector v => v
  | _ => 0

/-- The elements of a landing register. -/
def Val.toElems : Val → List Nat
  | .elems l => l
  | _ => []

/-- The bytes of a landing result. -/
def Val.toBytes : Val → List (Nat × Byte × Byte)
  | .bytes l => l
  | _ => []

/-- Write a landed value into its register (R51, R56); RVB and RPB keep their low 5 and 3 bits. -/
def Core.writeDst (k : Core) (d : Dst) (v : Val) : Core :=
  match d with
  | .scalar e n => k.updStrm e fun st => { st with s := sset 0 st.s n v.toWord }
  | .pred e n => k.updStrm e fun st => { st with p := sset 0 st.p n v.toWord }
  | .vec n => { k with vec := sset 0 k.vec n v.toVec }
  | .lnk e => k.updStrm e fun st => { st with lnk := v.toWord }
  | .rvb e => k.updStrm e fun st => { st with rvb := v.toWord.setWidth 5 }
  | .rpb e => k.updStrm e fun st => { st with rpb := v.toWord.setWidth 3 }
  | .fmask =>
    match v with
    | .orBits b => { k with fmask := k.fmask ||| b }
    | v => { k with fmask := v.toWord }
  | .wid => { k with wid := v.toWord }
  | .count set kind => k.bump set kind v.toWord.toNat
  | .tile z => { k with tile := putTile k.tile z v.toBytes }
  | .accum a => { k with acc := putAccBytes k.acc a v.toBytes }
  | .tileAll z => { k with tile := sreplace 0 k.tile (4096 * z) (v.toElems.map fun b => BitVec.ofNat 8 b) }
  | .accAll a => { k with acc := sreplace 0 k.acc (4096 * a) (v.toElems.map fun b => BitVec.ofNat 32 b) }

end Sys2Proof.Machine
end

