-- ==== Sys2Proof/Machine/Flags.lean ====
section
/-! DEFINITION. The WARN bits and the fallback table (R82, R83), and the CTL fields as an instruction reads them
(R70). -/

namespace Sys2Proof.Machine

/-- Bit numbers of WARN (R82). -/
inductive WarnBit where
  | wcoll | slidx | slsel | spwr | forkdup | forkctx | ringdir | rndna | rndrsv | srna | satna | scopena | scopersv
  | ordna | ordbad | ctlspr | hrsv | vrsv | stgdrop | extrsv | modrsv | fldna | predna
  deriving DecidableEq, Repr

/-- The position of a WARN bit (R82). -/
def WarnBit.pos : WarnBit → Nat
  | .wcoll => 0 | .slidx => 1 | .slsel => 2 | .spwr => 3 | .forkdup => 4 | .forkctx => 5 | .ringdir => 6
  | .rndna => 7 | .rndrsv => 8 | .srna => 9 | .satna => 10 | .scopena => 11 | .scopersv => 12 | .ordna => 13
  | .ordbad => 14 | .ctlspr => 15 | .hrsv => 16 | .vrsv => 17 | .stgdrop => 18 | .extrsv => 19 | .modrsv => 20
  | .fldna => 21 | .predna => 22

/-- The WARN word with one bit, when `c` holds. -/
def warnIf (c : Bool) (b : WarnBit) : W64 := if c then BitVec.ofNat 64 (1 <<< b.pos) else 0

/-- Whether a destination code is a special register that is RO or RS (R51). -/
def isReadOnlySpecial (code : Nat) : Bool := 168 ≤ code && code ≤ 175

/-- The register codes an instruction writes (R118, R139, R159, R167). -/
def writtenCodes (o : Nat) (t : Tpl) : List Nat :=
  let f := opInfo o t
  let d := if f.dst = .no ∨ f.dst = .v ∨ f.dst = .t ∨ f.dst = .z ∨ f.dst = .a then [] else [t.dst.toNat]
  let a := if o = 0x041 ∨ ((o = 0x190 ∨ o = 0x191) ∧ bit t.mod 2) then [t.sa.toNat] else []
  let c := if o = 0x180 then [t.sc.toNat] else []
  d ++ a ++ c

/-- CTL.ORD with the parts that do not apply dropped (rows 10 and 11): bit 0 acquire, bit 1 release. -/
def ordOf (o : Nat) (t : Tpl) : Nat :=
  match (opInfo o t).ord with
  | none => 0
  | some m => t.ord &&& m

/-- Whether CTL.SCOPE is read: beside an order where it is not always read, even one whose part does not apply (R119, R132). A relaxed
vector access reads none (log entry 92). -/
def scopeRead (o : Nat) (t : Tpl) : Bool :=
  match (opInfo o t).scope with
  | .never => false
  | .always => true
  | .withOrder => t.ord != 0

/-- CTL.SCOPE as read: 101-111 mean device scope (row 9). 0 core, 1 cluster, 2 chiplet, 3 device, 4 fabric. -/
def scopeOf (o : Nat) (t : Tpl) : Nat :=
  if scopeRead o t then if t.scope ≤ 4 then t.scope else 3 else 0

/-- CTL.RND as read (rows 4, 5 and 6). -/
def rndOf (o : Nat) (t : Tpl) : Rnd :=
  let r := (opInfo o t).rnd
  if r = 0 then .rne
  else if t.rnd = 4 ∧ r = 1 then .rne
  else Rnd.ofCode t.rnd

/-- CTL.SAT as read (row 7). -/
def satOf (o : Nat) (t : Tpl) : Bool := (opInfo o t).sat && t.sat

/-- The fallback rows that the template's own fields match (R83): rows 1, 2, 4-12, 17 and 19. -/
def tplWarns (o : Nat) (t : Tpl) : W64 :=
  let f := opInfo o t
  warnIf ((writtenCodes o t).any isReadOnlySpecial) .spwr
  ||| warnIf (t.slice != 0 && !f.slice) .slsel
  ||| warnIf (t.rnd != 0 && f.rnd == 0) .rndna
  ||| warnIf (5 ≤ t.rnd && f.rnd != 0) .rndrsv
  ||| warnIf (t.rnd == 4 && f.rnd == 1) .srna
  ||| warnIf (t.sat && !f.sat) .satna
  ||| warnIf (t.scope != 0 && !scopeRead o t) .scopena
  ||| warnIf (5 ≤ t.scope && scopeRead o t) .scopersv
  ||| warnIf (t.ord != 0 && f.ord.isNone) .ordna
  ||| warnIf (f.ord.isSome && t.ord != ordOf o t) .ordbad
  ||| warnIf (t.spare != 0) .ctlspr
  ||| warnIf (t.mod.toNat != t.mod.toNat &&& f.mod || (0x00F ≤ o && o ≤ 0x012 && bit t.mod 0 && 64 ≤ t.imm.toNat)) .modrsv
  ||| warnIf (!f.pred && t.pred != 0) .predna

/-- Whether an instruction reads the template field that field-select code `f` amends (row 18). A patch of IMM by a
long immediate counts as code 12. -/
def fieldRead (o : Nat) (t : Tpl) (f : Nat) : Bool :=
  let i := opInfo o t
  match f with
  | 0 => i.dst != .no
  | 1 => i.sa != .no
  | 2 => i.sb != .no
  | 3 => i.sc != .no
  | 4 | 5 | 12 => i.imm
  | 6 | 7 | 13 => i.ext
  | 8 => i.dst != .no && i.sa != .no
  | 9 => i.sb != .no && i.sc != .no
  | 10 => i.pred
  | 11 => i.mod != 0
  | _ => true

/-- Rows 13 and 14 of a patch word, and row 18 for the template it makes (R83): a predicate override amends PRED as F 10 does (R69, R74). -/
def patchWarns (o : Nat) (t : Tpl) (f h v : Nat) : W64 :=
  warnIf (nbits h 3 1 == 0 && nbits h 0 3 != 0) .hrsv
  ||| warnIf (2 ^ amendWidth f ≤ v % 65536) .vrsv
  ||| warnIf (!fieldRead o t f || (nbits h 3 1 == 1 && !(opInfo o t).pred)) .fldna

/-- Set WARN bits of the issuing stream; they stand in WARN from the end of the cycle (R82, R143). -/
def State.warn (s : State) (w : W64) : State :=
  s.updCurStrm fun st => { st with warnSet := st.warnSet ||| w }

end Sys2Proof.Machine
end

