-- ==== Sys2Proof/Machine/Retire.lean ====
section
/-! DEFINITION. What every issued word does around its own effect: the charge (R429, R438), the WARN bits (R83), the
write-back and the staging buffer (R72, R75), the next address, redirects, annulment, base rotation and repeats (R53,
R60, R78, R158). -/

namespace Sys2Proof.Machine

/-- The outcome of a meaning. -/
abbrev Out := Host.Outcome State Fault Refusal

/-! ## Charges -/

/-- Width code of an access of `n` bytes (R429). -/
def widthCode (n : Nat) : Nat := if n ≤ 1 then 0 else if n ≤ 2 then 1 else if n ≤ 4 then 2 else 3

/-- Width code of an element type (R429). -/
def typeWidth (ty : Nat) : Nat :=
  if ty = 6 then 0 else if ty = 1 ∨ ty = 2 ∨ ty = 5 then 1 else if ty = 7 then 3 else 2

/-- Operation class and width code a control or vector word is charged under (R429; log entry 9). -/
def energyClass (o : Nat) (t : Tpl) : Option (Nat × Nat) :=
  if o = 0x07E ∨ o = 0x07F ∨ 0x1FD ≤ o ∧ o ≤ 0x1FF then none
  else if o = 0x030 ∨ o = 0x031 then some (if bit t.mod 3 then 2 else 3, field t.mod 0 2)
  else if o = 0x032 then some (3, 3)
  else if o = 0x095 ∨ o = 0x096 then some (3, field t.mod 0 2)
  else if 0x003 ≤ o ∧ o ≤ 0x009 ∨ o = 0x082 then some (1, 3)
  else if o < 0x100 ∨ 0x280 ≤ o ∧ o < 0x300 ∨ 0x380 ≤ o then some (0, 3)
  else if o ≤ 0x101 ∨ o = 0x106 ∨ o = 0x107 ∨ o = 0x108 ∨ o = 0x109 then some (4, typeWidth (vtypeOf o t))
  else if o ≤ 0x105 then some (5, typeWidth (vtypeOf o t))
  else if o ≤ 0x110 then some (6, typeWidth (vtypeOf o t))
  else if o = 0x111 then some (7, 2)
  else if o ≤ 0x121 then some (4, typeWidth (vtypeOf o t))
  else if o ≤ 0x12E then some (4, 2)
  else if o ≤ 0x183 then some (7, 2)
  else if o ≤ 0x18F then
    if o = 0x18B ∨ o = 0x18C ∨ o = 0x18D then some (4, 2) else some (9, typeWidth (vtypeOf o t))
  else if o ≤ 0x191 then some (if bit t.mod 3 then 2 else 3, 3)
  else if o ≤ 0x194 then some (8, 2)
  else if o ≤ 0x197 then some (4, 2)
  else none

/-- Weight of a class for the work on core `c` (R438). -/
def State.weight (s : State) (c cls : Nat) : Nat :=
  let table := match (s.core c).job with
    | some j => j.eclass
    | none => 0
  sget 0 s.power.weights (32 * table + cls)

/-- Whether the bucket of the core's cluster admits a charge (R438). -/
def State.admits (s : State) (c : Nat) (cls : Option (Nat × Nat)) : Bool :=
  match cls with
  | none => true
  | some (k, _) => !(s.core c).refused && s.weight c k ≤ (s.cluster (clusterOf c)).bucket

/-- The voltage step of a ratio (R429). -/
def Ratio.step : Ratio → Nat
  | .lo => 0 | .mid => 1 | .hi => 2

/-- The entry E[class][width][step] (R429). -/
def State.energyEntry (s : State) (k : Nat) (cls width : Nat) : W32 :=
  sget 0 s.power.etable (12 * cls + 3 * width + (s.cluster k).ratio.step)

/-- Charge a cluster's EACC without the bucket (R430): requests performed away from the core. -/
def State.chargeEnergy (s : State) (k cls width n : Nat) : State :=
  s.updCluster k fun u =>
    { u with eacc := u.eacc + BitVec.ofNat 64 (n * (s.energyEntry k cls width).toNat) }

/-- Charge what a core's request does away from it; other masters belong to no cluster. -/
def State.chargeMaster (s : State) (master cls n : Nat) : State := if master < 512 then s.chargeEnergy (master / 8) cls 0 n else s

/-- Charge a word of core `c`: the bucket and EACC (R430, R438). -/
def State.charge (s : State) (c : Nat) (cls : Option (Nat × Nat)) : State :=
  match cls with
  | none => s
  | some (k, width) =>
    s.updCluster (clusterOf c) fun u =>
      { u with
        bucket := u.bucket - s.weight c k
        eacc := u.eacc + (s.energyEntry (clusterOf c) k width).setWidth 64 }

/-! ## Where the stream goes next -/

/-- How a word redirects its stream. -/
inductive Branch where
  | seq
  /-- A taken branch: its target after two more words (R60). -/
  | taken (target : W64)
  /-- A nullifying branch that is not taken: the next two words are annulled (R60). -/
  | nullify
  /-- An immediate jump: a repeat of zero passes (R158). -/
  | jump (target : W64)
  deriving DecidableEq, Repr

/-- The end-of-block steps of the repeat stack for a word at `pc` of `bytes` bytes (R158): the next address, the stack,
and how many block ends were passed. Where two bodies end on one word, both levels step at it (log entry 94). -/
def repSteps (pc next : W64) (bytes : Nat) : List Rep → W64 × List Rep × Nat
  | [] => (next, [], 0)
  | r :: rs =>
    let off := (r.last - pc).toNat
    if off < bytes then
      if 1 < r.left.toNat then (r.start, { r with left := r.left - 1 } :: rs, 1)
      else
        let (n, rs', k) := repSteps pc next bytes rs
        (n, rs', k + 1)
    else (next, r :: rs, 0)

/-- Redirect entries after one more word: those that stay, and the target of the one that reached zero (R60). -/
def countRedirects (rs : List (Nat × W64)) (next : W64) : List (Nat × W64) × W64 :=
  let rs' := rs.map fun e => (e.1 - 1, e.2)
  (rs'.filter fun e => e.1 != 0, ((rs'.find? fun e => e.1 == 0).map (·.2)).getD next)

/-- Step RVB and RPB down by `n` (R53, R158). -/
def Stream.rotate (st : Stream) (n : Nat) : Stream :=
  { st with rvb := st.rvb - BitVec.ofNat 5 n, rpb := st.rpb - BitVec.ofNat 3 n }

/-- The stream after a word or form of `words` words has issued (R60, R64, R78, R158). `rot`: the word is a `loop`.
`ann`: it issued annulled. -/
def Stream.advance (st : Stream) (words : Nat) (br : Branch) (rot ann : Bool) : Stream :=
  let next := st.pc + BitVec.ofNat 64 (4 * words)
  let (reds, next) := countRedirects st.redirects next
  let annul := if ann then st.annul - 1 else st.annul
  let ends := (st.rot.filter fun n => n ≤ 1).length
  let rots := (st.rot.filter fun n => 1 < n).map (· - 1)
  let next := match br with
    | .jump t => t
    | _ => next
  let (next, reps, passes) := repSteps st.pc next (4 * words) st.reps
  let resume := st.resume.drop 1
  let st := { st with
    pc := match resume with
      | (a, _) :: _ => a
      | [] => next
    resume := resume
    redirects := match br with
      | .taken t => reds ++ [(2, t)]
      | _ => reds
    annul := match br with
      | .nullify => 2
      | _ => annul
    rot := if rot then rots ++ [2] else rots
    reps := reps
    form := [] }
  st.rotate (ends + passes)

/-- Whether the issuing word is to be treated as annulled: an annul count or a reinstated N bit (R60, R64). -/
def Stream.isAnnulled (st : Stream) : Bool :=
  st.annul != 0 || match st.resume with
    | (_, n) :: _ => n
    | [] => false

/-- An annulled form takes its slot and changes nothing else (R60, R78). -/
def Stream.passAnnulled (st : Stream) (words : Nat) : Stream := st.advance words .seq false true

/-- The template table and staging buffer after the issuing word (R72, R75). -/
def Stream.writeBack (st : Stream) (cur : Cur) : Stream :=
  { st with
    table := if cur.writeBack then sset 0 st.table cur.tmpl cur.copy else st.table
    stage := match st.stage with
      | some (n, w) => if n = cur.tmpl then none else some (n, w)
      | none => none }

/-- Whether the word does anything (R80): an unpredicated one always; a vector word when some lane's guard is true;
any other word when bit 0 of its guard is true. A vector word of type .s executes under bit 0 alone (R157), and its WARN bits go with any
true bit (log entry 94). -/
def State.active (s : State) (o : Nat) (t : Tpl) : Bool :=
  if !(opInfo o t).pred then true
  else if o / 128 = 2 ∨ o / 128 = 3 then s.guard t != 0
  else s.guard0 t

/-- Issue completed: WARN bits when the word was active, the charge, the write-back and the next address. -/
def State.retire (s : State) (o : Nat) (t : Tpl) (active : Bool) (br : Branch) (rot : Bool) : State :=
  let s := if active then s.warn (tplWarns o t ||| s.cur.patchWarn) else s
  let s := s.charge s.cur.core (energyClass o t)
  let words := s.cur.words
  let cur := s.cur
  s.updCur fun k =>
    { k.updStrm cur.strm fun st => (st.writeBack cur).advance words br rot false with
      issueOrd := k.issueOrd + 1
      issued := true }

/-- The word does not issue, and no word of the core's engine cycle issues (R58). -/
def State.holdCycle (s : State) : State := s.updCur fun k => { k with holdReq := true }

/-- A refused charge (R438): an issue hold, and every later charge of the edge from the same core is refused. -/
def State.refuseCycle (s : State) : State := s.updCur fun k => { k with holdReq := true, refused := true }

/-- The word does not issue in this cycle and its stream waits; the other streams go on (R37). -/
def State.blockWord (s : State) : State := s.updCurStrm fun st => { st with blocked := true }

/-- Issue a word whose effect is `body` when it is active and which falls through to the next word. -/
def issue (o : Nat) (t : Tpl) (body : State → State) (s : State) : Out :=
  if s.admits s.cur.core (energyClass o t) then
    let act := s.active o t
    .next ((if act then body s else s).retire o t act .seq false)
  else .next s.refuseCycle

/-- Issue a word that may redirect its stream: `br` is formed from the state before the effect. -/
def issueBranch (o : Nat) (t : Tpl) (br : Branch) (rot : Bool) (body : State → State) (s : State) : Out :=
  if s.admits s.cur.core (energyClass o t) then .next ((body s).retire o t (s.active o t) br rot)
  else .next s.refuseCycle

end Sys2Proof.Machine
end

