-- ==== Sys2Proof/Machine/Control.lean ====
section
/-! DEFINITION. Control instructions other than memory accesses (R118-R130, R136-R145). -/

namespace Sys2Proof.Machine

/-- A scalar instruction of latency `lat` whose result is `f` of the state at issue (R56, R119). -/
def scalarOp (o lat : Nat) (t : Tpl) (f : State → W64) (s : State) : Out :=
  issue o t (fun s => s.landWord t.dst lat (f s)) s

/-! ## Integer arithmetic and logic (R120-R123) -/

/-- A signed result clamped to 64 bits (R121). -/
def clamp64 (x : Int) : W64 := BitVec.ofInt 64 (clampInt (-(2 ^ 63 : Nat)) ((2 ^ 63 : Nat) - 1) x)

/-- A sum that wraps, or clamps under SAT (R121). -/
def sumSat (sat : Bool) (x : Int) : W64 := if sat then clamp64 x else BitVec.ofInt 64 x

/-- ADD (R120, R121). -/
def execAdd (t : Tpl) (s : State) : Out :=
  scalarOp 0x000 1 t (fun s => sumSat (satOf 0x000 t) ((s.opa t).toInt + (s.opb t).toInt)) s

/-- SUB (R120, R121). -/
def execSub (t : Tpl) (s : State) : Out :=
  scalarOp 0x001 1 t (fun s => sumSat (satOf 0x001 t) ((s.opa t).toInt - (s.opb t).toInt)) s

/-- ADDI (R120, R121). -/
def execAddi (t : Tpl) (s : State) : Out :=
  scalarOp 0x002 1 t (fun s => sumSat (satOf 0x002 t) ((s.opa t).toInt + (simm t).toInt)) s

/-- MUL (R120). -/
def execMul (t : Tpl) (s : State) : Out := scalarOp 0x003 3 t (fun s => s.opa t * s.opb t) s

/-- MULH (R120): bits [127:64] of the signed product. -/
def execMulh (t : Tpl) (s : State) : Out :=
  scalarOp 0x004 3 t (fun s => BitVec.ofInt 64 ((s.opa t).toInt * (s.opb t).toInt / (2 ^ 64 : Nat))) s

/-- MULHU (R120): bits [127:64] of the unsigned product. -/
def execMulhu (t : Tpl) (s : State) : Out :=
  scalarOp 0x005 3 t (fun s => BitVec.ofNat 64 ((s.opa t).toNat * (s.opb t).toNat / 2 ^ 64)) s

/-- DIV (R122): a zero divisor gives all ones, the overflow corner wraps to −2^63. -/
def execDiv (t : Tpl) (s : State) : Out :=
  scalarOp 0x006 18 t (fun s =>
    if s.opb t = 0 then BitVec.allOnes 64 else BitVec.ofInt 64 ((s.opa t).toInt.tdiv (s.opb t).toInt)) s

/-- DIVU (R122). -/
def execDivu (t : Tpl) (s : State) : Out :=
  scalarOp 0x007 18 t (fun s =>
    if s.opb t = 0 then BitVec.allOnes 64 else BitVec.ofNat 64 ((s.opa t).toNat / (s.opb t).toNat)) s

/-- REM (R122): the sign of the dividend; a zero divisor gives the dividend. -/
def execRem (t : Tpl) (s : State) : Out :=
  scalarOp 0x008 18 t (fun s =>
    if s.opb t = 0 then s.opa t else BitVec.ofInt 64 ((s.opa t).toInt.tmod (s.opb t).toInt)) s

/-- REMU (R122). -/
def execRemu (t : Tpl) (s : State) : Out :=
  scalarOp 0x009 18 t (fun s =>
    if s.opb t = 0 then s.opa t else BitVec.ofNat 64 ((s.opa t).toNat % (s.opb t).toNat)) s

/-- AND (R120). -/
def execAnd (t : Tpl) (s : State) : Out := scalarOp 0x00A 1 t (fun s => s.opa t &&& s.opb t) s
/-- OR (R120). -/
def execOr (t : Tpl) (s : State) : Out := scalarOp 0x00B 1 t (fun s => s.opa t ||| s.opb t) s
/-- XOR (R120). -/
def execXor (t : Tpl) (s : State) : Out := scalarOp 0x00C 1 t (fun s => s.opa t ^^^ s.opb t) s
/-- ANDN (R120). -/
def execAndn (t : Tpl) (s : State) : Out := scalarOp 0x00D 1 t (fun s => s.opa t &&& ~~~ s.opb t) s
/-- ORN (R120). -/
def execOrn (t : Tpl) (s : State) : Out := scalarOp 0x00E 1 t (fun s => s.opa t ||| ~~~ s.opb t) s

/-- The shift count of a control shift (R120). -/
def shiftCount (t : Tpl) (s : State) : Nat := if bit t.mod 0 then field t.imm 0 6 else (s.opb t).toNat % 64

/-- SHL (R120). -/
def execShl (t : Tpl) (s : State) : Out := scalarOp 0x00F 1 t (fun s => s.opa t <<< shiftCount t s) s
/-- SHR (R120). -/
def execShr (t : Tpl) (s : State) : Out := scalarOp 0x010 1 t (fun s => s.opa t >>> shiftCount t s) s
/-- SRA (R120). -/
def execSra (t : Tpl) (s : State) : Out := scalarOp 0x011 1 t (fun s => (s.opa t).sshiftRight (shiftCount t s)) s
/-- ROTL (R120). -/
def execRotl (t : Tpl) (s : State) : Out := scalarOp 0x012 1 t (fun s => (s.opa t).rotateLeft (shiftCount t s)) s

/-- CLZ (R120): 64 for zero. -/
def execClz (t : Tpl) (s : State) : Out :=
  scalarOp 0x013 1 t (fun s => BitVec.ofNat 64 (64 - bitLen (s.opa t).toNat)) s
/-- CTZ (R120): 64 for zero. -/
def execCtz (t : Tpl) (s : State) : Out :=
  scalarOp 0x014 1 t (fun s => BitVec.ofNat 64 (lowestBit (s.opa t).toNat 64)) s
/-- POPC (R120). -/
def execPopc (t : Tpl) (s : State) : Out :=
  scalarOp 0x015 1 t (fun s => BitVec.ofNat 64 (countBits (s.opa t).toNat 64)) s

/-- MIN (R120), signed. -/
def execMin (t : Tpl) (s : State) : Out :=
  scalarOp 0x016 1 t (fun s => if (s.opa t).toInt ≤ (s.opb t).toInt then s.opa t else s.opb t) s
/-- MAX (R120), signed. -/
def execMax (t : Tpl) (s : State) : Out :=
  scalarOp 0x017 1 t (fun s => if (s.opb t).toInt ≤ (s.opa t).toInt then s.opa t else s.opb t) s
/-- MINU (R120). -/
def execMinu (t : Tpl) (s : State) : Out :=
  scalarOp 0x018 1 t (fun s => if (s.opa t).toNat ≤ (s.opb t).toNat then s.opa t else s.opb t) s
/-- MAXU (R120). -/
def execMaxu (t : Tpl) (s : State) : Out :=
  scalarOp 0x019 1 t (fun s => if (s.opb t).toNat ≤ (s.opa t).toNat then s.opa t else s.opb t) s

/-- The bits of `a` at the set positions of mask `m`, packed low, from position `i` (R123). -/
def gatherBits (a m : W64) : Nat → Nat → Nat → Nat
  | 0, _, _ => 0
  | n + 1, i, j =>
    if bit m i then (if bit a i then 2 ^ j else 0) + gatherBits a m n (i + 1) (j + 1) else gatherBits a m n (i + 1) j

/-- The low bits of `a` scattered to the set positions of mask `m`, from position `i` (R123). -/
def scatterBits (a m : W64) : Nat → Nat → Nat → Nat
  | 0, _, _ => 0
  | n + 1, i, j =>
    if bit m i then (if bit a j then 2 ^ i else 0) + scatterBits a m n (i + 1) (j + 1) else scatterBits a m n (i + 1) j

/-- BEXT (R123). -/
def execBext (t : Tpl) (s : State) : Out :=
  scalarOp 0x080 2 t (fun s => BitVec.ofNat 64 (gatherBits (s.opa t) (s.opb t) 64 0 0)) s
/-- BDEP (R123). -/
def execBdep (t : Tpl) (s : State) : Out :=
  scalarOp 0x081 2 t (fun s => BitVec.ofNat 64 (scatterBits (s.opa t) (s.opb t) 64 0 0)) s
/-- MADD (R120). -/
def execMadd (t : Tpl) (s : State) : Out := scalarOp 0x082 3 t (fun s => s.opa t * s.opb t + s.opc t) s
/-- ADDA (R120, R121). -/
def execAdda (t : Tpl) (s : State) : Out :=
  scalarOp 0x083 1 t (fun s =>
    sumSat (satOf 0x083 t)
      ((s.opa t).toInt + (s.opb t).toInt * (2 ^ field t.mod 0 2 : Nat) + (simm t).toInt)) s

/-! ## Compares, selects and moves (R124-R127) -/

/-- The condition of a compare or branch code (R124). -/
def condHolds (cc : Nat) (a b : W64) : Bool :=
  match cc with
  | 0 => a == b
  | 1 => a != b
  | 2 => decide (a.toInt < b.toInt)
  | 3 => decide (b.toInt ≤ a.toInt)
  | 4 => decide (a.toNat < b.toNat)
  | 5 => decide (b.toNat ≤ a.toNat)
  | 6 => decide (a.toInt ≤ b.toInt)
  | _ => decide (b.toInt < a.toInt)

/-- All ones or zero (R48). -/
def allBits (c : Bool) : W64 := if c then BitVec.allOnes 64 else 0

/-- SEL (R125). -/
def execSel (t : Tpl) (s : State) : Out :=
  scalarOp 0x01A 1 t (fun s => if bit (s.preg t.sc) 0 then s.opa t else s.opb t) s
/-- CMP (R124). -/
def execCmp (t : Tpl) (s : State) : Out :=
  scalarOp 0x01B 1 t (fun s => allBits (condHolds (field t.mod 0 3) (s.opa t) (s.opb t))) s
/-- CMPI (R124). -/
def execCmpi (t : Tpl) (s : State) : Out :=
  scalarOp 0x01C 1 t (fun s => allBits (condHolds (field t.mod 0 3) (s.opa t) (simm t))) s
/-- LI (R126). -/
def execLi (t : Tpl) (s : State) : Out := scalarOp 0x01D 1 t (fun _ => simm t) s
/-- LI_HI (R126). -/
def execLiHi (t : Tpl) (s : State) : Out :=
  scalarOp 0x01D 1 t (fun s => t.imm ++ (s.opa t).setWidth 32) s
/-- MOV (R127). -/
def execMov (t : Tpl) (s : State) : Out := scalarOp 0x01E 1 t (fun s => s.opa t) s

/-! ## Branches (R128-R130) -/

/-- The offset target: the branch's own address plus 4 sext(IMM) (R128). The address of a long-immediate form is that
of its first word. -/
def branchTarget (t : Tpl) (s : State) : W64 := s.curStrm.pc + (simm t <<< 2)

/-- Taken, or annulling when the form nullifies (R60, R128). -/
def branchIf (n taken : Bool) (target : W64) : Branch :=
  if taken then .taken target else if n then .nullify else .seq

/-- BR (R129). -/
def execBr (t : Tpl) (s : State) : Out :=
  let taken := s.guard0 t && condHolds (field t.mod 1 3) (s.opa t) (s.opb t)
  issueBranch 0x028 t (branchIf (bit t.mod 0) taken (branchTarget t s)) false id s

/-- JMP (R129). -/
def execJmp (t : Tpl) (s : State) : Out :=
  issueBranch 0x029 t (branchIf (bit t.mod 0) (s.guard0 t) (branchTarget t s)) false id s

/-- CALL (R129): LNK takes the address of the first word after the second delay slot: the word after the call form plus
two words (log entry 10). -/
def execCall (t : Tpl) (s : State) : Out :=
  let e := s.cur.strm
  let link : W64 := s.curStrm.pc + BitVec.ofNat 64 (4 * s.cur.words + 8)
  issueBranch 0x02A t (branchIf false (s.guard0 t) (branchTarget t s)) false
    (fun s => if s.guard0 t then s.updCur fun k => k.addPend e (.lnk e) 1 (.word link) else s) s

/-- RET (R129). -/
def execRet (t : Tpl) (s : State) : Out :=
  issueBranch 0x02B t (branchIf false (s.guard0 t) s.curStrm.lnk) false id s

/-- JR (R129). -/
def execJr (t : Tpl) (s : State) : Out :=
  issueBranch 0x02C t (branchIf false (s.guard0 t) (s.ea t)) false id s

/-- LOOP (R53, R130). -/
def execLoop (t : Tpl) (s : State) : Out :=
  let g := s.guard0 t
  let count := s.opa t - 1
  issueBranch 0x02D t (branchIf (bit t.mod 0) (g && count != 0) (branchTarget t s)) true
    (fun s => if g then s.landWord t.dst 1 count else s) s

/-! ## Rings and format words (R36, R37, R136, R137) -/

/-- Ring 0 or ring 1 of a core. -/
def Core.ring (k : Core) (n : Nat) : Ring := if n = 0 then k.ring0 else k.ring1

/-- Change ring `n`. -/
def Core.updRing (k : Core) (n : Nat) (f : Ring → Ring) : Core :=
  if n = 0 then { k with ring0 := f k.ring0 } else { k with ring1 := f k.ring1 }

/-- The architectural depth of queue `q` of the pool (R24, R330). -/
def Job.archDepth (j : Job) (q : Nat) : Nat :=
  match q with
  | 0 | 1 | 2 => 16
  | 3 => 4 <<< nbits j.rings 0 2
  | 4 => 4 <<< nbits j.rings 2 2
  | _ => 8

/-- The effective depth of queue `q` (R330). -/
def Job.depth (j : Job) (q : Nat) : Nat := Nat.min (field j.qpcap (8 * q) 8) (j.archDepth q)

/-- Entries of queue `q` (R330); a place that a pop of this engine cycle frees in a ring is not yet free (R37). -/
def Core.queueLen (k : Core) (q : Nat) : Nat :=
  match q with
  | 0 => k.mx.queue.length
  | 1 => k.cx.queue.length
  | 2 => k.fmtq.length + k.fmtqNew.length
  | 3 => k.ring0.start + k.ring0.pushes
  | 4 => k.ring1.start + k.ring1.pushes
  | _ => k.tilesOut.length

/-- Entries of queue `q` that stand in the pool: those held, less those spilled (R331). -/
def Core.poolCount (k : Core) (q : Nat) : Nat := k.queueLen q - k.spilled.getD q 0

/-- Entries of the pool of 128 that are held or reserved by minimums (R330, R331). -/
def Core.poolUsed (k : Core) : Nat :=
  ((List.range 6).map fun i => Nat.max (k.poolCount i) (field k.theJob.qpmin (8 * i) 8)).foldl (· + ·) 0

/-- Whether queue `q`, holding `count` entries against its depth, finds a place: below its minimum always, otherwise
when an unreserved entry of the pool is free (R330, R331). -/
def Core.roomFor (k : Core) (q count : Nat) : Bool :=
  count < k.theJob.depth q && (k.poolCount q < field k.theJob.qpmin (8 * q) 8 || k.poolUsed < 128)

/-- The core notes that a word holds on queue `q` for want of a pool entry, not of depth (R331). -/
def State.notePool (s : State) (q count : Nat) : State :=
  s.updCur fun k => { k with poolHeld := k.poolHeld || decide (count < k.theJob.depth q) }

/-- A word waits for a place in queue `q` and its stream with it (R37, R200, R251). -/
def State.blockFull (s : State) (q count : Nat) : State := (s.notePool q count).blockWord

/-- A word waits for a place in queue `q` and holds the engine cycle (R58). -/
def State.holdFull (s : State) (q count : Nat) : State := (s.notePool q count).holdCycle

/-- Whether context `e` produces ring `n`: CL ring 0, CC ring 1 (R37). -/
def producesRing (e : StreamId) (n : Nat) : Bool := (e == .cl && n == 0) || (e == .cc && n == 1)

/-- Whether context `e` consumes ring `n`: CC ring 0, CS ring 1 (R37). -/
def consumesRing (e : StreamId) (n : Nat) : Bool := (e == .cc && n == 0) || (e == .cs && n == 1)

/-- The ring an instruction names (R136). -/
def ringNum (t : Tpl) : Nat := field t.mod 0 1

/-- Set one WARN bit of the issuing stream. -/
def State.warnBit (s : State) (b : WarnBit) : State := s.warn (warnIf true b)

/-- RPUSH (R37, R136): places freed in this engine cycle are not yet free. -/
def execRpush (t : Tpl) (s : State) : Out :=
  let n := ringNum t
  let r := s.curCore.ring n
  if s.guard0 t && producesRing s.cur.strm n && !s.curCore.roomFor (3 + n) (r.start + r.pushes) then
    .next (s.blockFull (3 + n) (r.start + r.pushes))
  else
    issue 0x038 t (fun s =>
      if producesRing s.cur.strm n then
        s.updCur fun k => k.updRing n fun r => { r with q := r.q ++ [s.opa t], pushes := r.pushes + 1 }
      else s.warnBit .ringdir) s

/-- Whether a pop or peek of ring `n` must wait: entries pushed in this engine cycle are not yet there (R37). -/
def ringEmpty (s : State) (n : Nat) : Bool :=
  let r := s.curCore.ring n
  r.start ≤ r.pops

/-- RPOP (R37, R136). -/
def execRpop (t : Tpl) (s : State) : Out :=
  let n := ringNum t
  if s.guard0 t && consumesRing s.cur.strm n && ringEmpty s n then .next s.blockWord
  else
    issue 0x039 t (fun s =>
      if consumesRing s.cur.strm n then
        (s.landWord t.dst 1 ((s.curCore.ring n).q.headD 0)).updCur fun k =>
          k.updRing n fun r => { r with q := r.q.drop 1, pops := r.pops + 1 }
      else (s.landWord t.dst 1 0).warnBit .ringdir) s

/-- RPEEK (R37, R136). -/
def execRpeek (t : Tpl) (s : State) : Out :=
  let n := ringNum t
  if s.guard0 t && consumesRing s.cur.strm n && ringEmpty s n then .next s.blockWord
  else
    issue 0x03A t (fun s =>
      if consumesRing s.cur.strm n then s.landWord t.dst 1 ((s.curCore.ring n).q.headD 0)
      else (s.landWord t.dst 1 0).warnBit .ringdir) s

/-- RLEVEL (R136): the level at the start of the issue cycle. -/
def execRlevel (t : Tpl) (s : State) : Out :=
  scalarOp 0x03B 1 t (fun s => BitVec.ofNat 64 (s.curCore.ring (ringNum t)).start) s

/-- FPUSH (R58, R137): a full format queue holds the whole engine cycle. -/
def execFpush (t : Tpl) (s : State) : Out :=
  if s.guard0 t && !s.curCore.roomFor 2 (s.curCore.queueLen 2) then .next (s.holdFull 2 (s.curCore.queueLen 2))
  else issue 0x03C t (fun s => s.updCur fun k => { k with fmtqNew := k.fmtqNew ++ [s.opa t] }) s

/-! ## Work identifiers and claims (R26, R29, R138, R139) -/

/-- Field `i` of a WID under the field widths (R26). -/
def widField (j : Job) (w : W64) (i : Nat) : W64 :=
  if j.nfield ≤ i then 0
  else BitVec.ofNat 64 (nbits w.toNat ((j.fw.take i).foldl (· + ·) 0) (j.fw.getD i 0))

/-- The value `wid` selects (R138). -/
def widValue (s : State) (sel : Nat) : W64 :=
  let k := s.curCore
  let j := k.theJob
  let p := s.part j.part
  let cl := clusterOf s.cur.core
  if sel ≤ 5 then widField j k.wid sel
  else match sel with
    | 6 => k.range.lo0
    | 7 => j.header
    | 8 => k.range.hi0
    | 9 => k.range.grain
    | 10 => BitVec.ofNat 64 (s.cur.core % 8)
    | 11 => BitVec.ofNat 64 (cl % 16 - p.ox)
    | 12 => BitVec.ofNat 64 (cl / 16 - p.oy)
    | 13 => BitVec.ofNat 64 j.nfield
    | 14 => BitVec.ofNat 64 ((p.wm1 + 1) * 256 + (p.hm1 + 1))
    | _ => 0

/-- WID (R138). -/
def execWid (t : Tpl) (s : State) : Out := scalarOp 0x040 1 t (fun s => widValue s (field t.mod 0 4)) s

/-- The claim of R29: what `rclaim` returns and the slot it leaves. -/
def claim (r : RangeSlot) : W64 × W64 × RangeSlot :=
  if r.hi.toNat ≤ r.lo.toNat then (r.hi, r.hi, r)
  else
    let se := BitVec.ofNat 64 (Nat.min (r.lo.toNat + r.grain.toNat) r.hi.toNat)
    (r.lo, se, { r with lo := se })

/-- RCLAIM (R29, R30, R139): sd and se land after 4 cycles, and a non-empty claim sets WID with them. -/
def execRclaim (t : Tpl) (s : State) : Out :=
  issue 0x041 t (fun s =>
    let (sd, se, r) := claim s.curCore.range
    let s := s.updCur fun k => { k with range := r }
    let s := (s.landWord t.dst 4 sd).landWord t.sa 4 se
    if sd = se then s else s.updCur fun k => k.addPend s.cur.strm .wid 4 (.word sd)) s

/-! ## Timer, counters, warnings (R140-R143) -/

/-- Set the stream timer (R140). -/
def setTimer (v : W64) (s : State) : State := s.updCurStrm fun st => { st with tcmp := v, armed := true }

/-- TSUB (R140). -/
def execTsub (t : Tpl) (s : State) : Out := issue 0x042 t (fun s => setTimer (s.ea t) s) s
/-- TSUB_REL (R140). -/
def execTsubRel (t : Tpl) (s : State) : Out :=
  issue 0x042 t (fun s => setTimer (BitVec.ofNat 64 s.gtc + s.ea t) s) s
/-- TSUB_OFF (R140). -/
def execTsubOff (t : Tpl) (s : State) : Out :=
  issue 0x042 t (fun s => s.updCurStrm fun st => { st with armed := false }) s

/-- RDGTC (R142). Every reader of GTC sees the one count of State: readers of the model never differ, where R4 allows them up to 2 ticks (log
entry 92). -/
def execRdgtc (t : Tpl) (s : State) : Out := scalarOp 0x043 1 t (fun s => BitVec.ofNat 64 s.gtc) s
/-- RDSCNT (R142). -/
def execRdscnt (t : Tpl) (s : State) : Out := scalarOp 0x044 1 t (fun s => BitVec.ofNat 64 (s.gtc / 4)) s
/-- RDVC (R142): in handler mode, the recorded VCYC (R328). -/
def execRdvc (t : Tpl) (s : State) : Out := scalarOp 0x045 1 t (fun s => BitVec.ofNat 64 s.curCore.vcyc) s

/-- The streams that MOD[2:0] of `rdwarn` and `warnclr` selects (R143). -/
def warnStreams (t : Tpl) (own : StreamId) : List StreamId :=
  match field t.mod 0 3 with
  | 6 => [own]
  | 7 => [.cl, .cc, .cs, .vx, .mx, .cx]
  | n => ((StreamId.ofCode? n).map fun e => [e]).getD []

/-- RDWARN (R143): WARN at the start of the issue cycle. -/
def execRdwarn (t : Tpl) (s : State) : Out :=
  scalarOp 0x046 1 t (fun s =>
    (warnStreams t s.cur.strm).foldl (fun w e => w ||| (s.curCore.strm e).warn) 0) s

/-- WARNCLR (R143): takes effect at the end of the issue cycle. -/
def execWarnclr (t : Tpl) (s : State) : Out :=
  issue 0x047 t (fun s =>
    let m := s.opa t
    s.updCur fun k => (warnStreams t s.cur.strm).foldl
      (fun k e => k.updStrm e fun st => { st with warnClr := st.warnClr ||| m }) k) s

/-! ## Rendezvous and no operation (R34, R145) -/

/-- `rdv` ends the issuing stream and empties its staging buffer (R34, R75, R145). -/
def endStream (s : State) : State := s.updCurStrm fun st => { st with ended := true, stage := none }

/-- NOP (R145). -/
def execNop (t : Tpl) (s : State) : Out := issue 0x07E t id s
/-- RDV (R145). -/
def execRdv (t : Tpl) (s : State) : Out := issue 0x07F t endStream s

end Sys2Proof.Machine
end

