-- ==== Sys2Proof/Machine/Faults.lean ====
section
/-! DEFINITION. Raising a fault, a trap cause and a rollback (R396, R401, R327, R389). A fault of the spec raises the
partition's halt line; the machine goes on to the next state. -/

namespace Sys2Proof.Machine

/-- Fault codes (R401). -/
inductive FaultCode where
  | fetchAlignment | dataAlignment | translation | accessViolation | scratchpadRange | streamStall | templateParity
  | formatInvalid | formatUnderflow | scheduleMiss | pairRoute | tileInvalid | nmvPlacement | copyInvalid
  | barrierOverrun | carveInvalid | doubleTrap | unhandledTrap | inputWrite | machineCheck
  deriving DecidableEq, Repr

/-- The CODE of a fault (R401). -/
def FaultCode.code : FaultCode → Nat
  | .fetchAlignment => 0x01 | .dataAlignment => 0x02 | .translation => 0x03 | .accessViolation => 0x04
  | .scratchpadRange => 0x05 | .streamStall => 0x06 | .templateParity => 0x07 | .formatInvalid => 0x08
  | .formatUnderflow => 0x09 | .scheduleMiss => 0x0A | .pairRoute => 0x0B | .tileInvalid => 0x0C
  | .nmvPlacement => 0x0D | .copyInvalid => 0x0E | .barrierOverrun => 0x0F | .carveInvalid => 0x10
  | .doubleTrap => 0x11 | .unhandledTrap => 0x12 | .inputWrite => 0x13 | .machineCheck => 0x14

/-- A fault as it is raised: code, address and details (R400, R401). -/
structure FaultInfo where
  code : FaultCode
  addr : W64 := 0
  det1 : W64 := 0
  det2 : W64 := 0
  /-- The target that refused the request, which counts it (R335). -/
  target : Option Nat := none
  deriving DecidableEq, Repr

/-! ## Source numbers (R16, R17) -/

/-- The C-die of a cluster (R10). -/
def dieOf (cl : Nat) : Nat := 4 * (cl / 16 / 2) + cl % 16 / 4

/-- The local index of a cluster on its die (R10). -/
def localCluster (cl : Nat) : Nat := 4 * (cl / 16 % 2) + cl % 4

/-- Source number of sub-unit `e` of core `c` (R17). -/
def coreSource (c e : Nat) : Nat := dieOf (clusterOf c) * 4096 + localCluster (clusterOf c) * 64 + (c % 8) * 8 + e

/-- Source number of a cluster's sequencer, converter, bucket and barriers (R17). -/
def clusterSource (cl : Nat) : Nat := dieOf cl * 4096 + (24 + localCluster cl) * 64

/-! ## Faults -/

/-- Halt state of partition `p`. -/
def State.halt (s : State) (p : Nat) : Halt := sget {} s.halts p

/-- Change the halt state of partition `p`. -/
def State.updHalt (s : State) (p : Nat) (f : Halt → Halt) : State :=
  { s with halts := sinsert s.halts p (f (s.halt p)) }

/-- Whether a unit of a partition has received a pre-emption request that is still pending (R405, R406). -/
def State.unitPreempted (s : State) (p unit : Nat) : Bool := s.cuffs.any fun f => f.part == p && !f.sends.contains unit

/-- Whether core `c` has received a pre-emption request that is still pending (R405, R408). -/
def State.preemptPending (s : State) (c : Nat) : Bool := (s.core c).job.isSome && s.unitPreempted (s.core c).theJob.part c

/-- Whether the engines of core `c` start nothing more: the halt line, or a pre-emption request (R397, R405). -/
def State.enginesHeld (s : State) (c : Nat) : Bool := (s.halt (s.core c).theJob.part).stops || s.preemptPending c

/-- Whether core `c` has stopped altogether for a pre-emption: a full save, or a save that is done (R407, R411). -/
def State.coreParked (s : State) (c : Nat) : Bool := s.cuffs.any fun f => f.full.contains c || f.saved.contains c

/-- Raise the halt line of a partition (R396); a line already raised keeps its stamp. -/
def State.raiseLine (s : State) (p : Nat) : State :=
  s.updHalt p fun h => if h.raised then h else { h with raised := true, cleared := false, gtc := s.gtc, complete := false, opened := false, primary := none, stopped := [] }

/-- A target counts a request that it has refused (R335). -/
def State.countDenied (s : State) (unit : Option Nat) : State :=
  match unit with
  | some u => { s with mem := { s.mem with denials := supd 0 s.mem.denials u (· + 1) } }
  | none => s

/-- Raise a fault with a record (R396, R399): the line rises and the record waits to be written. -/
def State.raiseRecord (s : State) (p : Nat) (r : StopRec) : State :=
  ((s.countDenied r.denier).raiseLine p).updHalt p fun h => { h with faults := h.faults ++ [r] }

/-- The record of a fault of stream `e` of core `c` (R400). -/
def faultRecord (s : State) (c : Nat) (e : StreamId) (f : FaultInfo) : StopRec :=
  let k := s.core c
  { src := coreSource c e.code, code := f.code.code, gtc := s.gtc, ctag := k.theJob.ctag, node := k.theJob.node,
    pc := (k.strm e).pc, addr := f.addr, det1 := f.det1, det2 := f.det2, denier := f.target
    time := if e.isControl ∨ e = .vx then BitVec.ofNat 64 k.vcyc else BitVec.ofNat 64 k.age }

/-- A fault of stream `e` of core `c`: its context halts, and the stream issues nothing more in this cycle. -/
def State.fault (s : State) (c : Nat) (e : StreamId) (f : FaultInfo) : State :=
  (s.raiseRecord (s.core c).theJob.part (faultRecord s c e f)).updStrm c e fun st => { st with trapped := true }

/-- A fault of the word being issued: it does not issue (R80, R133). -/
def State.faultCur (s : State) (f : FaultInfo) : State := s.fault s.cur.core s.cur.strm f

/-! ## Trap causes -/

/-- Trap causes, by their TCAUSE bits (R326). -/
inductive TrapCause where
  | user | timer | counter | illegal | privileged | sysc
  deriving DecidableEq, Repr

/-- The CAUSE bit of a trap (R326). -/
def TrapCause.bitPos : TrapCause → Nat
  | .user => 0 | .timer => 1 | .counter => 2 | .illegal => 3 | .privileged => 4 | .sysc => 5

/-- Record a synchronous cause of stream `e` of core `c` (R327); its stream issues nothing more in this cycle, and the
trap is taken between engine cycles (R62). -/
def State.syncCause (s : State) (c : Nat) (e : StreamId) (cause : TrapCause) (code : W32) : State :=
  (s.updCore c fun k =>
    { k with
      trapBits := k.trapBits ||| 2 ^ cause.bitPos
      trapCode := if k.trapSync then k.trapCode else code
      trapStrm := if k.trapSync then k.trapStrm else e.code
      trapSync := true }).updStrm c e fun st => { st with trapped := true }

/-- Record an asynchronous cause (R222, R327): CODE and STRM come from a synchronous cause when there is one. -/
def State.asyncCause (s : State) (c : Nat) (cause : TrapCause) (strm : Nat) (code : W32) : State :=
  s.updCore c fun k =>
    { k with
      trapBits := k.trapBits ||| 2 ^ cause.bitPos
      trapCode := if k.trapSync then k.trapCode else code
      trapStrm := if k.trapSync then k.trapStrm else strm }

/-- The issuing word raises the illegal-instruction trap: it does not issue (R80, R327). -/
def State.illegal (s : State) : State := s.syncCause s.cur.core s.cur.strm .illegal 0

/-- The issuing word raises the privileged-instruction trap (R80, R320). -/
def State.privileged (s : State) : State := s.syncCause s.cur.core s.cur.strm .privileged 0

/-- A node must roll back (R388, R389). -/
def State.rollback (s : State) (ctx : Nat) (node : W32) (cause : RollCause) : State :=
  if s.rollbacks.any fun r => r.1 == ctx && r.2.1 == node then s
  else { s with rollbacks := s.rollbacks ++ [(ctx, node, cause)] }

/-- The node of core `c` rolls back. -/
def State.rollbackCore (s : State) (c : Nat) (cause : RollCause) : State :=
  s.rollback (s.core c).theJob.ctx (s.core c).theJob.node cause

end Sys2Proof.Machine
end

