-- ==== Sys2Proof/Config.lean ====
section
/-! DEFINITION. What the spec leaves open: opaque constants without a body, so that nothing can be proved of a value of
theirs. Each is named in a row of the assumption log. -/

namespace Sys2Proof.Config

/-- The rounded result of a transcendental operation whose 192-bit enclosure does not decide the rounding, by an index of
the operation and operand (log entry 7). -/
opaque undecided : Nat → Nat

/-- A free choice among alternatives the spec allows, drawn with the model's counter (log entry 12). -/
opaque choice : Nat → Nat

/-- How many counts of SCNT after its acceptance the sequencer stamps the first `mma` of decomposed tile work, drawn with the model's
counter (log entry 100). -/
opaque tileStamp : Nat → Nat

/-- The set of L1 in which a line is placed, of so many sets (log entry 104). -/
opaque l1Set : Nat → Nat → Nat

/-- The LPDDR6 controller, of four, that serves a line (log entry 105). -/
opaque lpddrController : Nat → Nat

/-- How a peer answers a request for a line, drawn with the model's counter: refused, or with poison marks (log entry 102). -/
opaque peerAnswer : Nat → Nat → Nat

/-- A free byte value, drawn with the model's counter (log entry 12). -/
opaque freeByte : Nat → BitVec 8

/-- A free 64-bit value, drawn with the model's counter (log entry 12). -/
opaque freeWord : Nat → BitVec 64

/-- Whether a scale-up link is wired to reach a device: link, device (log entry 42). -/
opaque linkReaches : Nat → Nat → Bool

/-- Whether a signature verifies: algorithm (0 Ed25519, 1 ML-DSA-65), key, message, signature (log entry 43). -/
opaque verifies : Nat → List (BitVec 8) → List (BitVec 8) → List (BitVec 8) → Bool

/-- Byte of the device's signature over a message: algorithm, boot, message, index (log entry 43). -/
opaque signature : Nat → Nat → List (BitVec 8) → Nat → BitVec 8

/-- Whether a firmware image's digest matches and its two signatures verify (log entry 43). -/
opaque imageGood : List (BitVec 8) → Bool

/-- Digest, security version and version of a firmware image, by index 0, 1, 2 (log entry 43). -/
opaque imageField : List (BitVec 8) → Nat → Nat

/-- The code that the TAP's IDCODE instruction shifts out (log entry 45). -/
opaque idcode : Nat → BitVec 32

end Sys2Proof.Config
end

