-- ==== Sys2Proof/Machine/Transcend.lean ====
section
/-! DEFINITION. The exact values that `vexp2`, `vlog2` and `vtanh` round (R152), as enclosures of 260 fraction bits cut
from 320-bit fixed-point sums. Where an enclosure does not decide the cut, the code is a free value (log entry 7). -/

namespace Sys2Proof.Machine

/-- Fraction bits of the fixed-point sums. -/
def fxBits : Nat := 320

/-- One, in fixed point. -/
def fxOne : Nat := 2 ^ fxBits

/-- Product in fixed point, cut. -/
def fxMul (a b : Nat) : Nat := (a * b) >>> fxBits

/-- `sum over k < n of z^(2k+1) / (2k+1)`, from term `k` with power `p = z^(2k+1)`. -/
def atanhSum (z2 : Nat) : Nat → Nat → Nat → Nat
  | 0, _, _ => 0
  | n + 1, k, p => p / (2 * k + 1) + atanhSum z2 n (k + 1) (fxMul p z2)

/-- `atanh z` for `0 ≤ z ≤ 1/3`. -/
def fxAtanh (z : Nat) : Nat := atanhSum (fxMul z z) 110 0 z

/-- `ln 2`, as `2 atanh (1/3)`. -/
def fxLn2 : Nat := 2 * fxAtanh (fxOne / 3)

/-- `sum over k < n of y^k / k!`, from term `t`. -/
def expSum (y : Nat) : Nat → Nat → Nat → Nat
  | 0, _, _ => 0
  | n + 1, k, t => t + expSum y n (k + 1) (fxMul t y / (k + 1))

/-- `exp y` for `0 ≤ y < 1`. -/
def fxExp (y : Nat) : Nat := expSum y 80 0 fxOne

/-- The error every sum above stays within, in units of the last place. -/
def fxErr : Nat := 2 ^ 20

/-- The number `v * 2^(e - fxBits)` cut at 260 fraction bits, when the enclosure decides the cut. -/
def fxCut (neg : Bool) (v : Nat) (e : Int) : Option Num :=
  let lo := (v - fxErr) >>> 60
  if lo = (v + fxErr) >>> 60 then some (.fin neg lo (e - 260) true) else none

/-- The integer part and the fixed-point fraction of `m * 2^e`, fractions past 320 bits cut. -/
def fxSplit (m : Nat) (e : Int) : Nat × Nat :=
  if 0 ≤ e then (m <<< e.toNat, 0)
  else
    let k := (-e).toNat
    (m >>> k, if k ≤ fxBits then (m % 2 ^ k) <<< (fxBits - k) else (m % 2 ^ k) >>> (k - fxBits))

/-- 2^x (R152): exact for an integer, an enclosure otherwise. Values past the range of every format are cut to ±512. -/
def exp2Num (x : Num) : Option Num :=
  match x with
  | .nan => some .nan
  | .inf neg => some (if neg then .fin false 0 0 false else .inf false)
  | .fin neg m e _ =>
    if m = 0 then some (.fin false 1 0 false)
    else
      let top := (bitLen m : Int) + e
      if 9 < top then some (.fin false 1 (if neg then -512 else 512) true)
      else if top < -250 then
        some (if neg then .fin false (2 ^ 240 - 1) (-240) true else .fin false (2 ^ 240) (-240) true)
      else
        let (n, f) := fxSplit m e
        let exact := if 0 ≤ e then true else decide (m % 2 ^ (-e).toNat = 0)
        if exact then some (.fin false 1 (if neg then -(n : Int) else n) false)
        else if neg then fxCut false (fxExp (fxMul (fxOne - f) fxLn2)) (-(n : Int) - 1)
        else fxCut false (fxExp (fxMul f fxLn2)) n

/-- log2 x for `x ≥ 0` (R152): exact for a power of two, an enclosure otherwise. -/
def log2Num (x : Num) : Option Num :=
  match x with
  | .nan => some .nan
  | .inf neg => some (if neg then .nan else .inf false)
  | .fin neg m e _ =>
    if m = 0 then some (.inf true)
    else if neg then some .nan
    else
      let n : Int := (bitLen m : Int) - 1 + e
      if m = 2 ^ (bitLen m - 1) then some (Num.ofInt n)
      else
        let t := (m <<< fxBits) >>> (bitLen m - 1)
        let z := ((t - fxOne) <<< fxBits) / (t + fxOne)
        let fr := ((2 * fxAtanh z) <<< fxBits) / fxLn2
        if 0 ≤ n then fxCut false (n.toNat * fxOne + fr) 0 else fxCut true ((-n).toNat * fxOne - fr) 0

/-- tanh x (R152). A tiny input lies just inside its own magnitude, a large one just inside 1. -/
def tanhNum (x : Num) : Option Num :=
  match x with
  | .nan => some .nan
  | .inf neg => some (.fin neg 1 0 false)
  | .fin neg m e _ =>
    if m = 0 then some (.fin neg 0 0 false)
    else
      let top := (bitLen m : Int) + e
      if top < -40 then some (.fin neg (m * 2 ^ 40 - 1) (e - 40) true)
      else if 6 < top then some (.fin neg (2 ^ 240 - 1) (-240) true)
      else
        let (i, f) := fxSplit (2 * m) e
        let y := i * fxOne + f
        let n := y / fxLn2
        let ex := fxExp (y % fxLn2)
        let d := ((fxOne <<< fxBits) / ex) >>> n
        fxCut neg (((fxOne - d) <<< fxBits) / (fxOne + d)) 0

end Sys2Proof.Machine
end

