-- ==== Sys2Proof/Machine/Lanes.lean ====
section
/-! DEFINITION. Element types, lane loops and the arithmetic of one vector element (R147-R165). -/

namespace Sys2Proof.Machine

/-! ## Lanes and elements (R89, R148) -/

/-- Bits of an element of type `ty` (R148). -/
def vwidth (ty : Nat) : Nat :=
  match ty with
  | 1 | 2 | 5 => 16
  | 6 => 8
  | _ => 32

/-- The float format of a type, if it is one (R148). -/
def vfloat? (ty : Nat) : Option Fmt :=
  match ty with
  | 0 => some .fp32 | 1 => some .bf16 | 2 => some .fp16
  | _ => none

/-- The range of an integer type (R148). -/
def vintRange (ty : Nat) : Int × Int :=
  match ty with
  | 3 => (-2147483648, 2147483647)
  | 4 => (0, 4294967295)
  | 5 => (-32768, 32767)
  | _ => (-128, 127)

/-- An element of an integer type as an integer. -/
def vint (ty c : Nat) : Int := if ty = 4 then ((c % 2 ^ 32 : Nat) : Int) else sx (vwidth ty) c

/-- An exact integer result wrapped or clamped (R149). -/
def vintOut (ty : Nat) (sat : Bool) (x : Int) : Nat :=
  narrow (vwidth ty) (if sat then clampInt (vintRange ty).1 (vintRange ty).2 x else x)

/-- Lane `i` of a vector (R106). -/
def lane (v : Vec) (i : Nat) : Nat := elem v 32 i

/-- The vector with lanes `f i`. -/
def vecOf (f : Nat → Nat) : Vec := packElems 2048 32 f 64

/-- The vector whose 256 bytes are `f i`. -/
def vecOfBytes (f : Nat → Nat) : Vec := packElems 2048 8 f 256

/-- Lanes of `new` where the guard is true, of `old` elsewhere (R147). -/
def mergeLanes (g : W64) (old new : Vec) : Vec := vecOf fun i => if bit g i then lane new i else lane old i

/-- One draw of generator `i`: the byte and the bank after it (R104). -/
def srDraw (bank : Sparse W32) (i : Nat) : Nat × Sparse W32 :=
  let x := srNext (sget 0 bank i)
  (srByte x, sset 0 bank i x)

/-- The elements of one lane, each with its own draw when `sr` (R105): element `j` of the `n` of width `w`. -/
def laneElems (sr : Bool) (i n w : Nat) (f : Nat → Nat → Nat) (bank : Sparse W32) : Nat × Sparse W32 :=
  foldUpTo n (fun acc j =>
    let (d, b) := if sr then srDraw acc.2 i else (0, acc.2)
    (acc.1 + (f (i * n + j) d % 2 ^ w) <<< (w * j), b)) (0, bank)

/-- Elements `f e draw` in the lanes whose guard is true, the old lanes elsewhere, and the generator bank after the
draws (R105, R147). -/
def mapLanes (sr : Bool) (g : W64) (w : Nat) (old : Vec) (bank : Sparse W32) (f : Nat → Nat → Nat) :
    Vec × Sparse W32 :=
  let r := foldUpTo 64 (fun acc i =>
    let (x, b) := if bit g i then laneElems sr i (32 / w) w f acc.2 else (lane old i, acc.2)
    (acc.1 + x <<< (32 * i), b)) (0, bank)
  (BitVec.ofNat 2048 r.1, r.2)

/-! ## One element (R149, R151, R152, R155) -/

/-- A float result rounded by R149: infinities are always present. -/
def fround (f : Fmt) (md : Rnd) (sat : Bool) (d : Nat) (x : Num) : Nat := (roundTo x f md sat true d).code

/-- The smaller or larger of two float codes: NaN if either is NaN, −0 below +0 (R151). -/
def fminmax (f : Fmt) (isMax : Bool) (a b : Nat) : Nat :=
  let x := decodeFmt f a true
  let y := decodeFmt f b true
  if x.isNaN || y.isNaN then f.nanCode
  else
    let less := x.lt y || (!y.lt x && x.neg? && !y.neg?)
    if less != isMax then a else b

/-- Binary and fused arithmetic by opcode (R151): 0x100 vadd to 0x109 vneg. -/
def velem (o ty : Nat) (md : Rnd) (sat : Bool) (d a b c : Nat) : Nat :=
  match vfloat? ty with
  | some f =>
    let x := decodeFmt f a true
    let y := decodeFmt f b true
    let z := decodeFmt f c true
    let rdn := md == .rdn
    match o with
    | 0x100 => fround f md sat d (x.add rdn y)
    | 0x101 => fround f md sat d (x.add rdn y.negate)
    | 0x102 => fround f md sat d (x.mul y)
    | 0x103 => fround f md sat d ((x.mul y).add rdn z)
    | 0x104 => fround f md sat d ((x.mul y).add rdn z.negate)
    | 0x105 => fround f md sat d ((x.mul y).negate.add rdn z)
    | 0x106 => fminmax f false a b
    | 0x107 => fminmax f true a b
    | 0x108 => if x.isNaN then f.nanCode else a % 2 ^ (f.width - 1)
    | _ => if x.isNaN then f.nanCode else (a ^^^ 2 ^ (f.width - 1)) % 2 ^ f.width
  | none =>
    let x := vint ty a
    let y := vint ty b
    let z := vint ty c
    vintOut ty sat (match o with
      | 0x100 => x + y
      | 0x101 => x - y
      | 0x102 => x * y
      | 0x103 => x * y + z
      | 0x104 => x * y - z
      | 0x105 => -(x * y) + z
      | 0x106 => if x ≤ y then x else y
      | 0x107 => if x ≤ y then y else x
      | 0x108 => x.natAbs
      | _ => -x)

/-- The exact value a transcendental rounds, or none where its enclosure does not decide it (R152). -/
def transNum (o : Nat) (x y : Num) : Option Num :=
  match o with
  | 0x10A => some ((Num.fin false 1 0 false).div x)
  | 0x10B =>
    match x with
    | .nan => some .nan
    | .inf neg => some (if neg then .nan else .fin false 0 0 false)
    | .fin neg m e st => if m = 0 then some (.inf neg) else if neg then some .nan else some (Num.rsqrt (.fin neg m e st))
  | 0x10C =>
    match x with
    | .nan => some .nan
    | .inf neg => some (if neg then .nan else .inf false)
    | .fin neg m e st => if m = 0 then some (.fin neg 0 0 false) else if neg then some .nan
      else some (Num.sqrt (.fin neg m e st))
  | 0x10D => some (x.div y)
  | 0x10E => exp2Num x
  | 0x10F => log2Num x
  | _ => tanhNum x

/-- The key of the free value that stands for a result whose rounding no enclosure decides: operation, format, rounding, saturation
and operand (log entry 7). -/
def undecidedKey (o : Nat) (f : Fmt) (md : Rnd) (sat : Bool) (a : Nat) : Nat :=
  let m := match md with
    | .rne => 0 | .rtz => 1 | .rup => 2 | .rdn => 3 | .sr => 4
  f.nanCode * 2 ^ 64 + o * 2 ^ 40 + m * 2 ^ 36 + (if sat then 2 ^ 35 else 0) + a

/-- A transcendental or quotient, correctly rounded (R152). -/
def vtrans (o : Nat) (f : Fmt) (md : Rnd) (sat : Bool) (a b : Nat) : Nat :=
  match transNum o (decodeFmt f a true) (decodeFmt f b true) with
  | some x => fround f md sat 0 x
  | none => Config.undecided (undecidedKey o f md sat a) % 2 ^ f.width

/-- A compare on one element (R155). -/
def vcond (cc ty a b : Nat) : Bool :=
  match vfloat? ty with
  | some f =>
    let x := decodeFmt f a true
    let y := decodeFmt f b true
    let uo := x.isNaN || y.isNaN
    match cc with
    | 0 => x.eq y
    | 1 => uo || !x.eq y
    | 2 => x.lt y
    | 3 => !uo && !x.lt y
    | 4 => uo
    | 5 => !uo
    | 6 => !uo && !y.lt x
    | _ => y.lt x
  | none =>
    let x := vint ty a
    let y := vint ty b
    match cc with
    | 0 => a == b
    | 1 => a != b
    | 2 => decide (x < y)
    | 3 => decide (y ≤ x)
    | 4 => decide (a < b)
    | 5 => decide (b ≤ a)
    | 6 => decide (x ≤ y)
    | _ => decide (y < x)

/-- A shift of one element of width `w` (R154): 0x11C vshl, 0x11D vshr, 0x11E vsra. -/
def vshift (o w a n : Nat) : Nat :=
  match o with
  | 0x11C => (a <<< n) % 2 ^ w
  | 0x11D => a >>> n
  | _ => narrow w (sx w a / (2 ^ n : Nat))

/-! ## Reductions (R163-R165) -/

/-- A running combination: exact for a sum of integers or an exact float sum, a code otherwise. -/
inductive RedVal where
  | int (x : Int)
  | num (x : Num)
  | code (c : Nat)
  deriving DecidableEq, Repr

/-- The operator of MOD[5:3]; 6 and 7 read as 0 (R163). -/
def redOp (t : Tpl) : Nat := if field t.mod 3 3 < 6 then field t.mod 3 3 else 0

/-- An element as a value to combine. -/
def redLift (op ty : Nat) (exact : Bool) (c : Nat) : RedVal :=
  if op = 0 then
    match vfloat? ty with
    | some f => if exact then .num (decodeFmt f c true) else .code c
    | none => .int (vint ty c)
  else .code c

/-- The identity of an operator (R163). -/
def redIdentity (op ty : Nat) : Nat :=
  let w := vwidth ty
  match op, vfloat? ty with
  | 0, some f => zeroCode f true
  | 0, none => 0
  | 1, some f => infCode f false
  | 1, none => narrow w (vintRange ty).2
  | 2, some f => infCode f true
  | 2, none => narrow w (vintRange ty).1
  | 3, _ => 2 ^ w - 1
  | _, _ => 0

/-- One combination (R163, R164). -/
def redCombine (op ty : Nat) (md : Rnd) (sat : Bool) (x y : RedVal) : RedVal :=
  match x, y with
  | .int a, .int b => .int (a + b)
  | .num a, .num b => .num (a.add (md == .rdn) b)
  | .code a, .code b =>
    .code (match op with
      | 0 => velem 0x100 ty md sat 0 a b 0
      | 1 => velem 0x106 ty md false 0 a b 0
      | 2 => velem 0x107 ty md false 0 a b 0
      | 3 => a &&& b
      | 4 => a ||| b
      | _ => a ^^^ b)
  | x, _ => x

/-- The code of a combination: an integer sum wraps or clamps once, an exact float sum rounds once (R164). -/
def redFinish (ty : Nat) (md : Rnd) (sat : Bool) : RedVal → Nat
  | .int x => vintOut ty sat x
  | .num x => match vfloat? ty with
    | some f => fround f md sat 0 x
    | none => 0
  | .code c => c

/-- One level of the pairwise tree (R164). -/
def redPairs (g : RedVal → RedVal → RedVal) : List RedVal → List RedVal
  | a :: b :: l => g a b :: redPairs g l
  | l => l

/-- The pairwise tree over at most `2^n` values (R164). -/
def redTree (g : RedVal → RedVal → RedVal) : Nat → List RedVal → List RedVal
  | 0, l => l
  | n + 1, l => redTree g n (redPairs g l)

/-- The prefixes of a segment (R165), exclusive or inclusive. -/
def scanFrom (g : RedVal → RedVal → RedVal) (excl : Bool) : RedVal → List RedVal → List RedVal
  | _, [] => []
  | acc, x :: l =>
    let acc' := g acc x
    (if excl then acc else acc') :: scanFrom g excl acc' l

/-- The elements of a register of type `ty`, lanes with a false guard replaced by the identity (R163). -/
def redElems (op ty : Nat) (exact : Bool) (g : W64) (v : Vec) : List RedVal :=
  let w := vwidth ty
  (List.range (2048 / w)).map fun e =>
    redLift op ty exact (if bit g (e * w / 32) then elem v w e else redIdentity op ty)

/-- A list cut into segments of `n`. -/
def segments {α : Type} (n k : Nat) (l : List α) : List (List α) := (List.range k).map fun i => (l.drop (i * n)).take n

/-- A vector from element codes of width `w`. -/
def vecOfElems (w : Nat) (l : List Nat) : Vec :=
  BitVec.ofNat 2048 (l.foldr (fun c acc => acc <<< w + c % 2 ^ w) 0)

end Sys2Proof.Machine
end

