-- ==== Sys2Proof/Machine/Mem.lean ====
section
/-! DEFINITION. Memory at its home: locations and homes (R247, R248), committed bytes and poison (R448-R450), versions and
what a core reads (R281), signatures and boards (R287-R290), incarnation and access checks (R334, R348), logs (R452). -/

namespace Sys2Proof.Machine

/-- Change the memory system. -/
def State.updMem (s : State) (f : Mem → Mem) : State := { s with mem := f s.mem }

/-- A draw of the free counter. -/
def State.drawn (s : State) : State := { s with free := s.free + 1 }

/-- A template is written anew, and its shadow with it (R68). -/
def State.freshTemplate (s : State) (c : Nat) (e : StreamId) (n : Nat) : State :=
  { s with mem := { s.mem with latent := s.mem.latent.filter fun l => l != .template c e n false && l != .template c e n true } }

/-! ## Locations and homes -/

/-- The DRAM location of a physical address: the stack-pinned address for HBM4E, the address itself for LPDDR6 (R248). -/
def locOf (pa : Nat) : Option Nat :=
  if pa < 2 ^ 40 then
    let c := pa >>> 12
    some (2 ^ 40 + (c % 16).xor ((c >>> 4) % 16) * 2 ^ 36 + ((c >>> 4) * 4096 + pa % 4096))
  else if pa < 2 ^ 42 then some pa
  else none

/-- The home of a location: L2 slice group 8 × die + group (R248). -/
def homeOf (loc : Nat) : Nat :=
  if loc < 2 ^ 41 then
    let off := loc % 2 ^ 36
    (loc >>> 36) % 16 / 2 * 8 + ((nbits off 7 3).xor (nbits off 10 3)).xor (nbits off 13 3)
  else (nbits loc 12 3).xor (nbits loc 15 3) * 8 + (nbits loc 7 3).xor (nbits loc 18 3)

/-- Where a physical address leads (R248, R460). -/
inductive Dest where
  | dram (loc : Nat)
  /-- A valid aperture: the device and the address there. -/
  | peer (dev addr : Nat)
  | registers
  | refused
  deriving DecidableEq, Repr

/-- Resolve a physical address (R248, R460). -/
def destOf (m : Mem) (pa : Nat) : Dest :=
  match locOf pa with
  | some l => .dram l
  | none =>
    if pa < 0x080000000000 then .registers
    else if pa < 0x100000000000 then
      match sfind m.aper ((pa - 0x080000000000) / 2 ^ 35) with
      | some a => if a.dev = m.devId then .refused else .peer a.dev (a.base + (pa - 0x080000000000) % 2 ^ 35)
      | none => .refused
    else .refused

/-- The line number that versions and L1 keep for a physical address: of the location, or of the address at a peer. -/
def lineOf (pa : Nat) : Nat := (locOf pa).getD pa / 128

/-! ## Committed bytes -/

/-- One committed byte. -/
def Mem.byte (m : Mem) (loc : Nat) : Byte := sget 0 m.bytes loc

/-- Write one committed byte. -/
def Mem.setByte (m : Mem) (loc : Nat) (b : Byte) : Mem := { m with bytes := sset 0 m.bytes loc b }

/-- A committed line. -/
def Mem.lineData (m : Mem) (line : Nat) : LineData :=
  BitVec.ofNat 1024 ((m.bytes.filter fun e => e.1 / 128 == line).foldl
    (fun a e => a + e.2.toNat <<< (8 * (e.1 % 128))) 0)

/-- The bytes of `data` under `mask`, put into `old`. -/
def mergeLine (old data : LineData) (mask : LineMask) : LineData :=
  let m := foldUpTo 128 (fun a i => if bit mask i then a ||| BitVec.ofNat 1024 (255 <<< (8 * i)) else a) (0 : LineData)
  (old &&& ~~~ m) ||| (data &&& m)

/-- The poison marks of a committed line's four sectors. -/
def Mem.linePoison (m : Mem) (line : Nat) : BitVec 4 :=
  ofBits 4 fun i => m.poison.contains (4 * line + i)

/-- Mark or clear one sector. -/
def Mem.setPoison (m : Mem) (sector : Nat) (p : Bool) : Mem :=
  { m with poison := if p then (if m.poison.contains sector then m.poison else m.poison ++ [sector])
                     else m.poison.filter (· != sector) }

/-- The mask bits of sector `i` of a line. -/
def sectorMask (mask : LineMask) (i : Nat) : Nat := nbits mask.toNat (32 * i) 32

/-- Sectors of a line that a masked write touches only in part and that are poisoned: each is a deferred error (R450). -/
def deferredSectors (mask : LineMask) (old : BitVec 4) : List Nat :=
  (List.range 4).filter fun i => bit old i && sectorMask mask i != 0 && sectorMask mask i != 2 ^ 32 - 1

/-- Poison of a line after a masked write that carries poison `new` (R450). -/
def mergePoison (mask : LineMask) (old new : BitVec 4) : BitVec 4 :=
  ofBits 4 fun i =>
    if sectorMask mask i = 0 then bit old i
    else if sectorMask mask i = 2 ^ 32 - 1 then bit new i
    else bit old i || bit new i

/-- Write bytes of a line into the committed version (R283, R450). -/
def Mem.writeLine (m : Mem) (line : Nat) (mask : LineMask) (data : LineData) (poison : BitVec 4) : Mem :=
  let p := mergePoison mask (m.linePoison line) poison
  let d := mergeLine (m.lineData line) data mask
  let m := { m with bytes := sreplace 0 m.bytes (128 * line) ((List.range 128).map fun i => byteAt d i) }
  foldUpTo 4 (fun m i => if sectorMask mask i = 0 then m else m.setPoison (4 * line + i) (bit p i)) m

/-! ## Error logs (R452) -/

/-- The source of a log entry packed with its kind (R452). -/
def logHead (kind src : Nat) (ctag : W16) (detail : Nat) : W64 :=
  BitVec.ofNat 64 (2 ^ 63 + kind <<< 56 + (src % 65536) <<< 40 + ctag.toNat <<< 24 + detail % 2 ^ 24)

/-- Append an entry to one log. -/
def State.pushLog (s : State) (key : Nat) (e : LogEnt) : State :=
  s.updMem fun m => { m with logs := supd [] m.logs key (· ++ [e]) }

/-- The context of a CTAG. -/
def ctagCtx (t : W16) : Nat := field t 6 10

/-- The current CTAG of a context. -/
def State.ctagOf (s : State) (c : Nat) : W16 := Sys2Proof.Machine.ctagOf c (s.ctx c).inc

/-- Whether a CTAG is the current one of its context. -/
def State.ctagCurrent (s : State) (t : W16) : Bool := (s.ctx (ctagCtx t)).valid && s.ctagOf (ctagCtx t) == t

/-- A device that a context sends a packet of fabric scope enters the context's fabric set (R356). -/
def State.joinFabric (s : State) (ctx dev : Nat) : State :=
  if (s.ctx ctx).fabset.contains dev then s else s.updCtx ctx fun x => { x with fabset := x.fabset ++ [dev] }

/-- A context reaches a physical address: at a peer, the device joins its fabric set. -/
def State.joinAt (s : State) (ctx pa : Nat) : State :=
  match destOf s.mem pa with
  | .peer d _ => s.joinFabric ctx d
  | _ => s

/-- Log an event: in the firmware log, and in the log of the manager of the context its CTAG names (R343). -/
def State.logEvent (s : State) (kind src : Nat) (ctag : Option W16) (detail : Nat) (d2 d3 : W64) : State :=
  let e : LogEnt := { d0 := logHead kind src (ctag.getD 0) detail, d1 := BitVec.ofNat 64 s.gtc, d2 := d2, d3 := d3 }
  let s := s.pushLog 1024 e
  match ctag with
  | some t => if (s.ctx (ctagCtx t)).valid then s.pushLog (s.ctx (ctagCtx t)).mgr e else s
  | none => s

/-- Source number of an L2 slice group (R17). -/
def sliceSource (g : Nat) : Nat := g / 8 * 4096 + (8 + g % 8) * 64

/-- Log the deferred errors of a masked write (R450). -/
def State.logDeferred (s : State) (line : Nat) (mask : LineMask) (old : BitVec 4) (ctag : W16) (core : Nat) : State :=
  (deferredSectors mask old).foldl
    (fun s i => s.logEvent 2 (sliceSource (homeOf (128 * line))) (some ctag) core (BitVec.ofNat 64 (128 * line + 32 * i)) 0) s

/-- Write bytes of a line at its memory device, logging deferred errors. -/
def State.dramLine (s : State) (line : Nat) (mask : LineMask) (data : LineData) (poison : BitVec 4) (ctag : W16) (core : Nat) : State :=
  (s.logDeferred line mask (s.mem.linePoison line) ctag core).updMem fun m => m.writeLine line mask data poison

/-! ## Packets to managers (R261) -/

/-- A 64-byte slot from fields given as offset, size and value (R261, R329). -/
def slotOf (fs : List (Nat × Nat × Nat)) : BitVec 512 :=
  BitVec.ofNat 512 (fs.foldl (fun a f => a + (f.2.2 % 256 ^ f.2.1) <<< (8 * f.1)) 0)

/-- Hand a packet to the queue server for the manager of context `ctx` (R261). -/
def State.notifyManager (s : State) (ctx : Nat) (slot : BitVec 512) : State :=
  s.updMem fun m => { m with svc := m.svc ++ [{ ctx := (s.ctx ctx).mgr, hdr := (s.ctx ctx).svcq, slot := slot }] }

/-- GTC [55:0] at 0x38 of a service packet. -/
def slotStamp (s : State) : Nat × Nat × Nat := (0x38, 7, s.gtc)

/-- The partition that owns the 2 MiB granule of an address in the page-ownership table, plus one; 0 for none (R451). Firmware
maintains the table and the spec does not say how: what a granule that the table does not list answers is a free value (log
entry 37). -/
def State.pageOwner (s : State) (pa : Nat) : Nat :=
  let own := sget 0 s.mem.owner (pa / 2 ^ 21)
  let p := if own = 0 then Config.choice s.free % 65 else own
  if p != 0 && (s.part (p - 1)).valid then p else 0

/-- A dirty line found uncorrectable when it leaves a cache (R451): logged as kind 0x04, and its manager is notified: the
manager of the owner tag's context, else of the page's owner, else nobody. The entry goes to that manager's log (R343). -/
def State.poisonedEviction (s : State) (line pa : Nat) (ctag : W16) (src : Nat) : State :=
  let slot := slotOf [(0, 1, 0x25), (2, 2, ctag.toNat), (8, 8, pa), slotStamp s]
  let own := s.pageOwner pa
  let route := if s.ctagCurrent ctag then 1 else if own != 0 then 2 else 3
  let dest := if route = 2 then (s.part (own - 1)).ctx else ctagCtx ctag
  let e : LogEnt :=
    { d0 := logHead 4 src (if route = 1 then ctag else 0) 0, d1 := BitVec.ofNat 64 s.gtc, d2 := BitVec.ofNat 64 pa, d3 := BitVec.ofNat 64 route }
  let s := (s.pushLog 1024 e).drawn
  let s := s.updMem fun m => { m with latent := m.latent.filter fun l =>
    match l with
    | .dirtyLine _ n | .l2Line n => n != line
    | _ => true }
  if route = 3 then s else (s.pushLog (s.ctx dest).mgr e).notifyManager dest slot

/-! ## L2 (R247, R349) -/

/-- Lines that the slice groups of one C-die hold: 64 MiB (R2, R247). -/
def l2DieLines : Nat := 524288

/-- The C-die of a line's home. -/
def l2Die (line : Nat) : Nat := homeOf (128 * line) / 8

/-- Whether L2 holds a line. -/
def Mem.l2Has (m : Mem) (line : Nat) : Bool := m.l2.any fun l => l.line == line

/-- A line leaves L2: a dirty one is written back to its memory device, in the sectors that are uncorrectable with the poison syndrome; which
those are is a free choice (R349, R451). -/
def State.l2Evict (s : State) (l : L2Line) : State :=
  let s := s.updMem fun m => { m with l2 := m.l2.erase l }
  match l.owner with
  | none => s
  | some tag =>
    let n := s.free
    let s := if s.mem.latent.contains (.l2Line l.line) then
        let bad := [0, 1, 2, 3].filter fun i => (Config.choice n % 15 + 1).testBit i
        (s.poisonedEviction l.line (128 * l.line) tag (sliceSource (homeOf (128 * l.line)))).updMem fun m =>
          bad.foldl (fun m i => m.setPoison (4 * l.line + i) true) m
      else s
    if 128 * l.line < 2 ^ 41 then
      s.updMem fun m => { m with bd := m.bd ++
        [{ stack := l.line / 2 ^ 29 % 16, port := l2Die l.line, tag := 8, kind := 1, len := 3, addr := l.line % 2 ^ 29 * 4, mask := 0, ctag := tag
           data := [], wb := true }] }
    else s

/-- Room in L2 for a line: where its C-die is full, a freely chosen line leaves. -/
def State.l2Room (s : State) (line : Nat) : State :=
  if s.mem.l2.length < l2DieLines then s
  else
    let own := s.mem.l2.filter fun l => l2Die l.line == l2Die line
    if own.length < l2DieLines then s
    else
      match own[Config.choice s.free % Nat.max 1 own.length]? with
      | some l => s.drawn.l2Evict l
      | none => s

/-- L2 holds a line; a write makes it dirty, with the writer's CTAG as its owner tag (R349). -/
def State.l2Put (s : State) (line : Nat) (owner : Option W16) : State :=
  if s.mem.l2Has line then
    if owner.isNone then s else s.updMem fun m => { m with l2 := mapIf (fun l => l.line == line) (fun l => { l with owner := owner }) m.l2 }
  else (s.l2Room line).updMem fun m => { m with l2 := m.l2 ++ [{ line := line, owner := owner }] }

/-- A freely chosen line may leave L2 at any time. -/
def State.l2Shed (s : State) : State :=
  if Config.choice s.free % 2 = 0 then s.drawn
  else
    match s.mem.l2[Config.choice s.free / 2 % Nat.max 1 s.mem.l2.length]? with
    | some l => s.drawn.l2Evict l
    | none => s.drawn

/-- Write bytes of a line into the committed version at its home, logging deferred errors (R283, R349, R450). -/
def State.commitLine (s : State) (line : Nat) (mask : LineMask) (data : LineData) (poison : BitVec 4) (ctag : W16)
    (core : Nat) : State :=
  (s.l2Put line (some ctag)).dramLine line mask data poison ctag core

/-! ## Versions (R281) -/

/-- A version laid over a line. -/
def overlay (acc : LineData × BitVec 4) (v : Version) : LineData × BitVec 4 :=
  (mergeLine acc.1 v.data v.mask, mergePoison v.mask acc.2 v.poison)

/-- Whether a version's CTAG is current at the home of its line (R349). -/
def Mem.versionLive (m : Mem) (v : Version) : Bool :=
  (sget {} m.inc (1024 * homeOf (128 * v.line) + ctagCtx v.ctag)).cur == v.ctag.setWidth 6

/-- The line that a core and a node read at the home: the committed version under the node's staged version under the
core's pending versions, newest last (R281). -/
def Mem.homeLine (m : Mem) (core : Option Nat) (part : Nat) (slot : Option Nat) (line : Nat) : LineData × BitVec 4 :=
  let vs := m.vers.filter fun v => v.line == line && m.versionLive v
  let st := vs.filter fun v =>
    match v.owner, slot with
    | .staged p n, some n' => p == part && n == n'
    | _, _ => false
  let pe := vs.filter fun v =>
    match v.owner, core with
    | .pending c _, some c' => c == c'
    | _, _ => false
  (st ++ pe).foldl overlay (m.lineData line, m.linePoison line)

/-- Extend the version of `owner` on the line of `v`, or add it (R281). -/
def Mem.addVersion (m : Mem) (v : Version) : Mem :=
  let same := fun (u : Version) => u.owner == v.owner && u.line == v.line && !u.closing
  let extend := fun (u : Version) =>
    { v with
      mask := u.mask ||| v.mask
      data := mergeLine u.data v.data v.mask
      poison := mergePoison v.mask u.poison v.poison
      spilled := u.spilled
      epoch := if u.epoch = v.epoch then v.epoch else none }
  if m.vers.any same then { m with vers := mapIf same extend m.vers }
  else { m with vers := m.vers ++ [v] }

/-- Lines that the part of one staging slot in a spill region holds: 64 MiB (R387). -/
def regionLines : Nat := 524288

/-- Whether a version stands for a staging slot: the node's own, or a pending one of its jobs (R246, R387). -/
def State.ofSlot (s : State) (part slot : Nat) (v : Version) : Bool :=
  match v.owner with
  | .staged p n => p == part && n == slot
  | .pending c _ => (s.core c).job.any fun j => j.part == part && j.slot == some slot

/-- Whether the spill region has room for one more line of a slot (R387). -/
def State.regionRoom (s : State) (part : Nat) (slot : Option Nat) : Bool :=
  decide (s.mem.vers.length < regionLines) || match slot with
    | some n => decide ((s.mem.vers.filter fun v => v.spilled && s.ofSlot part n v).length < regionLines)
    | none => true

/-- Whether a new version of a line goes to the spill region (R246, R387): a free choice while both the line's C-die and the region have room;
none where neither has. -/
def State.versionSpills (s : State) (part : Nat) (slot : Option Nat) (line : Nat) : Option Bool :=
  let room := s.regionRoom part slot
  if s.mem.vers.length < l2DieLines || (s.mem.vers.filter fun v => !v.spilled && l2Die v.line == l2Die line).length < l2DieLines then
    some (room && Config.choice s.free % 2 == 1)
  else if room then some true else none

/-- Whether a node's write must wait until the node commits or rolls back: its slot holds no version of the line, and there is no room for
one (R387). -/
def State.stageFull (s : State) (part : Nat) (slot : Option Nat) (line : Nat) : Bool :=
  match slot with
  | some n => (s.versionSpills part slot line).isNone && !(s.mem.vers.any fun v => v.owner == .staged part n && v.line == line)
  | none => false

/-- Write bytes into the version a node's writes go to: its staged version, or the committed one where the job has no
staging slot (R255, R282). -/
def State.writeNode (s : State) (part : Nat) (slot : Option Nat) (ctag : W16) (core : Nat) (va : W64) (pa : Nat)
    (mask : LineMask) (data : LineData) (poison : BitVec 4) (epoch : Option W16) : State :=
  match slot with
  | some n => s.drawn.updMem fun m => m.addVersion
      { owner := .staged part n, line := lineOf pa, mask := mask, data := data, ctag := ctag, va := va, pa := pa,
        epoch := epoch, poison := poison, spilled := (s.versionSpills part slot (lineOf pa)).getD true }
  | none => s.commitLine (lineOf pa) mask data poison ctag core

/-! ## Signatures and boards (R287-R290) -/

/-- The two bits of a line (R288). -/
def sigBits (pa : Nat) : Nat × Nat :=
  let l := nbits pa 7 45
  ((((nbits l 0 9).xor (nbits l 9 9)).xor (nbits l 18 9)).xor ((nbits l 27 9).xor (nbits l 36 9)),
    (((nbits l 0 32 * 0x9E3779B1) % 2 ^ 32) >>> 23).xor (nbits l 36 9))

/-- A line added to a signature. -/
def sigAdd (g : BitVec 512) (pa : Nat) : BitVec 512 :=
  setBit (setBit g (sigBits pa).1 true) (sigBits pa).2 true

/-- Whether a line matches a signature. -/
def sigMatch (g : BitVec 512) (pa : Nat) : Bool := bit g (sigBits pa).1 && bit g (sigBits pa).2

/-- A written line added to the four signatures of a core (R287). -/
def Core.sign (k : Core) (pa : Nat) : Core :=
  { k with sig1 := sigAdd k.sig1 pa, sig2 := sigAdd k.sig2 pa, sig3 := sigAdd k.sig3 pa, sig4 := sigAdd k.sig4 pa }

/-- Signature of level `i` of a core. -/
def Core.sig (k : Core) (i : Nat) : BitVec 512 :=
  match i with
  | 1 => k.sig1 | 2 => k.sig2 | 3 => k.sig3 | _ => k.sig4

/-- The board of level `i` that a core uses (R289): its cluster's, its C-die's, the device's, the fabric's. -/
def boardKey (c i : Nat) : Nat :=
  match i with
  | 1 => clusterOf c | 2 => 64 + dieOf (clusterOf c) | 3 => 72 | _ => 73

/-- A publication on a board (R289). -/
def Board.publish (b : Board) (g : BitVec 512) : Board :=
  if 128 < countBits (b.cur ||| g).toNat 512 then { cur := g, prev := b.cur, epoch := b.epoch + 1 }
  else { b with cur := b.cur ||| g }

/-- Publish signature `g` of core `c` on the board of level `i` of its context. -/
def State.publishOn (s : State) (ctx c i : Nat) (g : BitVec 512) : State :=
  s.updCtx ctx fun x => { x with boards := supd {} x.boards (boardKey c i) (·.publish g) }

/-- A release of core `c` at level `j`: publish SIG1 to SIGj, then clear them (R287). -/
def State.publish (s : State) (c j : Nat) : State :=
  let k := s.core c
  let s := foldUpTo j (fun s i => s.publishOn k.theJob.ctx c (i + 1) (k.sig (i + 1))) s
  s.updCore c fun k =>
    { k with
      sig1 := if 1 ≤ j then 0 else k.sig1, sig2 := if 2 ≤ j then 0 else k.sig2
      sig3 := if 3 ≤ j then 0 else k.sig3, sig4 := if 4 ≤ j then 0 else k.sig4 }

/-- Publish one signature on levels 1 to `j` (R287: engine operations; R298). -/
def State.publishSig (s : State) (ctx c j : Nat) (g : BitVec 512) : State :=
  foldUpTo j (fun s i => s.publishOn ctx c (i + 1) g) s

/-- The signature of a list of lines. -/
def sigOf (pas : List Nat) : BitVec 512 := pas.foldl sigAdd 0

/-- A dirty line of L1 turned into a pending version of the core's phase (R246). -/
def State.writeBackLine (s : State) (c : Nat) (l : L1Line) : State :=
  if l.dirty = 0 then s
  else
    let s := s.drawn
    let n := s.free
    let s := s.drawn
    let bad := s.mem.latent.contains (.dirtyLine c l.loc)
    let s := if bad then s.poisonedEviction l.loc l.pa l.ctag (coreSource c 6) else s
    s.updMem fun m => m.addVersion
      { owner := .pending c (s.core c).phase.toNat, line := l.loc, mask := l.dirty, data := l.data, ctag := l.ctag,
        va := BitVec.ofNat 64 l.va, pa := l.pa, poison := if bad then BitVec.ofNat 4 (Config.choice n % 15 + 1) else 0
        spilled := (s.versionSpills (s.core c).theJob.part (s.core c).theJob.slot l.loc).getD true }

/-- The core in whose array a latent error stands. -/
def Latent.arrayOf (l : Latent) : Option Nat :=
  match l with
  | .array c | .spWord c _ _ | .l1Word c _ => some c
  | _ => none

/-- An error of the array of core `c` is found (R237): corrected and counted; a poisoned sector of the scratchpad; a clean L1 line that leaves;
a dirty one, whose eviction R451 governs. -/
def State.arrayError (s : State) (c : Nat) (l : Latent) : State :=
  match l with
  | .array _ => s.updCore c fun k => { k with errors := k.errors + 1 }
  | .spWord _ n i => s.updCore c fun k => { k with sp := supd {} k.sp n fun x => { x with poison := x.poison ||| BitVec.ofNat 4 (2 ^ i) } }
  | .l1Word _ n =>
    let s := if (s.core c).l1.any fun x => x.loc == n && x.dirty != 0 then s.updMem fun m => { m with latent := m.latent ++ [.dirtyLine c n] } else s
    s.updCore c fun k => { k with l1 := k.l1.filter fun x => !(x.loc == n && x.dirty == 0) }
  | _ => s

/-- The errors of the arrays of some cores are found at an edge of theirs (log entry 106). -/
def State.arrayErrors (s : State) (now : Nat → Bool) : State :=
  let found := s.mem.latent.filter fun l => l.arrayOf.any now
  found.foldl (fun s l => s.arrayError (l.arrayOf.getD 0) l) (s.updMem fun m => { m with latent := m.latent.filter fun l => !l.arrayOf.any now })

/-- Lines of L1 chosen by `p` leave it, dirty ones as pending versions (R246). -/
def State.evictLines (s : State) (c : Nat) (p : L1Line → Bool) : State :=
  let ls := (s.core c).l1.filter p
  (ls.foldl (fun s l => s.writeBackLine c l) s).updCore c fun k => { k with l1 := k.l1.filter fun l => !p l }

/-- Whether a request brings a line to its core. -/
def Req.brings (r : Req) : Bool :=
  match r.kind with
  | .fill | .prefetch _ | .read => true
  | _ => false

/-- What core `c` has been sent of these lines, and has not used, is read at their homes again. -/
def Mem.refetch (m : Mem) (c : Nat) (p : Nat → Bool) : Mem :=
  let again := fun (r : Req) => r.master == c && r.brings && p r.line && (r.stage == .reply || r.stage == .arrived)
  { m with reqs := mapIf again (fun r => { r with stage := .home }) m.reqs }

/-- Lines of L1 chosen by `p` are invalidated, and none of them comes back with what it was before (R246, R290). -/
def State.dropLines (s : State) (c : Nat) (p : L1Line → Bool) : State :=
  (s.evictLines c p).updMem fun m => m.refetch c fun _ => true

/-- A request leaves core `c` (R283): it follows the outstanding requests of the core to the same line. -/
def State.sendReq (s : State) (c : Nat) (r : Req) : State × Nat :=
  let j := (s.core c).theJob
  let id := s.mem.nextReq
  let pre := (s.mem.reqs.filter fun q => q.master == c && q.line == r.line && (q.stage == .dirty || q.stage == .home)).map (·.id)
  let r := { r with id := id, master := c, ctag := j.ctag, part := j.part, slot := j.slot, node := j.node, pre := r.pre ++ pre }
  (s.updMem fun m => { m with reqs := m.reqs ++ [r], nextReq := id + 1 }, id)

/-- Whether a request is a releasing store that its home has yet to perform (R302). -/
def Req.storesLater (r : Req) : Bool :=
  (r.stage == .dirty || r.stage == .home) && match r.kind with
    | .write => true
    | _ => false

/-- A line as core `c` reads it where its home gave `d`: under the core's pending versions, and under its releasing stores that are still
on their way (R281, R284). -/
def Mem.underPending (m : Mem) (c line : Nat) (d : LineData × BitVec 4) : LineData × BitVec 4 :=
  let d := (m.vers.filter fun v => v.line == line && m.versionLive v && (match v.owner with
    | .pending k _ => k == c
    | _ => false)).foldl overlay d
  (m.reqs.filter fun r => r.master == c && r.line == line && r.storesLater).foldl
    (fun d r => (mergeLine d.1 r.data r.mask, mergePoison r.mask d.2 r.poison)) d

/-- The core's own clean bytes of a line take what its releasing store writes: no read of the core goes back behind it (R284). -/
def Core.l1Follow (k : Core) (line : Nat) (ctag : W16) (mask : LineMask) (data : LineData) : Core :=
  { k with l1 := mapIf (fun l => l.loc == line && l.ctag == ctag) (fun l =>
      let m := mask &&& l.valid &&& ~~~ l.dirty
      { l with data := mergeLine l.data data m, poison := mergePoison m l.poison 0 }) k.l1 }

/-- The clean bytes of a line leave L1, and what is on its way of it is read again: a read at the home has returned what may be newer
(R284). -/
def State.forgetClean (s : State) (c line : Nat) : State :=
  (s.updCore c fun k =>
    { k with l1 := (k.l1.filter fun l => !(l.loc == line && l.dirty == 0)).map fun l =>
        if l.loc == line then { l with valid := l.dirty } else l }).updMem fun m => m.refetch c fun n => n == line

/-- An acquire of core `c` at level `j` (R290); at level 0 there is nothing to acquire. -/
def State.acquire (s : State) (c j : Nat) : State :=
  if j = 0 then s
  else
  let k := s.core c
  let boards := (s.ctx k.theJob.ctx).boards
  let inv := fun (l : L1Line) => (List.range j).any fun i =>
    let b := sget {} boards (boardKey c (i + 1))
    let d := b.epoch - k.lastEp.getD i 0
    if d = 0 then sigMatch b.cur l.pa
    else if d = 1 then sigMatch (b.cur ||| b.prev) l.pa
    else true
  (s.dropLines c inv).updCore c fun k =>
    { k with lastEp := k.lastEp.mapIdx fun i e => if i < j then (sget {} boards (boardKey c (i + 1))).epoch else e }

/-! ## Checks at a target (R334, R348) -/

/-- Permissions needed by a request, as PERM orders them (R333). -/
def permR : Nat := 16
def permW : Nat := 8
def permA : Nat := 4
def permX : Nat := 2
def permT : Nat := 1

/-- The reset value of an access-table entry (R333). -/
def accReset (master : Nat) : W128 :=
  BitVec.ofNat 128 (if (585 ≤ master ∧ master ≤ 599) ∨ master = 892 then
    2 ^ 127 + 31 <<< 122 + 0x3FF <<< 112 + 52 <<< 106 else 52 <<< 106)

/-- The entry of a master at a target. -/
def Mem.accEntry (m : Mem) (target master : Nat) : W128 :=
  (sfind m.acc (1024 * target + master)).getD (accReset master)

/-- Whether an entry permits a request of context `ctx` at `pa` (R334). -/
def accPermits (e : W128) (ctx pa need : Nat) : Bool :=
  bit e 127 && (field e 112 10 == 0x3FF || field e 112 10 == ctx) && (need &&& field e 122 5 == need)
    && decide (field e 12 40 * 4096 ≤ pa ∧ pa < field e 12 40 * 4096 + 2 ^ field e 106 6)

/-- The outcome of the checks at a point of performance, with the unit where they fail. -/
inductive Check where
  | pass
  | stale (unit : Nat)
  | denied (unit : Nat)
  deriving DecidableEq, Repr

/-- The current incarnation of a context at a unit. -/
def Mem.curAt (m : Mem) (unit ctx : Nat) : BitVec 6 := (sget {} m.inc (1024 * unit + ctx)).cur

/-- Whether a CTAG is stale at a unit (R348). -/
def Mem.staleAt (m : Mem) (unit : Nat) (ctag : W16) : Bool := m.curAt unit (ctagCtx ctag) != ctag.setWidth 6

/-- The incarnation check, then the access check (R334, R348); requests of ROM firmware are not checked (R332). -/
def Mem.check (m : Mem) (target master : Nat) (ctag : W16) (pa need : Nat) : Check :=
  if m.staleAt target ctag then .stale target
  else if master = 1023 || accPermits (m.accEntry target master) (ctagCtx ctag) pa need then .pass
  else .denied target

/-- Count a stale drop at a unit (R348). -/
def Mem.countDrop (m : Mem) (unit ctx : Nat) : Mem :=
  { m with inc := supd {} m.inc (1024 * unit + ctx) fun e => { e with drops := Nat.min 0xFFFF (e.drops + 1) } }

/-- Count an orphan at a unit (R350). -/
def Mem.countOrphan (m : Mem) (unit ctx : Nat) : Mem :=
  { m with inc := supd {} m.inc (1024 * unit + ctx) fun e => { e with orph := Nat.min 0xFFFF (e.orph + 1) } }

/-- Discard a version whose CTAG has become stale at its home, at its next lookup (R349). -/
def Mem.discardStale (m : Mem) (line : Nat) : Mem :=
  { m with vers := m.vers.filter fun v => v.line != line || m.versionLive v }

/-! ## Units of the incarnation tables (R347) -/

def unitBaseDie (stack : Nat) : Nat := 64 + stack
def unitScheduler (h : Nat) : Nat := 84 + h
def unitCrown : Nat := 86
def unitCopyServer (h : Nat) : Nat := 87 + h
def unitQueueServer : Nat := 89
def unitEndpoint (h : Nat) : Nat := 90 + h
def unitIngress (l : Nat) : Nat := 92 + l
def unitCore (c : Nat) : Nat := 128 + c
def unitCluster (k : Nat) : Nat := 640 + k
def unitChiplet (d : Nat) : Nat := 704 + d
def unitWalker (d : Nat) : Nat := 712 + d
def unitEgress (l : Nat) : Nat := 720 + l

/-- How many units keep an incarnation table. -/
def unitCount : Nat := 756

/-- The targets that keep access tables (R333): slice groups, base dies, H-die units, peer ingresses. -/
def isTarget (u : Nat) : Bool := u < 80 || (84 ≤ u && u < 90) || (92 ≤ u && u < 128)

/-- The memory device behind a location (R347): the base die of its stack, or an LPDDR6 controller. -/
def dramUnit (loc : Nat) : Nat := if loc < 2 ^ 41 then unitBaseDie ((loc >>> 36) % 16) else 80 + Config.lpddrController (loc / 128) % 4

/-- The checks at the memory device of a location (R334, R348): an LPDDR6 controller keeps no access table. -/
def Mem.dramCheck (m : Mem) (loc master : Nat) (ctag : W16) (pa need : Nat) : Check :=
  if loc < 2 ^ 41 then m.check (dramUnit loc) master ctag pa need
  else if m.staleAt (dramUnit loc) ctag then .stale (dramUnit loc)
  else .pass

/-- Whether a request that needs `need` makes L2 bring the line of a location from its memory device. -/
def Mem.l2Misses (m : Mem) (loc need : Nat) : Bool := need &&& (permR + permX) != 0 && !m.l2Has (loc / 128)

/-- The checks of an access in one step: at the home, and at the memory device for a line that L2 must bring (R334, R347, R348). -/
def Mem.checkAt (m : Mem) (loc master : Nat) (ctag : W16) (pa need : Nat) : Check :=
  match m.check (homeOf loc) master ctag pa need with
  | .pass => if m.l2Misses loc need then m.dramCheck loc master ctag pa need else .pass
  | c => c

/-! ## Accesses of units, performed at the home in one step -/

/-- Read one line at its home for a unit: what the checks say, and the data (R281, R334, R348). -/
def State.unitRead (s : State) (master : Nat) (ctag : W16) (part : Nat) (slot : Option Nat) (pa : Nat) (need : Nat) :
    Check × LineData × BitVec 4 :=
  match destOf s.mem pa with
  | .dram loc =>
    match s.mem.checkAt loc master ctag pa need with
    | .pass =>
      let r := s.mem.homeLine none part slot (loc / 128)
      (.pass, r.1, r.2)
    | c => (c, 0, 0)
  | .peer _ _ => (.pass, BitVec.ofNat 1024 (leNat ((List.range 128).map fun i => Config.freeByte (128 * s.free + i))), 0)
  | _ => (.denied (homeOf pa), 0, 0)

/-- Bytes at the home, as the node of `slot` reads them, for code that has passed its checks. -/
def State.homeByte (s : State) (part : Nat) (slot : Option Nat) (loc : Nat) : Byte :=
  byteAt (s.mem.homeLine none part slot (loc / 128)).1 (loc % 128)

/-- A little-endian number at a physical address in the committed version. -/
def Mem.readNat (m : Mem) (pa n : Nat) : Nat :=
  leNat ((List.range n).map fun i => ((locOf (pa + i)).map m.byte).getD 0)

/-- Committed bytes at a physical address, a line at a time; what stands outside DRAM reads as zero. -/
def Mem.readBytes (m : Mem) (pa n : Nat) : List Byte :=
  ((List.range ((pa + n + 127) / 128 - pa / 128)).map fun j =>
    let base := 128 * (pa / 128 + j)
    let d := match locOf base with
      | some l => m.lineData (l / 128)
      | none => 0
    ((List.range 128).filter fun i => decide (pa ≤ base + i ∧ base + i < pa + n)).map fun i => byteAt d i).flatten

/-- Write a little-endian number at a physical address in the committed version. -/
def Mem.writeNat (m : Mem) (pa n v : Nat) : Mem :=
  foldUpTo n (fun m i => match locOf (pa + i) with
    | some l => m.setByte l (byteAt (BitVec.ofNat (8 * n) v) i)
    | none => m) m

/-- Write a list of bytes at a physical address in the committed version, a line at a time (R283, R450). -/
def State.writeBytes (s : State) (pa : Nat) (bs : List Byte) (ctag : W16) (core : Nat) : State :=
  let first := pa / 128
  let n := (pa + bs.length + 127) / 128 - first
  let a := bs.toArray
  foldUpTo n (fun s j =>
    let base := 128 * (first + j)
    let inside := fun i => decide (pa ≤ base + i ∧ base + i < pa + bs.length)
    match locOf base with
    | some loc => s.commitLine (loc / 128) (ofBits 128 inside)
        (packElems 1024 8 (fun i => if inside i then (a.getD (base + i - pa) 0).toNat else 0) 128) 0 ctag core
    | none => s) s

end Sys2Proof.Machine
end

