-- ==== Sys2Proof/Machine/Translate.lean ====
section
/-! DEFINITION. Address translation and dirty tracking (R359-R373). -/

namespace Sys2Proof.Machine

/-! ## The walk (R359-R362) -/

/-- What a walk finds: a leaf, a fault with its code and level, the refusal of a descriptor's read by a target at a level, or a drop because the
CTAG is stale at a unit (R361, R373). -/
inductive WalkRes where
  /-- Frame, log2 of the page size, permissions as PERM orders them, D, and the descriptor's physical address. -/
  | leaf (frame size perm : Nat) (d : Bool) (desc : Nat)
  | bad (code level : Nat)
  | refused (unit level : Nat)
  | stale (unit : Nat)
  deriving DecidableEq, Repr

/-- Bits [63:57] equal bit 56 (R359). -/
def canonical (va : W64) : Bool := field va 56 8 == 0 || field va 56 8 == 255

/-- Index of level `lvl` (R359). -/
def vaIndex (va : W64) (lvl : Nat) : Nat := field va (9 * lvl + 12) 9

/-- The outcome of reading one descriptor at its home (R361, R364). -/
inductive DescRes where
  | desc (d : Nat)
  | bad
  | refused (unit : Nat)
  | stale (unit : Nat)
  deriving DecidableEq, Repr

/-- Read a descriptor as `master` under a CTAG: the committed version (R364); refused, poisoned or outside memory is bad. -/
def Mem.readDesc (m : Mem) (master : Nat) (ctag : W16) (pa : Nat) : DescRes :=
  match locOf pa with
  | none => .bad
  | some loc =>
    match m.checkAt loc master ctag pa permR with
    | .stale u => .stale u
    | .denied u => .refused u
    | .pass => if m.poison.contains (loc / 32) then .bad else .desc (m.readNat pa 8)

/-- The permissions of a leaf descriptor, as PERM orders them (R360). -/
def leafPerm (d : Nat) : Nat :=
  (if d.testBit 2 then permR else 0) + (if d.testBit 3 then permW else 0) + (if d.testBit 4 then permX else 0)
    + (if d.testBit 5 then permA else 0)

/-- Whether a valid descriptor of level `lvl` is malformed (R360, R361 code 4). -/
def descMalformed (d lvl : Nat) : Bool :=
  if d.testBit 1 then
    nbits d 52 4 != 0 || d.testBit 8 || 3 ≤ lvl || nbits d 12 (9 * lvl) != 0
  else
    nbits d 52 4 != 0 || nbits d 2 10 != 0 || lvl == 0

/-- The leaf of a group of 16 with the contiguous hint: some page of the group translates it, extended by the offset;
`j` is the free choice (R367). `dirty`: D of the page's own descriptor, where it is kept and set for each 4 KiB page. -/
def contiguousLeaf (m : Mem) (master : Nat) (ctag : W16) (table i j : Nat) (dirty : Bool) : WalkRes :=
  let base := i - i % 16
  let pick := table + 8 * (base + j % 16)
  match m.readDesc master ctag pick with
  | .bad => .bad 6 0
  | .refused u => .refused u 0
  | .stale u => .stale u
  | .desc d =>
    if !d.testBit 0 then .bad 3 0
    else if descMalformed d 0 then .bad 4 0
    else .leaf ((nbits d 12 40 + i % 16 + 2 ^ 40 - j % 16) % 2 ^ 40 * 4096) 12 (leafPerm d) dirty (table + 8 * i)

/-- The walk from the table at `table`, level `lvl` (R361). `j`: the free choice of R367. -/
def walkFrom (m : Mem) (master : Nat) (ctag : W16) (va : W64) (j : Nat) : Nat → Nat → WalkRes
  | lvl, table =>
    match m.readDesc master ctag (table + 8 * vaIndex va lvl) with
    | .bad => .bad 6 lvl
    | .refused u => .refused u lvl
    | .stale u => .stale u
    | .desc d =>
      if !d.testBit 0 then .bad 3 lvl
      else if descMalformed d lvl then .bad 4 lvl
      else if d.testBit 1 then
        if lvl = 0 ∧ d.testBit 7 then contiguousLeaf m master ctag table (vaIndex va 0) j (d.testBit 6)
        else .leaf (nbits d 12 40 * 4096) (12 + 9 * lvl) (leafPerm d) (d.testBit 6) (table + 8 * vaIndex va lvl)
      else
        match lvl with
        | 0 => .bad 4 0
        | lvl + 1 => walkFrom m master ctag va j lvl (nbits d 12 40 * 4096)

/-- A whole walk for a context (R361). -/
def State.walk (s : State) (master : Nat) (ctag : W16) (va : W64) : WalkRes :=
  let root := (s.ctx (ctagCtx ctag)).ptroot
  if !canonical va then .bad 1 15
  else if !bit root 0 then .bad 2 15
  else walkFrom s.mem master ctag va (Config.choice s.free) 4 (field root 12 40 * 4096)

/-! ## Caches (R364) -/

/-- What a cache lookup gives. -/
inductive Tr where
  | hit (pa : Nat) (e : TEnt)
  | miss
  /-- The leaf lacks a needed permission: fault code 5. -/
  | lacks (level : Nat)
  deriving DecidableEq, Repr

/-- The entry of a unit's cache that maps `va` for a CTAG. -/
def Mem.tfind (m : Mem) (unit : Nat) (ctag : W16) (va : W64) : Option TEnt :=
  m.tcache.find? fun e => e.unit == unit && e.ctag == ctag && decide (e.va ≤ va.toNat ∧ va.toNat < e.va + 2 ^ e.size)

/-- Look up a virtual address with needs as PERM orders them (R361, R364). -/
def Mem.translate (m : Mem) (unit : Nat) (ctag : W16) (va : W64) (need : Nat) : Tr :=
  match m.tfind unit ctag va with
  | none => .miss
  | some e => if need &&& e.perm = need then .hit (e.frame + (va.toNat - e.va)) e else .lacks ((e.size - 12) / 9)

/-- Master ID that walks for a cache unit (R332, R364). -/
def walkMaster (unit : Nat) : Nat :=
  if unit < 64 then 590 + dieOf unit
  else if unit < 66 then 585 + (unit - 64)
  else if unit = 66 then 584
  else if unit < 69 then 598 + (unit - 67)
  else 892

/-- The virtual page of an address. -/
def pageOf (va : W64) : W64 := va &&& ~~~ 0xFFF

/-- Send a miss to the walker, or join the walk that is outstanding for the page (R364). -/
def State.startWalk (s : State) (unit : Nat) (ctag : W16) (va : W64) (w : Waiter) : State :=
  let same := fun (k : Walk) => k.unit == unit && k.ctag == ctag && k.va == pageOf va && !k.discard
  s.updMem fun m =>
    if m.walks.any same then
      let join := fun (k : Walk) => if k.waiters.any fun x => x.2 == w then k else { k with waiters := k.waiters ++ [(va, w)] }
      { m with walks := mapIf same join m.walks }
    else { m with walks := m.walks ++ [{ unit := unit, ctag := ctag, va := pageOf va, waiters := [(va, w)] }] }

/-- A fault of a unit that works for a context (R335, R362); a context that no partition holds has nothing that could halt. -/
def State.unitFault (s : State) (ctx src : Nat) (f : FaultInfo) : State :=
  if !(s.ctx ctx).res then s
  else s.raiseRecord (s.ctx ctx).part
    { src := src, code := f.code.code, gtc := s.gtc, ctag := s.ctagOf ctx, addr := f.addr, det1 := f.det1, det2 := f.det2, denier := f.target }

/-- The translation fault (R362, R401). -/
def translationFault (va : W64) (code level : Nat) : FaultInfo :=
  { code := .translation, addr := va, det1 := BitVec.ofNat 64 (16 * level + code) }

/-- Address of the word whose access a stream waits for: that of its oldest frozen access, or the next word. -/
def Core.waitPc (k : Core) (e : StreamId) : W64 :=
  match k.memq.find? fun o => o.strm == e with
  | some o => o.pc
  | none => (k.strm e).pc

/-- A fault of an access that has issued: the stop record names its word. -/
def State.faultAccess (s : State) (c : Nat) (e : StreamId) (f : FaultInfo) : State :=
  (s.raiseRecord (s.core c).theJob.part { faultRecord s c e f with pc := (s.core c).waitPc e }).updStrm c e
    fun st => { st with trapped := true }

/-- The stop record of a fault of tile work (R196, R197). -/
def TileIns.stopRec (t : TileIns) (gtc src path : Nat) (above : List Nat) (f : FaultInfo) : StopRec :=
  { src := src, code := f.code.code, cpath := path, gtc := gtc, ctag := t.ctag, node := t.node, pc := t.pc, addr := f.addr
    det1 := f.det1, det2 := f.det2, above := above, denier := f.target }

/-- A waiter takes the fault of its walk. -/
def State.faultWaiter (s : State) (va : W64) (code level : Nat) (w : Waiter) : State :=
  match w with
  | .strm c e => s.faultAccess c e (translationFault va code level)
  | .unit ctx src => s.unitFault ctx src (translationFault va code level)
  | .prefetch _ _ _ => s
  | .tile id src path above =>
    match s.tiles.find? fun t => t.id == id with
    | some t => s.raiseRecord t.part (t.stopRec s.gtc src path above (translationFault va code level))
    | none => s

/-- The request of a prefetch; of memory that no cache keeps, none (R135, R282). -/
def State.sendPrefetch (s : State) (c : Nat) (e : StreamId) (l2 : Bool) (va : W64) (pa : Nat) : State :=
  if (locOf pa).isNone then s
  else
    (s.sendReq c
      { id := 0, master := c, ctag := (s.core c).theJob.ctag, strm := e, ord := (s.core c).issueOrd, va := va, pa := pa
        line := lineOf pa, kind := .prefetch l2, stage := .home, part := 0, slot := none, node := 0 }).1

/-- A prefetch goes on after its walk, if its job still runs under the CTAG of the walk and its page may be read. -/
def State.prefetchOn (s : State) (ctag : W16) (va : W64) (w : Waiter) : State :=
  match w with
  | .prefetch c e l2 =>
    if (s.core c).job.isNone || (s.core c).theJob.ctag != ctag then s
    else
      match s.mem.translate (clusterOf c) ctag va permR with
      | .hit pa _ => s.sendPrefetch c e l2 va pa
      | _ => s
  | _ => s

/-- Entries that a unit's translation cache holds (R364). -/
def cacheRoom (unit : Nat) : Nat := if unit < 64 then 4096 else 256

/-- A translation enters a unit's cache; where the cache is full, a freely chosen one leaves (R364). -/
def State.cacheEntry (s : State) (e : TEnt) : State :=
  let own := s.mem.tcache.filter fun x => x.unit == e.unit
  if own.length < cacheRoom e.unit then s.updMem fun m => { m with tcache := m.tcache ++ [e] }
  else
    let out := own[Config.choice s.free % Nat.max 1 own.length]?
    s.drawn.updMem fun m => { m with tcache := (m.tcache.filter fun x => some x != out) ++ [e] }

/-- Whether a walk is among the 256 that its walker holds; a further one waits in its cluster (R364). -/
def Mem.walkHeld (m : Mem) (k : Walk) : Bool :=
  ((m.walks.filter fun w => walkMaster w.unit == walkMaster k.unit).take 256).contains k

/-- The walks that end with walk `k`: those of the same walker, CTAG and page, which have joined it (R364). -/
def Mem.joined (m : Mem) (k : Walk) : List Walk :=
  m.walks.filter fun w => walkMaster w.unit == walkMaster k.unit && w.ctag == k.ctag && w.va == k.va && !w.discard

/-- The unit of the incarnation tables that walks for a cache unit: a walker, or the H-die unit itself (R347, R364). -/
def walkerUnit (unit : Nat) : Nat :=
  if unit < 64 then unitWalker (dieOf unit)
  else if unit < 66 then unitScheduler (unit - 64)
  else if unit = 66 then unitCrown
  else if unit < 69 then unitCopyServer (unit - 67)
  else unitQueueServer

/-- What comes back to a walker is stale there (R350): an orphan, and the walk ends with nothing. -/
def State.walkOrphan (s : State) (unit : Nat) (ctag : W16) : State := s.updMem fun m => m.countOrphan (walkerUnit unit) (ctagCtx ctag)

/-- TRANSLATION_WALK (R361, R362, R364): the oldest walk of the unit for the page ends, with every walk that has joined it: it fills
their caches, faults their waiters, or is dropped. -/
def execTranslationWalk (unit : Nat) (va : W64) (s : State) : Out :=
  let mine := fun (k : Walk) => k.unit == unit && k.va == pageOf va
  match s.mem.walks.find? mine with
  | none => .next s
  | some k =>
    if k.discard then .next (s.updMem fun m => { m with walks := m.walks.erase k }).drawn
    else if !s.mem.walkHeld k then .next s
    else
      let ks := s.mem.joined k
      let s' := (s.updMem fun m => { m with walks := m.walks.filter fun w => !ks.contains w }).drawn
      match s.walk (walkMaster unit) k.ctag k.va with
      | .stale u => .next (s'.updMem fun m => m.countDrop u (ctagCtx k.ctag))
      | r =>
      if s.mem.staleAt (walkerUnit unit) k.ctag then .next (s'.walkOrphan unit k.ctag)
      else
      match r with
      | .leaf frame size perm d _ =>
        let t := ks.foldl (fun (t : State) w =>
          t.cacheEntry { unit := w.unit, ctag := k.ctag, va := alignDown k.va.toNat (2 ^ size), size := size, frame := frame, perm := perm
                         epoch := if d then some ((s.ctx (ctagCtx k.ctag)).dlogep.setWidth 16) else none }) s'
        .next (ks.foldl (fun (t : State) w => w.waiters.foldl (fun t x => t.prefetchOn k.ctag x.1 x.2) t) t)
      | .bad code level => .next (ks.foldl (fun (t : State) w => w.waiters.foldl (fun s x => s.faultWaiter x.1 code level x.2) t) s')
      | .refused u level =>
        .next (ks.foldl (fun (t : State) w => w.waiters.foldl (fun s x => s.faultWaiter x.1 6 level x.2) t) (s'.countDenied (some u)))
      | .stale _ => .next s'

/-! ## Dirty bits and the log (R368-R373) -/

/-- Capacity of a dirty log. -/
def logCap (x : Ctx) : Nat := 2 ^ field x.dlogbase 1 5

/-- DIRTY_LOG_APPEND and DIRTY_LOG_FULL (R370, R371): one entry, IDX advanced, and a packet when the log has become
full. -/
def State.appendLog (s : State) (ctx : Nat) (va frame size : Nat) : State :=
  let x := s.ctx ctx
  let i := field x.dlogidx 0 32
  let at_ := field x.dlogbase 12 40 * 4096 + 16 * i
  let d0 := ((size - 12) / 9) <<< 62 + nbits va 12 45
  let s := s.updMem fun m => (m.writeNat at_ 8 d0).writeNat (at_ + 8) 8 (frame / 4096)
  let s := s.updCtx ctx fun x => { x with dlogidx := BitVec.ofNat 64 ((i + 1) % 2 ^ 32) }
  if i + 1 = logCap x then
    s.notifyManager ctx (slotOf [(0, 1, 0x21), (2, 2, (s.ctagOf ctx).toNat), (8, 4, i + 1), slotStamp s])
  else s

/-- The current dirty epoch of the context of a CTAG. -/
def State.epochOf (s : State) (ctag : W16) : W16 := (s.ctx (ctagCtx ctag)).dlogep.setWidth 16

/-- Record in a cache that D is set in the current epoch (R369). -/
def Mem.confirmDirty (m : Mem) (unit : Nat) (ctag : W16) (va : W64) (ep : W16) : Mem :=
  let maps := fun (e : TEnt) => e.unit == unit && e.ctag == ctag && decide (e.va ≤ va.toNat ∧ va.toNat < e.va + 2 ^ e.size)
  { m with tcache := mapIf maps (fun e => { e with epoch := some ep }) m.tcache }

/-- Whether a cache already confirms D in the current epoch (R369). -/
def State.dirtyKnown (s : State) (unit : Nat) (ctag : W16) (va : W64) : Bool :=
  match s.mem.tfind unit ctag va with
  | some e => e.epoch == some (s.epochOf ctag)
  | none => false

/-- One dirty-set walk (R369) for the party `who`: none while it must wait for room in the log (R371). A page that no
longer has a leaf has no D to set. -/
def State.dirtyWalk (s : State) (unit : Nat) (ctag : W16) (va : W64) (who : Nat) : Option State :=
  let ctx := ctagCtx ctag
  let x := s.ctx ctx
  let done := fun (s : State) => s.updMem fun m =>
    { m.confirmDirty unit ctag va (s.epochOf ctag) with logWait := m.logWait.filter (· != who) }
  match s.walk (walkMaster unit) ctag va with
  | .leaf frame size _ d desc =>
    if d then some (done s)
    else if !bit x.dlogbase 0 then
      some (done (s.updMem fun m => m.writeNat desc 8 (m.readNat desc 8 ||| 64)))
    else if field x.dlogidx 0 32 = logCap x ∨ s.mem.logWait.headD who ≠ who then none
    else
      let s := s.updMem fun m => m.writeNat desc 8 (m.readNat desc 8 ||| 64)
      some (done (s.appendLog ctx (alignDown va.toNat (2 ^ size)) frame size))
  | _ => some (done s)

/-- A walk that found the log full waits in line (R371). -/
def State.waitForLog (s : State) (who : Nat) : State :=
  s.updMem fun m => if m.logWait.contains who then m else { m with logWait := m.logWait ++ [who] }

end Sys2Proof.Machine
end

