-- ==== Sys2Proof/Machine/Access.lean ====
section
/-! DEFINITION. The accesses of control and vector words: scratchpad (R236-R242), L1 (R245), the range checker (R269, R270), the
requests that leave the core (R282, R292, R295) and how a frozen or held word advances (R58, R295). -/

namespace Sys2Proof.Machine

/-! ## Scratchpad -/

/-- SPSZ of a job (R236). -/
def spSize (j : Job) : Nat := (96 - j.regsl - j.l1sl) * 0x20000

/-- Whether two cores hold jobs of one team (R14, R39). -/
def State.sameTeam (s : State) (c d : Nat) : Bool :=
  match (s.core c).job, (s.core d).job with
  | some i, some j => clusterOf c == clusterOf d && i.ctx == j.ctx && i.node == j.node && i.run == j.run
  | _, _ => false

/-- The core and offset a scratchpad address names (R238, R239); none is the scratchpad-range fault. -/
def State.spTarget (s : State) (c a : Nat) (write : Bool) : Option (Nat × Nat) :=
  let off := a % 2 ^ 24
  let d := if a.testBit 27 then c / 8 * 8 + nbits a 24 3 else c
  if 2 ^ 28 ≤ a then none
  else if !a.testBit 27 && nbits a 24 3 != 0 then none
  else if d ≠ c ∧ (write ∨ !s.sameTeam c d) then none
  else if spSize (s.core c).theJob ≤ off then none
  else some (d, off)

/-- The scratchpad-range fault (R401). -/
def spFault (s : State) (c a : Nat) : FaultInfo :=
  { code := .scratchpadRange, addr := BitVec.ofNat 64 a, det1 := BitVec.ofNat 64 (spSize (s.core c).theJob) }

/-- Line `n` of a core's scratchpad. -/
def Core.spLine (k : Core) (n : Nat) : SpLine := sget {} k.sp n

/-- Bits `[8n-1 : 0]` of a mask, moved to byte `off` of a line. -/
def byteMask (off n : Nat) : LineMask := BitVec.ofNat 128 ((2 ^ n - 1) <<< (off % 128))

/-- A value moved to byte `off` of a line. -/
def byteData (off v : Nat) : LineData := BitVec.ofNat 1024 (v <<< (8 * (off % 128)))

/-- `n` bytes at byte `off` of a line. -/
def lineBytesAt (l : LineData) (off n : Nat) : Nat := nbits l.toNat (8 * (off % 128)) (8 * n)

/-- One fill or empty applied to a line (R240, R241). -/
def SpLine.apply (l : SpLine) (fill : Option (LineMask × LineData)) : SpLine :=
  match fill with
  | none => { l with full := false }
  | some (mask, data) =>
    if l.full then { l with data := mergeLine l.data data mask, poison := mergePoison mask l.poison 0 }
    else { full := true, data := mergeLine 0 data mask, poison := 0 }

/-- A line as it will stand once the changes of this cycle have taken effect. -/
def Core.spLineNext (k : Core) (n : Nat) : SpLine :=
  (k.spEvents.filter fun e => e.line == n).foldl (fun l e => l.apply e.fill) (k.spLine n)

/-- Write bytes of a line: at once into a full line; an empty one fills at the end of the engine cycle (R43, R241). `rank`: 0
control and vector words, 1 MX, 2 CX, 3 base dies. -/
def Core.spWrite (k : Core) (rank n : Nat) (mask : LineMask) (data : LineData) : Core :=
  if (k.spLine n).full && rank == 0 then { k with sp := supd {} k.sp n fun l => l.apply (some (mask, data)) }
  else { k with spEvents := k.spEvents ++ [{ rank := rank, line := n, fill := some (mask, data) }] }

/-- Mark a line empty at the end of the engine cycle (R240, R241). -/
def Core.spEmpty (k : Core) (rank n : Nat) : Core :=
  { k with spEvents := k.spEvents ++ [{ rank := rank, line := n, fill := none }] }

/-- The changes of full/empty bits take effect, in the order of R241. -/
def Core.applySp (k : Core) : Core :=
  let sorted := (List.range 4).flatMap fun r => k.spEvents.filter fun e => e.rank == r
  let sp := sorted.foldl (fun m e => supd {} m e.line fun l => l.apply e.fill) k.sp
  { k with
    sp := k.spPoison.foldl (fun m e => supd {} m e.1 fun l => { l with poison := l.poison ||| e.2 }) sp
    spEvents := [], spPoison := [] }

/-- Store bytes into the scratchpad, logging a deferred error of a poisoned sector (R450). -/
def State.spStore (s : State) (c rank n : Nat) (mask : LineMask) (data : LineData) : State :=
  let l := (s.core c).spLine n
  let s := if l.full then
      (deferredSectors mask l.poison).foldl (fun s i =>
        s.logEvent 2 (coreSource c 6) (some (s.core c).theJob.ctag) c (BitVec.ofNat 64 (128 * n + 32 * i)) 0) s
    else s
  s.updCore c fun k => k.spWrite rank n mask data

/-! ## Range checker (R269, R270) -/

/-- Whether two byte ranges, first and last inclusive, overlap. -/
def overlaps (a b : Nat × Nat) : Bool := a.1 ≤ b.2 && b.1 ≤ a.2

/-- Whether every line of the overlap of two ranges is empty. -/
def Core.overlapEmpty (k : Core) (a b : Nat × Nat) : Bool :=
  let lo := Nat.max a.1 b.1 / 128
  let hi := Nat.min a.2 b.2 / 128
  !((List.range (hi + 1 - lo)).any fun i => (k.spLine (lo + i)).full)

/-- Engine number of the checker (R270). -/
def rangeEngine (e : StreamId) : Nat :=
  match e with
  | .mx => 1 | .cx => 2 | _ => 0

/-- Whether entry `a` is earlier than entry `b` (R270); entries of one engine keep their order. -/
def RangeEnt.earlier (a b : RangeEnt) : Bool :=
  a.stamp < b.stamp || (a.stamp == b.stamp && (rangeEngine a.engine < rangeEngine b.engine
    || (rangeEngine a.engine == rangeEngine b.engine && a.seq < b.seq)))

/-- Whether `b` must wait for the earlier `a` (R270). -/
def Core.conflicts (k : Core) (a b : RangeEnt) : Bool :=
  (a.writes.any fun x => (b.reads ++ b.writes).any fun y => overlaps x y)
    || (a.reads.any fun x => b.writes.any fun y => overlaps x y && !k.overlapEmpty x y)

/-- Whether a range entry is held back by an earlier one (R270). -/
def Core.rangeHeld (k : Core) (b : RangeEnt) : Bool :=
  k.ranges.any fun a => a.earlier b && k.conflicts a b

/-- The entry of a command. -/
def Core.rangeOf (k : Core) (e : StreamId) (seq : Nat) : Option RangeEnt :=
  k.ranges.find? fun a => a.engine == e && a.seq == seq

/-- Whether a command may start as far as the checker goes. -/
def Core.rangeReady (k : Core) (e : StreamId) (seq : Nat) : Bool :=
  match k.rangeOf e seq with
  | some b => !k.rangeHeld b
  | none => true

/-- A command with an entry completes: the entry leaves with the end of the engine cycle, as the fills and empties of the command take
effect (R241, R269). -/
def Core.rangeDone (k : Core) (e : StreamId) (seq : Nat) : Core :=
  if (k.rangeOf e seq).isSome then { k with rangesDone := k.rangesDone ++ [(e, seq)] } else k

/-- The entries of the commands that have completed leave. -/
def Core.dropRanges (k : Core) : Core :=
  { k with ranges := k.ranges.filter fun a => !k.rangesDone.contains (a.engine, a.seq), rangesDone := [] }

/-! ## L1 (R245) -/

/-- The L1 line of a core that a CTAG hits. -/
def Core.l1Find (k : Core) (line : Nat) (ctag : W16) : Option L1Line :=
  k.l1.find? fun l => l.loc == line && l.ctag == ctag

/-- Put written bytes into L1, allocating the line (R245), and add it to the signatures (R287). -/
def Core.l1Write (k : Core) (pa : Nat) (va : W64) (ctag : W16) (mask : LineMask) (data : LineData) : Core :=
  let line := lineOf pa
  let mine := fun (l : L1Line) => l.loc == line && l.ctag == ctag
  let base : Nat := alignDown va.toNat 128
  let paBase := alignDown pa 128
  let write := fun (l : L1Line) =>
    { l with
      data := mergeLine l.data data mask, valid := l.valid ||| mask, dirty := l.dirty ||| mask
      poison := mergePoison mask l.poison 0, va := base, pa := paBase }
  let k := if k.l1.any mine then { k with l1 := mapIf mine write k.l1 }
    else { k with l1 := k.l1 ++ [{ loc := line, pa := paBase, va := base, ctag := ctag, valid := mask, dirty := mask, data := data }] }
  k.sign pa

/-- Data fill of a line (R58, R281): bytes already valid stay as they are. -/
def Core.l1Fill (k : Core) (line pa : Nat) (va : W64) (ctag : W16) (data : LineData) (poison : BitVec 4) : Core :=
  let mine := fun (l : L1Line) => l.loc == line && l.ctag == ctag
  let fill := fun (l : L1Line) =>
    { l with data := mergeLine data l.data l.valid, valid := BitVec.allOnes 128, poison := mergePoison l.valid poison l.poison }
  if k.l1.any mine then { k with l1 := mapIf mine fill k.l1 }
  else { k with l1 := k.l1 ++ [{ loc := line, pa := alignDown pa 128, va := alignDown va.toNat 128, ctag := ctag
                                 valid := BitVec.allOnes 128, data := data, poison := poison }] }

/-- A freely chosen line leaves L1 to make room, if the core awaits nothing of it (R245, R246). -/
def State.evictOne (s : State) (c : Nat) : State :=
  let idle := (s.core c).l1.filter fun l => !s.mem.reqs.any fun r => r.master == c && r.brings && r.line == l.loc
  match idle[Config.choice s.free]? with
  | some l => s.drawn.evictLines c fun x => x == l
  | none => s.drawn

/-- Sets of a core's L1 under its carve-out, of 16 ways each (R245). -/
def Core.l1Sets (k : Core) : Nat := 64 * k.theJob.l1sl

/-- The set of a line. -/
def Core.l1SetOf (k : Core) (line : Nat) : Nat := Config.l1Set line k.l1Sets % k.l1Sets

/-- Lines that stand in the set of a line. -/
def Core.l1Ways (k : Core) (line : Nat) : List L1Line := k.l1.filter fun l => k.l1SetOf l.loc == k.l1SetOf line

/-- Room in L1 for a line that is to be allocated: where its 16 ways are taken, a freely chosen line of them leaves (R245, R246). -/
def State.l1Room (s : State) (c line : Nat) (ctag : W16) : State :=
  let k := s.core c
  if (k.l1Find line ctag).isSome || k.l1.length < 16 then s
  else
    let ways := k.l1Ways line
    if ways.length < 16 then s
    else
      match ways[Config.choice s.free % Nat.max 1 ways.length]? with
      | some l => s.drawn.evictLines c fun x => x == l
      | none => s

/-- L1 after its sets have become fewer: what no longer fits its set leaves (R244, R245). -/
def State.l1Fit (s : State) (c : Nat) : State :=
  let k := s.core c
  if k.l1.length ≤ 16 then s
  else
    let kept := k.l1.foldl (fun (a : List L1Line) l => if (a.filter fun x => k.l1SetOf x.loc == k.l1SetOf l.loc).length < 16 then a ++ [l] else a) []
    s.evictLines c fun l => !kept.contains l

/-- Bytes written into L1 by core `c`, with room made for the line (R245). -/
def State.l1Store (s : State) (c pa : Nat) (va : W64) (ctag : W16) (mask : LineMask) (data : LineData) : State :=
  (s.l1Room c (lineOf pa) ctag).updCore c fun k => k.l1Write pa va ctag mask data

/-- A line brought into L1 of core `c`, with room made for it (R245). -/
def State.l1Place (s : State) (c line pa : Nat) (va : W64) (ctag : W16) (data : LineData) (poison : BitVec 4) : State :=
  (s.l1Room c line ctag).updCore c fun k => k.l1Fill line pa va ctag data poison

/-! ## Requests -/

/-- The epoch a cache confirms for an address, if any (R369). -/
def State.knownEpoch (s : State) (unit : Nat) (ctag : W16) (va : W64) : Option W16 :=
  match s.mem.tfind unit ctag va with
  | some e => e.epoch
  | none => none

/-- The stage a writing request starts at (R369). -/
def State.writeStage (s : State) (ctag : W16) (ep : Option W16) : Stage :=
  if ep = some (s.epochOf ctag) then .home else .dirty

/-- Whether a line at `va`, of physical line number `line`, is selected by a commit. -/
def CommitSel.meets (sel : CommitSel) (va line : Nat) : Bool :=
  match sel with
  | .all => true
  | .range lo hi => decide (va < hi ∧ lo < alignDown va 128 + 128)
  | .line n => line == n

/-- The commit of a version of core `c`'s phase `ph` leaves for its home (R282). -/
def State.sendCommit (s : State) (c : Nat) (strm : StreamId) (ord ph : Nat) (v : Version) : State × Nat :=
  let ep := s.knownEpoch (clusterOf c) v.ctag v.va
  s.sendReq c
    { id := 0, master := c, ctag := v.ctag, strm := strm, ord := ord, va := v.va, pa := v.pa, line := v.line
      kind := .commit ph, stage := s.writeStage v.ctag ep, part := 0, slot := none, node := 0, mask := v.mask, data := v.data
      poison := v.poison, epoch := ep }

/-- The bytes of the current phase that a commit selects leave for their homes (R282, R298): dirty L1 lines become clean, and
each pending version gets a request. Answers the requests and the physical lines. -/
def State.startCommit (s : State) (c : Nat) (strm : StreamId) (ord : Nat) (sel : CommitSel) : State × List Nat × List Nat :=
  let ph := (s.core c).phase.toNat
  let dirty := (s.core c).l1.filter fun l => l.dirty != 0 && sel.meets l.va l.loc
  let s := dirty.foldl (fun s l => s.writeBackLine c l) s
  let s := s.updCore c fun k =>
    { k with l1 := mapIf (fun l => sel.meets l.va l.loc) (fun l => { l with dirty := 0 }) k.l1 }
  let mine := fun (v : Version) => v.owner == .pending c ph && !v.closing && sel.meets v.va.toNat v.line
  let vs := s.mem.vers.filter mine
  let s := s.updMem fun m => { m with vers := mapIf mine (fun v => { v with closing := true }) m.vers }
  vs.foldl (fun (a : State × List Nat × List Nat) v =>
    let (s, id) := a.1.sendCommit c strm ord ph v
    (s, a.2.1 ++ [id], a.2.2 ++ [v.pa])) (s, [], [])

/-- Whether some of these requests are still outstanding. -/
def Mem.live (m : Mem) (ids : List Nat) : Bool := m.reqs.any fun r => ids.contains r.id

/-! ## Reaching the lanes -/

/-- The access-violation fault of a core's own check (R401, R460). -/
def violation (va : W64) (master need : Nat) : FaultInfo :=
  { code := .accessViolation, addr := va, det1 := BitVec.ofNat 64 (master + need <<< 10) }

/-- The access-violation fault of a request that a target refused (R335). -/
def refusal (u : Nat) (va : W64) (master need : Nat) : FaultInfo := { violation va master need with target := some u }

/-- Whether a peer refuses a request for a line of its memory, and with what poison it answers: free (R335, R449). -/
def State.peerRefuses (s : State) (pa : Nat) : Bool := Config.peerAnswer s.free (pa / 128) % 2 == 1
def State.peerPoison (s : State) (pa : Nat) : BitVec 4 := BitVec.ofNat 4 (Config.peerAnswer s.free (pa / 128) / 2)

/-- The lanes with their physical addresses; none when the word must wait or has raised a fault (R58, R133). -/
def State.reachLanes (s : State) (c : Nat) (op : MemOp) (need : Nat) : List Lane → State × Option (List (Lane × Nat))
  | [] => (s, some [])
  | l :: ls =>
    let va := BitVec.ofNat 64 l.va
    let ctag := (s.core c).theJob.ctag
    match s.mem.translate (clusterOf c) ctag va need with
    | .miss => (s.startWalk (clusterOf c) ctag va (.strm c op.strm), none)
    | .lacks level => (s.faultAccess c op.strm (translationFault va 5 level), none)
    | .hit pa _ =>
      match destOf s.mem pa with
      | .registers | .refused => (s.faultAccess c op.strm (violation va c need), none)
      | _ =>
        match s.reachLanes c op need ls with
        | (s, some r) => (s, some ((l, pa) :: r))
        | (s, none) => (s, none)

/-- The line bytes and poison that a lane of a load reads, if they are there: L1 for a plain read of DRAM, otherwise what has
come from the home for this word, under the core's own written bytes (R281, R282, R301). -/
def State.laneLine (s : State) (c : Nat) (op : MemOp) (pa : Nat) (mask : LineMask) : Option (LineData × BitVec 4) :=
  let k := s.core c
  let line := lineOf pa
  let plain := op.acq.isNone && (locOf pa).isSome
  let l1 := k.l1Find line k.theJob.ctag
  match if plain then l1.filter fun l => mask &&& l.valid == mask else none with
  | some l => some (l.data, l.poison)
  | none =>
    match op.got.find? fun g => g.1 == line with
    | none => none
    | some (_, d) =>
      let (d, p) := s.mem.underPending c line d
      match l1 with
      | some l => some (mergeLine d l.data l.dirty, mergePoison l.dirty p 0)
      | none => some (d, p)

/-- Request the lines of lanes that are not there yet. -/
def State.requestLines (s : State) (c : Nat) (op : MemOp) (ls : List (Lane × Nat)) : State :=
  ls.foldl (fun s p =>
    let line := lineOf p.2
    let k := s.core c
    let home := op.acq.isSome || (locOf p.2).isNone
    if (s.laneLine c op p.2 (byteMask p.2 p.1.size)).isSome
        || s.mem.reqs.any (fun r => r.master == c && r.line == line && r.ord == op.ord && r.strm == op.strm
          && (r.kind == .fill || r.kind == .read)) then s
    else
      (s.sendReq c
        { id := 0, master := c, ctag := k.theJob.ctag, strm := op.strm, ord := op.ord, va := BitVec.ofNat 64 p.1.va, pa := p.2
          line := line, kind := if home then .read else .fill, stage := .home, part := 0, slot := none, node := 0 }).1) s

/-- Whether a value touches a poisoned sector. -/
def poisonHit (poison : BitVec 4) (off n : Nat) : Bool :=
  bit poison (off % 128 / 32) || bit poison ((off % 128 + n - 1) / 32)

/-- Consumption of a poisoned sector by core `c` (R449): logged, and the node rolls back. -/
def State.consumePoison (s : State) (c : Nat) (pa : Nat) : State :=
  let j := (s.core c).theJob
  let rolls := ((s.nodes.find? fun n => n.ctx == j.ctx && n.r.nodeid == j.node).map (·.rolls)).getD 0
  (s.logEvent 3 (coreSource c 6) (some j.ctag) rolls (BitVec.ofNat 64 pa) (j.node.setWidth 64)).rollbackCore c .poison

/-! ## Results -/

/-- The bits a load lands: its lanes in order, each its value. -/
def MemOp.result (op : MemOp) (vals : List (Nat × Nat)) : Val :=
  match op.kind with
  | .load sgn =>
    match vals, op.lanes with
    | (_, v) :: _, l :: _ => .word (if sgn then BitVec.ofInt 64 (sx (8 * l.size) v) else BitVec.ofNat 64 v)
    | _, _ => .word 0
  | .vload old => .vector (vals.foldl (fun o p => putField o (32 * p.1) 32 p.2) old)
  | .gather old fm =>
    .vector (vals.foldl (fun o p => putField o (32 * p.1) 32 p.2)
      (foldUpTo 64 (fun o i => if bit fm i then putField o (32 * i) 32 0 else o) old))
  | _ => .word (BitVec.ofNat 64 ((vals.map (·.2)).headD 0))

/-- Put a finished access's result on its way, to land at its recorded cycle (R56, R62). -/
def State.landOp (s : State) (c : Nat) (op : MemOp) (v : Val) : State :=
  let s := match op.dst with
    | some d => s.updCore c fun k => { k with pend := k.pend ++ [{ strm := op.strm, ord := op.ord, dst := d, due := op.due, val := v }] }
    | none => s
  match op.kind with
  | .gather _ fm =>
    if fm = 0 then s
    else s.updCore c fun k =>
      { k with pend := k.pend ++ [{ strm := op.strm, ord := op.ord, dst := .fmask, due := op.due, val := .orBits fm }] }
  | _ => s

/-- The result of a word that held its stream: it lands in the engine cycle in which the hold ends (R305, R337). -/
def State.landHeld (s : State) (c : Nat) (op : MemOp) (v : W64) : State :=
  match op.dst with
  | some d => s.updCore c fun k =>
      { k with pend := k.pend ++ [{ strm := op.strm, ord := op.ord, dst := d, due := k.now, val := .word v, timed := false }] }
  | none => s

/-- The end of an access: its acquire, and its range entry leaves (R269, R290). -/
def State.finishOp (s : State) (c : Nat) (op : MemOp) : State × MemOp :=
  let s := match op.acq with
    | some j => s.acquire c j
    | none => s
  (s.updCore c fun k => k.rangeDone op.strm op.ord, { op with stage := 4 })

/-- A loaded list of lanes, with consumption of poison checked. -/
def State.completeLoad (s : State) (c : Nat) (op : MemOp) (ls : List (Nat × Nat × Nat × LineData × BitVec 4)) : State × MemOp :=
  match ls.find? fun p => poisonHit p.2.2.2.2 p.2.1 p.2.2.1 with
  | some p => ((s.consumePoison c p.2.1).updCore c fun k => k.rangeDone op.strm op.ord, { op with stage := 4 })
  | none =>
    let s := if op.acq.isSome && !op.sp then ls.foldl (fun s p => s.forgetClean c (lineOf p.2.1)) s else s
    (s.landOp c op (op.result (ls.map fun p => (p.1, lineBytesAt p.2.2.2.1 p.2.1 p.2.2.1)))).finishOp c op

/-! ## Scratchpad words -/

/-- Whether a word reads its lanes. -/
def MemKind.reads : MemKind → Bool
  | .load _ | .vload _ | .gather _ _ | .tile _ _ _ => true
  | _ => false

/-- A scratchpad word whose ranges are free: a read waits for its lines to be full (R242), a write is done at once. -/
def State.runSp (s : State) (c : Nat) (op : MemOp) : State × MemOp :=
  let at_ := fun (l : Lane) => (s.spTarget c l.va false).getD (c, 0)
  if op.kind.reads then
    if op.lanes.any fun l => !((s.core (at_ l).1).spLine ((at_ l).2 / 128)).full then (s, op)
    else
      s.completeLoad c op (op.lanes.map fun l =>
        let ln := (s.core (at_ l).1).spLine ((at_ l).2 / 128)
        (l.lane, (at_ l).2, l.size, ln.data, ln.poison))
  else
    let s := match op.kind with
      | .scatterAdd ty rnd sat =>
        op.lanes.foldl (fun (s : State) (l : Lane) =>
          let off := (at_ l).2
          let ln := (s.core c).spLineNext (off / 128)
          let old := if ln.full then lineBytesAt ln.data off 4 else 0
          s.spStore c 0 (off / 128) (byteMask off 4) (byteData off (velem 0x100 ty rnd sat 0 old l.data 0))) s
      | _ => op.lanes.foldl (fun (s : State) (l : Lane) =>
          let off := (at_ l).2
          s.spStore c 0 (off / 128) (byteMask off l.size) (byteData off l.data)) s
    s.finishOp c op

/-! ## Virtual words -/

/-- Stores of a relaxed word enter L1, or the core's pending version for a peer (R245, R282). -/
def State.storeLanes (s : State) (c : Nat) (ls : List (Lane × Nat)) : State :=
  ls.foldl (fun s p =>
    let mask := byteMask p.2 p.1.size
    let data := byteData p.2 p.1.data
    let ctag := (s.core c).theJob.ctag
    let va := BitVec.ofNat 64 p.1.va
    if (locOf p.2).isSome then s.l1Store c p.2 va ctag mask data
    else
      (s.updCore c fun k => k.sign p.2).updMem fun m => m.addVersion
        { owner := .pending c (s.core c).phase.toNat, line := lineOf p.2, mask := mask, data := data, ctag := ctag
          va := BitVec.ofNat 64 (alignDown p.1.va 128), pa := alignDown p.2 128 }) s

/-- The lanes' bytes gathered by line: physical address, virtual address, mask and data. -/
def groupLanes : List (Lane × Nat) → List (Nat × W64 × LineMask × LineData)
  | [] => []
  | (l, pa) :: ls =>
    let rest := groupLanes ls
    let mask := byteMask pa l.size
    let data := byteData pa l.data
    if rest.any fun g => lineOf g.1 == lineOf pa then
      mapIf (fun g => lineOf g.1 == lineOf pa) (fun g => (g.1, g.2.1, g.2.2.1 ||| mask, mergeLine data g.2.2.2 g.2.2.1)) rest
    else (alignDown pa 128, BitVec.ofNat 64 (alignDown l.va 128), mask, data) :: rest

/-- A releasing store writes straight into the node's staged version (R302); the core's own clean copy follows (R284). -/
def State.releaseStore (s : State) (c : Nat) (op : MemOp) (ls : List (Lane × Nat)) : State × List Nat :=
  (groupLanes ls).foldl (fun a g =>
    let ctag := (a.1.core c).theJob.ctag
    let ep := a.1.knownEpoch (clusterOf c) ctag g.2.1
    let (s, id) := (a.1.updCore c fun k => (k.sign g.1).l1Follow (lineOf g.1) ctag g.2.2.1 g.2.2.2).sendReq c
      { id := 0, master := c, ctag := ctag, strm := op.strm, ord := op.ord, va := g.2.1, pa := g.1, line := lineOf g.1
        kind := .write, stage := a.1.writeStage ctag ep, part := 0, slot := none, node := 0, mask := g.2.2.1, data := g.2.2.2
        epoch := ep }
    (s, a.2 ++ [id])) (s, [])

/-- The atomics of a word: address, virtual address and what is done there; the adds of a scatter are grouped by address in
ascending lane order (R170, R303, R304). -/
def MemOp.atomics (op : MemOp) (ls : List (Lane × Nat)) : List (Nat × Nat × AtomOp) :=
  match op.kind with
  | .amo o rnd b _ => (ls.take 1).map fun p => (p.2, p.1.va, .amo o rnd b p.1.size)
  | .cas x y _ => (ls.take 1).map fun p => (p.2, p.1.va, .cas x y p.1.size)
  | .scatterAdd ty rnd sat =>
    let pas := (ls.map (·.2)).eraseDups
    pas.map fun pa =>
      let mine := ls.filter fun p => p.2 == pa
      (pa, (mine.map (·.1.va)).headD 0, .vadd ty rnd sat (mine.map (·.1.data)))
  | _ => []

/-- Atomics leave the core: its own bytes of the line go first, its L1 copy is invalidated, and the line is signed
(R245, R292). -/
def State.sendAtomics (s : State) (c : Nat) (op : MemOp) (ls : List (Lane × Nat)) : State × List Nat :=
  (op.atomics ls).foldl (fun a p =>
    let (s, _, _) := a.1.startCommit c op.strm op.ord (.line (lineOf p.1))
    let s := (s.updCore c fun k => { (k.sign p.1) with l1 := k.l1.filter fun l => l.loc != lineOf p.1 }).updMem fun m =>
      m.refetch c fun n => n == lineOf p.1
    let ctag := (s.core c).theJob.ctag
    let ep := s.knownEpoch (clusterOf c) ctag (BitVec.ofNat 64 p.2.1)
    let (s, id) := s.sendReq c
      { id := 0, master := c, ctag := ctag, strm := op.strm, ord := op.ord, va := BitVec.ofNat 64 p.2.1, pa := p.1
        line := lineOf p.1, kind := .atomic p.2.2, stage := s.writeStage ctag ep, part := 0, slot := none, node := 0, epoch := ep
        scope := op.scope }
    (s, a.2 ++ [id])) (s, [])

/-- Whether a word is a tile word that waits for its descriptor (R175). -/
def MemKind.isTile : MemKind → Bool
  | .tile _ _ _ => true
  | _ => false

/-- Permissions a word's lanes need (R334). -/
def MemKind.need : MemKind → Nat
  | .load _ | .vload _ | .gather _ _ => permR
  | .store => permW
  | _ => permR + permW + permA

/-- Whether a word waits for the old value of its atomic. -/
def MemKind.returns : MemKind → Bool
  | .amo _ _ _ fetch => fetch
  | .cas _ _ _ => true
  | _ => false

/-- A virtual word goes for its lanes. -/
def State.runVirtual (s : State) (c : Nat) (op : MemOp) : State × MemOp :=
  match s.reachLanes c op op.kind.need op.lanes with
  | (s, none) => (s, op)
  | (s, some ls) =>
    if op.kind.reads then
      if ls.any fun p => (s.laneLine c op p.2 (byteMask p.2 p.1.size)).isNone then (s.requestLines c op ls, op)
      else
        s.completeLoad c op (ls.map fun p =>
          let d := (s.laneLine c op p.2 (byteMask p.2 p.1.size)).getD (0, 0)
          (p.1.lane, p.2, p.1.size, d.1, d.2))
    else if op.kind = .store then
      if op.pub.isSome then
        let (s, ids) := s.releaseStore c op ls
        (s, { op with reqs := ids, stage := 3 })
      else (s.storeLanes c ls).finishOp c op
    else
      let (s, ids) := s.sendAtomics c op ls
      if !op.kind.returns && op.hold.isNone then s.finishOp c op else (s, { op with reqs := ids, stage := 3 })

/-- Whether the checker holds a word back. -/
def State.opHeld (s : State) (c : Nat) (op : MemOp) : Bool := !(s.core c).rangeReady op.strm op.ord

/-- A word whose requests have all been answered: the old value of an atomic lands, then its acquire is performed; a failed
`cas` acquires only under FA (R293, R304). -/
def State.answerOp (s : State) (c : Nat) (op : MemOp) : State × MemOp :=
  match op.kind, op.got with
  | .cas x _ fa, (_, d, _) :: _ =>
    let size := ((op.lanes.map (·.size)).headD 8)
    let old := nbits d.toNat 0 (8 * size)
    let ok := old == nbits x.toNat 0 (8 * size)
    (s.landOp c op (.word (BitVec.ofNat 64 old))).finishOp c { op with acq := if ok then op.acq else if fa then some op.scope else none }
  | .amo _ _ _ _, (_, d, _) :: _ =>
    (s.landOp c op (.word (BitVec.ofNat 64 (nbits d.toNat 0 (8 * ((op.lanes.map (·.size)).headD 8)))))).finishOp c op
  | .amo _ _ _ fetch, [] => if fetch then (s, { op with stage := 4 }) else s.finishOp c op
  | .cas _ _ _, [] => (s, { op with stage := 4 })
  | _, _ => s.finishOp c op

/-- One transition of a word through its stages. -/
def State.advanceOp (s : State) (c : Nat) (op : MemOp) : State × MemOp :=
  match op.stage with
  | 0 =>
    let (s, op) := match op.commit with
      | some sel =>
        let (s, ids, pas) := s.startCommit c op.strm op.ord sel
        (s, { op with reqs := ids, lines := pas })
      | none => (s, op)
    (if op.newPhase then s.updCore c fun k => { k with phase := k.phase + 1 } else s, { op with stage := 1 })
  | 1 =>
    if s.mem.live op.reqs then (s, op)
    else
      let s := match op.pub, op.commit with
        | some j, some (.range _ _) => s.publishSig (s.core c).theJob.ctx c j (sigOf op.lines)
        | some j, _ => s.publish c j
        | none, _ => s
      (s, { op with stage := 2, reqs := [] })
  | 2 =>
    if op.kind = .none then s.finishOp c op
    else if op.kind.isTile then (s, op)
    else if s.opHeld c op then (s, op)
    else if op.sp then s.runSp c op
    else s.runVirtual c op
  | 3 => if s.mem.live op.reqs then (s, op) else s.answerOp c op
  | _ => (s, op)

/-- A word taken as far as it goes now. -/
def State.advanceFar : Nat → State → Nat → MemOp → State × MemOp
  | 0, s, _, op => (s, op)
  | n + 1, s, c, op =>
    let r := s.advanceOp c op
    if r.2.stage = op.stage ∨ r.2.stage = 4 then r else State.advanceFar n r.1 c r.2

/-- The frozen words of a core taken as far as they go, oldest first; one that holds only its stream leaves the queue once its
commits have begun (R58, R134, R295). -/
def State.pumpFrom : Nat → State → Nat → State
  | 0, s, _ => s
  | n + 1, s, c =>
    match (s.core c).memq with
    | [] => s
    | op :: rest =>
      if op.hold.isSome then
        let (s, op) := s.advanceOp c op
        State.pumpFrom n ((s.updCore c fun k => { k with memq := rest }).updStrm c op.strm fun st => { st with hold := some op }) c
      else
        let (s, op) := State.advanceFar 6 s c op
        if op.stage = 4 then State.pumpFrom n (s.updCore c fun k => { k with memq := (k.memq.drop 1) }) c
        else s.updCore c fun k => { k with memq := op :: k.memq.drop 1 }

/-- The frozen words of a core taken as far as they go. -/
def State.pump (s : State) (c : Nat) : State := s.pumpFrom ((s.core c).memq.length) c

/-- Whether a word of a core writes memory. -/
def MemKind.writes : MemKind → Bool
  | .store | .scatterAdd _ _ _ | .amo _ _ _ _ | .cas _ _ _ => true
  | _ => false

/-- Whether a request of a core writes at its home (R283, R302). -/
def ReqKind.writesHome : ReqKind → Bool
  | .write | .atomic _ => true
  | _ => false

/-- Whether core `c` issued a write before the place `ord` of its issue order that has reached neither its L1, nor a version, nor its home: an
operation of an engine issued there sees it, and so waits (R255, R291). -/
def State.storesAhead (s : State) (c ord : Nat) : Bool :=
  let k := s.core c
  let ahead := fun (o : MemOp) => o.kind.writes && !o.sp && decide (o.ord < ord)
  k.memq.any ahead || k.savedOps.any ahead || k.savedHold.any ahead
    || ([StreamId.cl, .cc, .cs, .vx].any fun e => (k.strm e).hold.any ahead)
    || s.mem.reqs.any fun r => r.master == c && decide (r.ord < ord) && r.kind.writesHome && (r.stage == .home || r.stage == .dirty)

/-- Whether a core is frozen (R58). -/
def Core.frozen (k : Core) : Bool := !k.memq.isEmpty

/-! ## Issue -/

/-- A memory word joins its core's queue and goes as far as it can. -/
def State.pushOp (s : State) (op : MemOp) : State :=
  (s.updCur fun k => { k with memq := k.memq ++ [op] }).pump s.cur.core

/-- The common part of a memory word (R56). -/
def State.newOp (s : State) (kind : MemKind) (dst : BitVec 8) (lat : Nat) : MemOp :=
  { strm := s.cur.strm, ord := s.curCore.issueOrd, pc := s.curStrm.pc, kind := kind
    dst := bindDst s.curStrm s.cur.strm dst.toNat, due := s.curCore.now + lat - 1 }

/-- The data-alignment fault (R401). -/
def misaligned (a : W64) (size : Nat) : FaultInfo := { code := .dataAlignment, addr := a, det1 := BitVec.ofNat 64 size }

/-- The scratchpad windows of the lanes (R133, R238). -/
def State.spCheck (s : State) (write : Bool) (lanes : List Lane) : Option FaultInfo :=
  (lanes.find? fun l => (s.spTarget s.cur.core l.va write).isNone).map fun l => spFault s s.cur.core l.va

/-- A word that touches the scratchpad waits while a new carve-out is being applied (R243). -/
def Core.carving (k : Core) : Bool := k.carveTo.isSome

/-- Issue a memory word: its checks, then its accesses (R80, R133). `ranges`: what a vector scratchpad word reads and writes, for the
checker (R168, R269). `extra`: what else the word does at issue. -/
def issueMem (o : Nat) (t : Tpl) (check : State → Option FaultInfo) (ranges : Option (List (Nat × Nat) × List (Nat × Nat)))
    (extra : State → State) (mk : State → MemOp) (s : State) : Out :=
  if s.active o t then
    match check s with
    | some f => .next (s.faultCur f)
    | none =>
      if (mk s).sp && s.curCore.carving then .next s.blockWord
      else
        match ranges with
        | some (rd, wr) =>
          if 32 ≤ s.curCore.ranges.length then .next s.holdCycle
          else
            issue o t (fun s =>
              ((extra s).updCur fun k => { k with ranges := k.ranges ++
                [{ stamp := s.gtc, engine := s.cur.strm, seq := k.issueOrd, reads := rd, writes := wr }] }).pushOp (mk s)) s
        | none => issue o t (fun s => (extra s).pushOp (mk s)) s
  else issue o t id s

end Sys2Proof.Machine
end

