-- ==== Sys2Proof/Machine/MemEvents.lean ====
section
/-! DEFINITION. The steps of requests at homes and requesters (R283, R292, R334-R336, R348-R350, R369). -/

namespace Sys2Proof.Machine

/-- A request by number. -/
def Mem.findReq (m : Mem) (id : Nat) : Option Req := m.reqs.find? fun r => r.id == id

/-- Replace a request. -/
def Mem.setReq (m : Mem) (r : Req) : Mem := { m with reqs := mapIf (fun q => q.id == r.id) (fun _ => r) m.reqs }

/-- A request leaves. -/
def Mem.dropReq (m : Mem) (id : Nat) : Mem := { m with reqs := m.reqs.filter fun q => q.id != id }

/-- Whether a request may be performed: those before it have been (R283). -/
def Mem.reqReady (m : Mem) (r : Req) : Bool :=
  !(m.reqs.any fun q => r.pre.contains q.id && (q.stage == .dirty || q.stage == .home))

/-- Permissions a request needs (R334). -/
def ReqKind.need : ReqKind → Nat
  | .fill | .prefetch _ | .read => permR
  | .commit _ | .write => permW
  | .atomic _ => permR + permW + permA

/-- Whether a request writes. -/
def ReqKind.writes : ReqKind → Bool
  | .commit _ | .write | .atomic _ => true
  | _ => false

/-- The protected input range of another node that a write of bytes of a line would change (R390). -/
def State.protectedBy (s : State) (part : Nat) (node : W32) (va : W64) (line : Nat) (mask : LineMask) (data : LineData) : Option Prot :=
  let old := s.mem.lineData line
  let base := alignDown va.toNat 128
  s.mem.prots.find? fun p => p.part == part && p.node != node &&
    ((List.range 128).any fun i => bit mask i && decide (p.base ≤ base + i ∧ base + i < p.base + p.len) && byteAt old i != byteAt data i)

/-- The input-write fault of a request (R390, R401): it is not performed, and a pending version stays pending. -/
def State.inputFault (s : State) (r : Req) (p : Prot) : State :=
  let s := s.faultAccess r.master r.strm { code := .inputWrite, addr := r.va, det1 := p.node.setWidth 64 }
  s.updMem fun m => { m.dropReq r.id with
    vers := mapIf (fun v => v.closing && v.line == r.line && r.kind != .write) (fun v => { v with closing := false }) m.vers }

/-- The closing version a commit merges: the oldest of its core, phase and line (R246, R282). -/
def Mem.closingVersion (m : Mem) (r : Req) : Option Version :=
  match r.kind with
  | .commit ph => m.vers.find? fun v => v.owner == .pending r.master ph && v.line == r.line && v.closing
  | _ => none

/-- A commit or a releasing store at its home (R282, R302, R369, R387). -/
def State.performWrite (s : State) (r : Req) : State :=
  match s.protectedBy r.part r.node r.va r.line r.mask r.data with
  | some p => s.inputFault r p
  | none =>
    if r.epoch != some (s.epochOf r.ctag) then s.updMem fun m => m.setReq { r with stage := .dirty }
    else
      let s := match s.mem.closingVersion r with
        | some v => s.updMem fun m => { m with vers := m.vers.erase v }
        | none => s
      (s.writeNode r.part r.slot r.ctag r.master r.va r.pa r.mask r.data r.poison r.epoch).updMem fun m => m.setReq { r with stage := .reply }

/-- A read at its home (R281). -/
def State.performRead (s : State) (r : Req) : State :=
  let d := s.mem.homeLine (some r.master) r.part r.slot r.line
  if r.kind = .prefetch true ∨ (r.kind = .prefetch false ∧ d.2 ≠ 0) then s.updMem fun m => m.dropReq r.id
  else s.updMem fun m => m.setReq { r with stage := .reply, data := d.1, poison := d.2 }

/-- The link a request for a device takes (R460): by the device and the line, among the links that are up and reach it. -/
def State.linkFor (s : State) (dev pa : Nat) : Option Nat :=
  let ls := (s.links.filter fun l => l.2.up && l.2.reaches.contains dev).map (·.1)
  if ls.isEmpty then none else ls[(dev.xor (pa / 128 % 1024)) % ls.length]?

/-- A free line, drawn for what a peer answers. -/
def freeLine (n : Nat) : LineData :=
  BitVec.ofNat 1024 (leNat ((List.range 128).map fun i => Config.freeByte (128 * n + i)))

/-- Energy of an access to a line at its home, charged to the cluster of the core that asked (R429, R430): one L2 line access, and as
many DRAM sectors as the cache does not hold, which is a free choice. -/
def State.chargeAccess (s : State) (master loc : Nat) : State :=
  (((s.chargeMaster master 17 1).chargeMaster master (if loc < 2 ^ 41 then 18 else 19) (Config.choice s.free % 5))).drawn

/-- Source of the controller of a line (R403). -/
def controllerSource (line : Nat) : Nat :=
  let u := dramUnit (128 * line)
  if u < 80 then (10 + (u - 64) / 4) * 4096 + (u - 64) % 4 * 64 else (8 + (u - 80) / 2) * 4096 + 8 * 64 + (u - 80) % 2

/-- Correctable errors of a line's sectors are corrected on the read and logged (R448): no value changes. -/
def State.correctLine (s : State) (line : Nat) (ctag : W16) : State :=
  ([0, 1, 2, 3].filter fun i => s.mem.latent.contains (.corrected (4 * line + i))).foldl (fun (s : State) i =>
    let s := s.updMem fun m => { m with latent := m.latent.filter fun l => l != .corrected (4 * line + i) }
    s.logEvent 1 (controllerSource line) (some ctag) 1 (BitVec.ofNat 64 (128 * line + 32 * i)) 0) s

/-- A target refuses a request (R335): it counts it and a notice goes back; a refused prefetch is dropped. -/
def State.refuseReq (s : State) (r : Req) (unit : Option Nat) : State :=
  match r.kind with
  | .prefetch _ => (s.countDenied unit).updMem fun m => m.dropReq r.id
  | _ => (s.countDenied unit).updMem fun m => m.setReq { r with stage := .notice, stamp := s.gtc }

/-- A request is stale at a unit (R348, R349). -/
def State.dropStale (s : State) (r : Req) (unit : Nat) : State :=
  s.updMem fun m => ((m.dropReq r.id).countDrop unit (ctagCtx r.ctag)).discardStale r.line

/-- L2 asks for the line that a request misses (R345, R455): a request at the port of its C-die to the stack. -/
def fetchReq (r : Req) (loc : Nat) : BdReq :=
  { stack := (loc >>> 36) % 16, port := l2Die (loc / 128), tag := 8, kind := 0, len := 3, addr := loc / 128 % 2 ^ 29 * 4, mask := 0, ctag := r.ctag
    data := [], fetch := some r.id }

/-- What a request does at its home when the checks there have passed: at once where L2 holds the line or the request only writes; else
once the line has come from its memory device (R347, R455). -/
def State.withLine (s : State) (r : Req) (loc : Nat) (perform : State → State) : State :=
  let run := fun (s : State) => perform (((s.chargeAccess r.master loc).correctLine (loc / 128) r.ctag).updMem fun m => m.discardStale r.line)
  if !s.mem.l2Misses loc r.kind.need then run s
  else if loc < 2 ^ 41 then
    if s.mem.bd.any fun b => b.fetch == some r.id then s else s.updMem fun m => { m with bd := m.bd ++ [fetchReq r loc] }
  else
    match s.mem.dramCheck loc r.master r.ctag r.pa r.kind.need with
    | .stale u => s.dropStale r u
    | .denied u => s.refuseReq r (some u)
    | .pass => run (s.l2Put (loc / 128) none)

/-- Checks of a request at its home, and what follows when they pass (R334, R335, R348, R460). At a peer, the answer is free. -/
def State.atHome (s : State) (r : Req) (perform : State → State) : State :=
  match destOf s.mem r.pa with
  | .dram loc =>
    match s.mem.check (homeOf loc) r.master r.ctag r.pa r.kind.need with
    | .stale u => s.dropStale r u
    | .denied u => s.refuseReq r (some u)
    | .pass => s.withLine r loc perform
  | .peer dev _ =>
    match s.linkFor dev r.pa with
    | none => s.updMem fun m => m.setReq { r with stage := .lost }
    | some l =>
    if (sget {} s.links l).resync then s
    else if s.peerRefuses r.pa then (((s.chargeMaster r.master 21 1).joinAt (ctagCtx r.ctag) r.pa).refuseReq r none).drawn
    else
    let s := match s.mem.closingVersion r with
      | some v => s.updMem fun m => { m with vers := m.vers.erase v }
      | none => s
    ((s.chargeMaster r.master 21 1).joinAt (ctagCtx r.ctag) r.pa).drawn.updMem fun m =>
      m.setReq { r with stage := .reply, data := freeLine s.free, poison := if r.kind.writes && r.kind.need &&& permR = 0 then 0 else s.peerPoison r.pa }
  | _ => s.refuseReq r none

/-- L2_HOME_ACCESS (R283, R246, R334, R348, R387, R390): a request other than an atomic is performed at its home; a node's write waits while
its staging slot is full. -/
def execL2HomeAccess (id : Nat) (s : State) : Out :=
  match s.mem.findReq id with
  | none => .next s
  | some r =>
    match r.kind with
    | .atomic _ => .next s
    | _ =>
      if r.stage = .home ∧ s.mem.reqReady r = true ∧ !(r.kind.writes && s.stageFull r.part r.slot r.line) then
        .next (s.l2Shed.atHome r fun s => if r.kind.writes then s.performWrite r else s.performRead r)
      else .next s

/-- The new value of an atomic of `size` bytes (R303). -/
def amoResult (op : Nat) (rnd : Rnd) (size : Nat) (old b : Nat) : Nat :=
  let w := 8 * size
  let b := b % 2 ^ w
  match op with
  | 1 => old &&& b
  | 2 => old ||| b
  | 3 => old ^^^ b
  | 4 => if sx w old ≤ sx w b then old else b
  | 5 => if sx w b ≤ sx w old then old else b
  | 6 => Nat.min old b
  | 7 => Nat.max old b
  | 8 => b
  | 9 => (roundTo (Num.add (rnd == .rdn) (fp32Val (old % 2 ^ 32)) (fp32Val (b % 2 ^ 32))) .fp32 rnd false true 0).code
  | _ => (old + b) % 2 ^ w

/-- Size, and the value written, if any, of an atomic over an old value (R170, R303, R304). -/
def AtomOp.apply (op : AtomOp) (old : Nat) : Option Nat :=
  match op with
  | .amo o rnd b size => some (amoResult o rnd size old b.toNat)
  | .cas x y size => if old = nbits x.toNat 0 (8 * size) then some (nbits y.toNat 0 (8 * size)) else none
  | .vadd ty rnd sat vals => some (vals.foldl (fun a v => velem 0x100 ty rnd sat 0 a v 0) old)

/-- Bytes an atomic covers. -/
def AtomOp.size : AtomOp → Nat
  | .amo _ _ _ n => n
  | .cas _ _ n => n
  | .vadd _ _ _ _ => 4

/-- An atomic at its home: on the committed version, in one step (R292). -/
def State.performAtomic (s : State) (r : Req) (op : AtomOp) : State :=
  let line := s.mem.lineData r.line
  let old := lineBytesAt line r.pa op.size
  let mask := byteMask r.pa op.size
  if poisonHit (s.mem.linePoison r.line) r.pa op.size then
    s.updMem fun m => m.setReq { r with stage := .reply, poison := 15 }
  else
    match op.apply old with
    | none => s.updMem fun m => m.setReq { r with stage := .reply, data := BitVec.ofNat 1024 old }
    | some v =>
      match s.protectedBy r.part r.node r.va r.line mask (byteData r.pa v) with
      | some p => s.inputFault r p
      | none =>
        if r.epoch != some (s.epochOf r.ctag) then s.updMem fun m => m.setReq { r with stage := .dirty }
        else
          (s.commitLine r.line mask (byteData r.pa v) 0 r.ctag r.master).updMem fun m =>
            m.setReq { r with stage := .reply, data := BitVec.ofNat 1024 old }

/-- ATOMIC_PERFORM (R292): an atomic is performed at its home; at a peer, what it answers is free. -/
def execAtomicPerform (id : Nat) (s : State) : Out :=
  match s.mem.findReq id with
  | none => .next s
  | some r =>
    match r.kind with
    | .atomic op =>
      if r.stage = .home ∧ s.mem.reqReady r = true then .next (s.l2Shed.atHome r fun s => s.performAtomic r op) else .next s
    | _ => .next s

/-- Give what a request has brought to the word that waits for it, whether frozen, held or set aside by a trap (R295). -/
def State.deliver (s : State) (r : Req) : State :=
  let mine := fun (o : MemOp) => o.strm == r.strm && o.ord == r.ord
  let give := fun (o : MemOp) => { o with got := o.got ++ [(r.line, r.data, r.poison)] }
  s.updCore r.master fun k =>
    let k := { k with memq := mapIf mine give k.memq, savedOps := mapIf mine give k.savedOps }
    k.updStrm r.strm fun st => { st with hold := st.hold.map fun o => if mine o then give o else o }

/-- The link egress that receives the response of a peer (R347, R356). -/
def State.egressOf (s : State) (r : Req) : Option Nat :=
  match destOf s.mem r.pa with
  | .peer dev _ => (s.linkFor dev r.pa).map unitEgress
  | _ => none

/-- RESPONSE_ACCEPT (R350, R356): the link egress, for a peer's response, and the core accept a response, or discard it as an orphan. -/
def execResponseAccept (id : Nat) (s : State) : Out :=
  match s.mem.findReq id with
  | none => .next s
  | some r =>
    if r.stage != .reply then .next s
    else if (s.egressOf r).any fun u => s.mem.staleAt u r.ctag then
      .next (s.updMem fun m => (m.dropReq id).countOrphan ((s.egressOf r).getD 0) (ctagCtx r.ctag))
    else if s.mem.staleAt (unitCore r.master) r.ctag then
      .next (s.updMem fun m => (m.dropReq id).countOrphan (unitCore r.master) (ctagCtx r.ctag))
    else
      match r.kind with
      | .fill | .prefetch _ => .next (s.updMem fun m => m.setReq { r with stage := .arrived })
      | .read => .next ((s.updMem fun m => m.dropReq id).deliver r)
      | .commit _ | .write => .next (s.updMem fun m => m.dropReq id)
      | .atomic _ =>
        let s := s.updMem fun m => m.dropReq id
        if r.poison = 0 then .next (s.deliver r) else .next (s.consumePoison r.master r.pa)

/-- L1_MISS_FILL (R58, R245): the data of a miss enters L1, and serves the word that waits for it; a freely chosen line may leave
L1. -/
def execL1MissFill (id : Nat) (s : State) : Out :=
  match s.mem.findReq id with
  | none => .next s
  | some r =>
    if r.stage = .arrived then
      let d := s.mem.underPending r.master r.line (r.data, r.poison)
      let s := (s.evictOne r.master).updMem fun m => m.dropReq id
      let s := match r.kind with
        | .fill => s.deliver r
        | _ => s
      .next (s.l1Place r.master r.line r.pa r.va r.ctag d.1 d.2)
    else .next s

/-- ACCESS_VIOLATION_NOTICE (R335): the notice frees the slot and faults the context, if its incarnation is current. -/
def execAccessViolationNotice (id : Nat) (s : State) : Out :=
  match s.mem.findReq id with
  | none => .next s
  | some r =>
    if r.stage != .notice then .next s
    else
      let s := s.updMem fun m => { m.dropReq id with
        vers := mapIf (fun v => some v == m.closingVersion r) (fun v => { v with closing := false }) m.vers }
      if s.mem.staleAt (unitCore r.master) r.ctag then
        .next (s.updMem fun m => m.countOrphan (unitCore r.master) (ctagCtx r.ctag))
      else
        let rec_ := { faultRecord s r.master r.strm (violation r.va r.master r.kind.need) with
          gtc := r.stamp, pc := (s.core r.master).waitPc r.strm }
        .next ((s.raiseRecord r.part rec_).updStrm r.master r.strm fun st => { st with trapped := true })

/-- DIRTY_SET_WALK (R369-R371): D of the page of a write is confirmed in the current epoch; it waits while the log is full. -/
def execDirtySetWalk (id : Nat) (s : State) : Out :=
  match s.mem.findReq id with
  | none => .next s
  | some r =>
    if r.stage != .dirty then .next s
    else
    let gone := fun (s : State) => s.updMem fun m => { m.dropReq id with logWait := m.logWait.filter (· != id) }
    match s.walk (walkMaster (clusterOf r.master)) r.ctag r.va with
    | .stale u => .next ((gone s).updMem fun m => m.countDrop u (ctagCtx r.ctag))
    | _ =>
    if s.mem.staleAt (walkerUnit (clusterOf r.master)) r.ctag then .next ((gone s).walkOrphan (clusterOf r.master) r.ctag)
    else
      match s.dirtyWalk (clusterOf r.master) r.ctag r.va id with
      | none => .next (s.waitForLog id)
      | some s => .next (s.updMem fun m => m.setReq { r with stage := .home, epoch := some (s.epochOf r.ctag) })

/-- The fields of an access-table entry that a write changes; its reserved bits keep zero (R6, R333). -/
def accFields (e : W128) : W128 := e &&& BitVec.ofNat 128 ((2 ^ 22 - 1) * 2 ^ 106 + (2 ^ 40 - 1) * 2 ^ 12)

/-- ACCESS_TABLE_ENTRY_APPLY (R336): a target takes its next entry in arbiter order; a write that every target holds is done. -/
def execAccessTableEntryApply (target : Nat) (s : State) : Out :=
  match s.mem.atq.find? fun w => !w.done.contains target with
  | some w =>
    if isTarget target then
      .next (s.updMem fun m =>
        let key := 1024 * target + w.master
        { m with
          acc := if accFields w.entry = accReset w.master then serase m.acc key else sinsert m.acc key (accFields w.entry)
          atq := (mapIf (fun x => x.id == w.id) (fun x => { x with done := x.done ++ [target] }) m.atq).filter fun x =>
            (List.range unitCount).any fun u => isTarget u && !x.done.contains u })
    else .next s
  | none => .next s

end Sys2Proof.Machine
end

