-- ==== Sys2Proof/Machine/LoadStore.lean ====
section
/-! DEFINITION. Loads, stores, prefetches and the trap word of the control core (R131-R135, R144), and the memory accesses of the
vector engine (R167-R170). -/

namespace Sys2Proof.Machine

/-! ## Control core -/

/-- The size in bytes of MOD[1:0] (R131). -/
def accSize (t : Tpl) : Nat := 1 <<< field t.mod 0 2

/-- The `.sp` bit (R131, R167). -/
def isSp (t : Tpl) : Bool := bit t.mod 3

/-- The acquire scope of a word, if it acquires (R132, R297). -/
def acqScope (o : Nat) (t : Tpl) : Option Nat := if (ordOf o t).testBit 0 then some (scopeOf o t) else none

/-- The release scope of a word, if it releases. -/
def relScope (o : Nat) (t : Tpl) : Option Nat := if (ordOf o t).testBit 1 then some (scopeOf o t) else none

/-- One lane at an address. -/
def oneLane (a : W64) (size data : Nat) : List Lane := [{ lane := 0, va := a.toNat, size := size, data := data }]

/-- A release before a word: commit everything written, then publish (R287, R302). -/
def MemOp.releasing (op : MemOp) (rel : Option Nat) : MemOp :=
  match rel with
  | some j => { op with commit := some .all, pub := some j }
  | none => op

/-- The checks of a scalar access (R133). -/
def scalarCheck (size : Nat) (sp write : Bool) (t : Tpl) (s : State) : Option FaultInfo :=
  let ea := s.ea t
  if ea.toNat % size != 0 then some (misaligned ea size)
  else if sp then s.spCheck write (oneLane ea size 0)
  else none

/-- The word of a scalar load. -/
def loadOp (o : Nat) (t : Tpl) (sp : Bool) (s : State) : MemOp :=
  { s.newOp (.load (bit t.mod 2)) t.dst (if sp then 4 else 12) with
    sp := sp, lanes := oneLane (s.ea t) (accSize t) 0, acq := acqScope o t, scope := scopeOf o t }

/-- The word of a scalar store: a releasing one holds its context (R295, R302). -/
def storeOp (o : Nat) (t : Tpl) (sp : Bool) (rel : Option Nat) (s : State) : MemOp :=
  let op : MemOp := { s.newOp .store 0 1 with
    sp := sp, lanes := oneLane (s.ea t) (accSize t) ((s.opb t).toNat % 256 ^ accSize t), scope := scopeOf o t
    hold := if rel.isSome then some .mem else none }
  op.releasing rel

/-- LD (R131-R134). -/
def execLd (t : Tpl) (s : State) : Out :=
  issueMem 0x030 t (scalarCheck (accSize t) (isSp t) false t) none id (loadOp 0x030 t (isSp t)) s

/-- ST (R131-R134). -/
def execSt (t : Tpl) (s : State) : Out :=
  issueMem 0x031 t (scalarCheck (accSize t) (isSp t) true t) none id (storeOp 0x031 t (isSp t) (relScope 0x031 t)) s

/-- PF (R135): a request for the line, at once or after the walk that it misses for; what fails translation or the checks is dropped
without a record. -/
def execPf (t : Tpl) (s : State) : Out :=
  issue 0x032 t (fun s =>
    let c := s.cur.core
    let va := s.ea t
    let ctag := s.curCore.theJob.ctag
    match s.mem.translate (clusterOf c) ctag va permR with
    | .miss => s.startWalk (clusterOf c) ctag va (.prefetch c s.cur.strm (bit t.mod 0))
    | .lacks _ => s
    | .hit pa _ => s.sendPrefetch c s.cur.strm (bit t.mod 0) va pa) s

/-! ## Vector engine -/

/-- The active lanes of a vector word at consecutive addresses (R167). -/
def vectorLanes (g ea : W64) (data : Vec) : List Lane :=
  ((List.range 64).filter fun i => bit g i).map fun i =>
    { lane := i, va := (ea + BitVec.ofNat 64 (4 * i)).toNat, size := 4, data := lane data i }

/-- The checks of the lanes of a vector word with base `a`; a word without lanes raises nothing (R133, R167, R169). -/
def vectorCheck (a : W64) (sp write : Bool) (lanes : List Lane) (s : State) : Option FaultInfo :=
  if a.toNat % 4 != 0 && !lanes.isEmpty then some (misaligned a 4)
  else if sp then s.spCheck write lanes
  else none

/-- Whether a scratchpad address is in the issuing core's own scratchpad, so that the checker sees it (R269). -/
def State.ownSp (s : State) (a : W64) : Bool :=
  !bit a 27 || field a 24 3 == s.cur.core % 8

/-- The range of `n` bytes at a scratchpad address, first and last (R168). -/
def spRange (a : W64) (n : Nat) : List (Nat × Nat) := if n = 0 then [] else [(field a 0 24, field a 0 24 + n - 1)]

/-- The ranges of a vector scratchpad word for the checker (R168). -/
def vxRanges (s : State) (sp : Bool) (a : W64) (n : Nat) (rd wr : Bool) : Option (List (Nat × Nat) × List (Nat × Nat)) :=
  if sp && s.ownSp a then some (if rd then spRange a n else [], if wr then spRange a n else []) else none

/-- The post-increment of `vld` and `vst`: sa := opa + imm after 4 cycles (R167). -/
def postInc (t : Tpl) (s : State) : State := if bit t.mod 2 then s.landWord t.sa 4 (s.ea t) else s

/-- VLD (R167, R168). -/
def execVld (t : Tpl) (s : State) : Out :=
  let sp := isSp t
  let lanes := fun (s : State) => vectorLanes (s.guard t) (s.ea t) 0
  issueMem 0x190 t (fun s => vectorCheck (s.ea t) sp false (lanes s) s) (vxRanges s sp (s.ea t) 256 true false) (postInc t)
    (fun s => { s.newOp (.vload (s.vreg t.dst)) t.dst (if sp then 6 else 14) with
      sp := sp, lanes := lanes s, acq := acqScope 0x190 t, scope := scopeOf 0x190 t }) s

/-- VST (R167, R168). -/
def execVst (t : Tpl) (s : State) : Out :=
  let sp := isSp t
  let lanes := fun (s : State) => vectorLanes (s.guard t) (s.ea t) (s.vreg t.sb)
  let rel := relScope 0x191 t
  issueMem 0x191 t (fun s => vectorCheck (s.ea t) sp true (lanes s) s) (vxRanges s sp (s.ea t) 256 false true) (postInc t)
    (fun s => ({ s.newOp .store 0 1 with
      sp := sp, lanes := lanes s, scope := scopeOf 0x191 t, hold := if rel.isSome then some .mem else none } : MemOp).releasing rel) s

/-- The index of lane `i` (R169). -/
def laneIndex (t : Tpl) (s : State) (i : Nat) : Nat := lane (s.vreg t.sb) i

/-- Whether an index is to be skipped, or lies beyond the bound (R169). -/
def indexSkips (k : Nat) : Bool := k == 0xFFFFFFFF
def indexOut (t : Tpl) (k : Nat) : Bool := !indexSkips k && t.imm != 0 && t.imm.toNat ≤ k

/-- The lanes a gather or scatter touches, in ascending order (R169). -/
def indexedLanes (t : Tpl) (s : State) (data : Vec) : List Lane :=
  ((List.range 64).filter fun i => bit (s.guard t) i && !indexSkips (laneIndex t s i) && !indexOut t (laneIndex t s i)).map
    fun i => { lane := i, va := (s.opa t + BitVec.ofNat 64 (4 * laneIndex t s i)).toNat, size := 4, data := lane data i }

/-- The lanes whose index is out of range: they set FMASK (R169). -/
def outLanes (t : Tpl) (s : State) : W64 := ofBits 64 fun i => bit (s.guard t) i && indexOut t (laneIndex t s i)

/-- The bytes a gather or scatter may touch: `4 IMM` from opa, or the whole scratchpad (R168). -/
def indexedRanges (s : State) (t : Tpl) (rd wr : Bool) : Option (List (Nat × Nat) × List (Nat × Nat)) :=
  let r := if t.imm = 0 then [(0, spSize s.curCore.theJob - 1)] else spRange (s.opa t) (4 * t.imm.toNat)
  if isSp t && s.ownSp (s.opa t) then some (if rd then r else [], if wr then r else []) else none

/-- The FMASK bits of a scatter land after 4 cycles (R169). -/
def scatterMask (t : Tpl) (s : State) : State :=
  if outLanes t s = 0 then s else s.updCur fun k => k.addPend s.cur.strm .fmask 4 (.orBits (outLanes t s))

/-- VLDX (R169). -/
def execVldx (t : Tpl) (s : State) : Out :=
  let lanes := fun (s : State) => indexedLanes t s 0
  issueMem 0x192 t (fun s => vectorCheck (s.opa t) (isSp t) false (lanes s) s) (indexedRanges s t true false) id
    (fun s => { s.newOp (.gather (s.vreg t.dst) (outLanes t s)) t.dst 16 with
      sp := isSp t, lanes := lanes s, acq := acqScope 0x192 t, scope := scopeOf 0x192 t }) s

/-- VSTX (R169). -/
def execVstx (t : Tpl) (s : State) : Out :=
  let lanes := fun (s : State) => indexedLanes t s (s.vreg t.sc)
  let rel := relScope 0x193 t
  issueMem 0x193 t (fun s => vectorCheck (s.opa t) (isSp t) true (lanes s) s) (indexedRanges s t false true) (scatterMask t)
    (fun s => ({ s.newOp .store 0 1 with
      sp := isSp t, lanes := lanes s, scope := scopeOf 0x193 t, hold := if rel.isSome then some .mem else none } : MemOp).releasing rel) s

/-- VSTX_ADD (R170): on a virtual address the adds of each location are one atomic at its home. -/
def execVstxAdd (t : Tpl) (s : State) : Out :=
  let lanes := fun (s : State) => indexedLanes t s (s.vreg t.sc)
  let rel := relScope 0x194 t
  let acq := acqScope 0x194 t
  issueMem 0x194 t (fun s => vectorCheck (s.opa t) (isSp t) true (lanes s) s) (indexedRanges s t true true) (scatterMask t)
    (fun s => ({ s.newOp (.scatterAdd (vtypeOf 0x194 t) (rndOf 0x194 t) (satOf 0x194 t)) 0 1 with
      sp := isSp t, lanes := lanes s, acq := acq, scope := scopeOf 0x194 t
      hold := if rel.isSome || acq.isSome then some .mem else none } : MemOp).releasing rel) s

end Sys2Proof.Machine
end

