-- ==== Sys2Proof/Machine/Sync.lean ====
section
/-! DEFINITION. Synchronisation words (R294-R306) and the team barrier (R39, R40, R243, R244). `fence` stands with the engines it
waits for. -/

namespace Sys2Proof.Machine

/-! ## Starting streams (R33, R296) -/

/-- The streams `fork` can start, bits 0 to 4 of its mask (R296). -/
def forkStreams : List StreamId := [.cl, .cs, .vx, .mx, .cx]

/-- Start stream `e` of a core at an entry, or set FORKDUP in the issuing stream (R33). -/
def startStream (e : StreamId) (entry : W64) (s : State) : State :=
  if entry = 0 ∨ (s.curCore.strm e).started then s.warnBit .forkdup
  else s.updStrm s.cur.core e fun st => { st with started := true, pc := entry }

/-- The header entry of a stream (R24). -/
def Job.entryOf (j : Job) (e : StreamId) : W64 := j.entry.getD e.code 0

/-- FORK (R296). -/
def execFork (t : Tpl) (s : State) : Out :=
  issue 0x090 t (fun s =>
    if s.cur.strm != .cc then s.warnBit .forkctx
    else
      foldUpTo 5 (fun s i =>
        if bit t.mod i then
          let e := forkStreams.getD i .cl
          startStream e (s.curCore.theJob.entryOf e) s
        else s) s) s

/-- FORK_R (R296). -/
def execForkR (t : Tpl) (s : State) : Out :=
  issue 0x090 t (fun s =>
    if s.cur.strm != .cc then s.warnBit .forkctx
    else
      match forkStreams[field t.mod 0 3]? with
      | some e => startStream e (s.opa t) s
      | none => s.warnBit .forkdup) s

/-! ## Phases and orders (R297-R302) -/

/-- A word that holds its context for commits, a publication and an acquire (R295). -/
def holdOp (s : State) (kind : HoldKind) (dst : BitVec 8) : MemOp := { s.newOp .none dst 1 with hold := some kind }

/-- Issue a holding word. -/
def issueHold (o : Nat) (t : Tpl) (mk : State → MemOp) (s : State) : Out := issue o t (fun s => s.pushOp (mk s)) s

/-- PHASE (R280, R297). -/
def execPhase (t : Tpl) (s : State) : Out :=
  issueHold 0x091 t (fun s =>
    { holdOp s .mem 0 with commit := some .all, newPhase := true, pub := relScope 0x091 t, acq := acqScope 0x091 t }) s

/-- PUB (R298). -/
def execPub (t : Tpl) (s : State) : Out :=
  issueHold 0x092 t (fun s =>
    let lo := (s.opa t).toNat
    let n := (s.opb t).toNat
    { holdOp s .mem 0 with
      commit := some (if n = 0 then .all else .range lo (Nat.min (lo + n) (2 ^ 64))), pub := some (scopeOf 0x092 t) }) s

/-- ACQ (R299). -/
def execAcq (t : Tpl) (s : State) : Out :=
  issueHold 0x093 t (fun s => { holdOp s .mem 0 with acq := some (scopeOf 0x093 t) }) s

/-- LD_ACQ (R301): the load reads at the home, then acquires; a release order is dropped. -/
def execLdAcq (t : Tpl) (s : State) : Out :=
  issueMem 0x095 t (scalarCheck (accSize t) false false t) none id
    (fun s => { loadOp 0x095 t false s with acq := some (scopeOf 0x095 t) }) s

/-- ST_REL (R302): an acquire order is dropped. -/
def execStRel (t : Tpl) (s : State) : Out :=
  issueMem 0x096 t (scalarCheck (accSize t) false true t) none id (storeOp 0x096 t false (some (scopeOf 0x096 t))) s

/-! ## Atomics (R303, R304) -/

/-- The operation of MOD[3:0]: undefined codes are an add (R303, row 17). -/
def amoCode (t : Tpl) : Nat := if field t.mod 0 4 ≤ 9 then field t.mod 0 4 else 0

/-- The size of an atomic: `.fadd` is 4 bytes only (R303). -/
def amoSize (t : Tpl) : Nat := if bit t.mod 4 && amoCode t != 9 then 8 else 4

/-- The word of an atomic of opcode `o`. -/
def atomicOp (o : Nat) (t : Tpl) (kind : State → MemKind) (size : Nat) (dst : BitVec 8) (held : Bool) (s : State) : MemOp :=
  let rel := relScope o t
  let acq := acqScope o t
  let op : MemOp := { s.newOp (kind s) dst 12 with
    lanes := oneLane (s.ea t) size 0, acq := acq, scope := scopeOf o t
    hold := if held && (rel.isSome || acq.isSome) then some .mem else none }
  op.releasing rel

/-- AMO (R303). -/
def execAmo (t : Tpl) (s : State) : Out :=
  issueMem 0x097 t (scalarCheck (amoSize t) false true t) none id
    (atomicOp 0x097 t (fun s => .amo (amoCode t) (rndOf 0x097 t) (s.opb t) false) (amoSize t) 0 true) s

/-- AMOF (R303): sd takes the old value. -/
def execAmof (t : Tpl) (s : State) : Out :=
  issueMem 0x098 t (scalarCheck (amoSize t) false true t) none id
    (atomicOp 0x098 t (fun s => .amo (amoCode t) (rndOf 0x098 t) (s.opb t) true) (amoSize t) t.dst false) s

/-- CAS (R293, R304). -/
def execCas (t : Tpl) (s : State) : Out :=
  let size := if bit t.mod 4 then 8 else 4
  issueMem 0x099 t (scalarCheck size false true t) none id
    (atomicOp 0x099 t (fun s => .cas (s.opb t) (s.opc t) (bit t.mod 0)) size t.dst false) s

/-! ## Team barrier (R40, R305, R306) -/

/-- The team of the job on core `c`. -/
def State.teamOf (s : State) (c : Nat) : Option Team :=
  s.teams.find? fun u => u.members.contains c

/-- Change the team of a core. -/
def State.updTeam (s : State) (c : Nat) (f : Team → Team) : State :=
  { s with teams := mapIf (fun u => u.members.contains c) f s.teams }

/-- Whether the arrivals of a generation disagree about a carve-out (R306). -/
def disagrees (vs : List (Option W64)) : Bool :=
  match vs with
  | [] => false
  | v :: vs => vs.any fun u => u != v

/-- TEAM_BARRIER_COMPLETE (R40, R243): the open generation completes once every core present at its opening has arrived or
retired; a `carve` then sets the new L1SL on its way to every core. A disagreement is the carve-invalid fault of the core whose
arrival or retirement closed it. -/
def State.closeGeneration (s : State) (c : Nat) (u : Team) : State :=
  let mine := u.arrived.filter fun a => u.present.contains a.1
  let same := fun (v : Team) => v.cluster == u.cluster && v.ctx == u.ctx && v.node == u.node && v.run == u.run
  if u.present.all fun d => !u.members.contains d || mine.any fun a => a.1 == d then
    if disagrees (mine.map (·.2)) then
      s.fault c .cc { code := .carveInvalid, det1 := ((mine.filterMap (·.2)).headD 0) }
    else
      let next := ((mine.filterMap (·.2)).headD (BitVec.ofNat 64 u.l1sl)).toNat
      let s := { s with teams := mapIf same (fun v =>
        { v with gen := v.gen + 1, present := v.members, l1sl := next
                 arrived := v.arrived.filter fun a => !v.present.contains a.1 }) s.teams }
      if next = u.l1sl then s
      else u.members.foldl (fun s d => s.updCore d fun k => { k with carveTo := some next }) s
  else s

/-- The open generation of a team completes if it can, and then the next one, all of whose members may have arrived already. -/
def State.closeGenerations (s : State) (c : Nat) (u : Team) : State :=
  let t := s.closeGeneration c u
  match t.teams.find? fun v => v.cluster == u.cluster && v.ctx == u.ctx && v.node == u.node && v.run == u.run with
  | some v => if v.gen = u.gen then t else t.closeGeneration c v
  | none => t

/-- A job arrives at its team's barrier: a job that joined while the generation is open counts toward the next one. -/
def State.arrive (s : State) (c : Nat) (v : Option W64) : State :=
  let s := s.updTeam c fun u => { u with arrived := u.arrived ++ [(c, v)] }
  match s.teamOf c with
  | some u => s.closeGenerations c u
  | none => s

/-- The generation that an arrival of core `c` now counts toward. -/
def State.awaited (s : State) (c : Nat) : Nat :=
  match s.teamOf c with
  | some u => if u.present.contains c then u.gen else u.gen + 1
  | none => 0

/-- The word of a barrier: in CC it releases and arrives, in CL and CS it waits for the next completion (R305). -/
def barrierOp (o : Nat) (t : Tpl) (carve : Option W64) (s : State) : MemOp :=
  let cc := s.cur.strm == .cc
  let g := if cc then s.awaited s.cur.core else ((s.teamOf s.cur.core).map (·.gen)).getD 0
  let op : MemOp := { holdOp s (.barrier carve (!cc) g) t.dst with acq := if (ordOf o t).testBit 0 then some 1 else none }
  op.releasing (if cc && (ordOf o t).testBit 1 then some 1 else none)

/-- TBARW (R305). -/
def execTbarw (t : Tpl) (s : State) : Out := issueHold 0x09A t (barrierOp 0x09A t none) s

/-- CARVE (R306): a bad value, or a `carve` in CL or CS, is the carve-invalid fault. -/
def execCarve (t : Tpl) (s : State) : Out :=
  if s.guard0 t && (s.cur.strm != .cc || (s.opa t).toNat < 16 || 48 < (s.opa t).toNat) then
    .next (s.faultCur { code := .carveInvalid, det1 := s.opa t })
  else issueHold 0x09B t (fun s => barrierOp 0x09B t (some (s.opa t)) s) s

/-- A held barrier word (R305, R306): it arrives, waits for its generation and its carve-out, and ends with the generation
number in sd. -/
def State.advanceBarrier (s : State) (c : Nat) (op : MemOp) (carve : Option W64) (arrived : Bool) (gen : Nat) : State × MemOp :=
  if !arrived then (s.arrive c carve, { op with hold := some (.barrier carve true gen) })
  else
    match s.teamOf c with
    | none => s.finishOp c op
    | some u =>
      if u.gen ≤ gen ∨ (carve.isSome ∧ (s.core c).carveTo.isSome) then (s, op)
      else (s.landHeld c op (BitVec.ofNat 64 (u.gen % 2 ^ 32))).finishOp c op

/-- Whether a matrix command accesses scratchpad, the core's own or through a team window (R203, R223, R243). -/
def mxNamesSp (o : Nat) (t : Tpl) : Bool :=
  match o with
  | 0x200 => !bit t.mod 3 || (field t.mod 0 2 != 0 && field t.mod 0 2 != 3)
  | 0x201 | 0x206 | 0x207 => !bit t.mod 3
  | 0x210 => field t.mod 0 3 == 2 || field t.mod 0 3 == 3 || field t.mod 0 3 == 5
  | 0x211 | 0x212 => true
  | _ => false

/-- Whether a command of the copy queue accesses scratchpad (R243, R252). -/
def CopyKind.namesSp : CopyKind → Bool
  | .copy p _ => nbits p.toNat 32 8 == 1 || nbits p.toNat 40 8 == 1
  | .post _ _ _ => false
  | .fe _ _ _ | .lbset _ _ | .advance _ _ _ _ | .halo _ _ _ _ _ _ _ _ => true

/-- Whether every command of a core's engines that names scratchpad, its own or through a team window, and every tile instruction that it
issued has completed (R243). -/
def Core.carveQuiet (k : Core) : Bool :=
  let mx := fun (c : MxCmd) => mxNamesSp c.o c.t
  k.ranges.isEmpty && k.tilesOut.isEmpty && k.mx.nmvs.isEmpty && !(k.memq.any fun o => o.strm == StreamId.vx && o.sp)
    && !(k.mx.queue.any mx || k.mx.running.any fun r => !r.landed && mx r.cmd) && !(k.cx.queue.any fun q => q.kind.namesSp)

/-- Scratchpad lines at or beyond an offset are discarded (R244). -/
def Core.cutScratchpad (k : Core) (size : Nat) : Core := { k with sp := k.sp.filter fun e => e.1 < size / 128 }

/-- CARVE_APPLY (R243, R244): a new carve-out comes into force on a core. When L1 shrinks, the lines whose slices leave it are
written back or dropped: which lines lie there is a free choice, since placement is not architectural. -/
def execCarveApply (c : Nat) (s : State) : Out :=
  match (s.core c).carveTo with
  | none => .next s
  | some v =>
    let k := s.core c
    if !k.carveQuiet then .next s
    else
      let n := s.free
      let s := if v < k.theJob.l1sl then
          s.drawn.dropLines c fun l => (Config.choice n >>> (l.loc % 4096)) % 2 == 1
        else s
      .next ((s.updCore c fun k =>
        let j := { k.theJob with l1sl := v }
        { (k.cutScratchpad (spSize j)) with job := k.job.map fun i => { i with l1sl := v }, carveTo := none }).l1Fit c)

end Sys2Proof.Machine
end

