-- ==== Sys2Proof/Machine/Engine.lean ====
section
/-! DEFINITION. How an engine or a unit reaches memory in one step: through its translation cache, the checks of the home, and
the version it reads or writes (R255, R279, R291, R334, R361, R368, R387, R390). -/

namespace Sys2Proof.Machine

/-- For whom an engine or a unit works. -/
structure Party where
  /-- Master ID and translation cache (R332, R364). -/
  master : Nat
  unit : Nat
  ctag : W16
  part : Nat
  /-- Staging slot of the node's writes (R387). -/
  slot : Option Nat
  node : W32
  /-- The core whose own written bytes it sees. -/
  core : Option Nat
  /-- Who takes its translation faults. -/
  waiter : Waiter
  /-- Its reads are checked at the base die of their stack, not at the home (R334: `nmv`). -/
  die : Bool := false
  /-- It waits for room in the dirty log under this number (R371). -/
  who : Nat
  deriving DecidableEq, Repr

/-- An engine of core `c`. -/
def State.engineParty (s : State) (c : Nat) (e : StreamId) : Party :=
  let j := (s.core c).theJob
  { master := c, unit := clusterOf c, ctag := j.ctag, part := j.part, slot := j.slot, node := j.node, core := some c
    waiter := .strm c e, who := 2 ^ 40 + 8 * c + e.code }

/-- Why an access does not go on now. -/
inductive Stop where
  /-- It waits; the state holds what it has set going. -/
  | wait (s : State)
  | bad (f : FaultInfo)
  /-- Its CTAG is stale: it is dropped at the unit (R348). -/
  | stale (unit : Nat)
  /-- It read a poisoned sector at this physical address, where the access itself consumes (R449). -/
  | poison (pa : Nat)
  deriving Repr

/-- What an access gives. -/
abbrev Acc (α : Type) := Except Stop α

/-- The checks of one physical address, found at virtual address `va` (R334, R335, R348, R460). -/
def State.reachPa (s : State) (p : Party) (va : W64) (pa need : Nat) : Acc Nat :=
  match destOf s.mem pa with
  | .dram loc =>
    match (if p.die then s.mem.dramCheck loc p.master p.ctag pa need else s.mem.checkAt loc p.master p.ctag pa need) with
    | .pass => .ok pa
    | .stale u => .error (.stale u)
    | .denied u => .error (.bad (refusal u va p.master need))
  | .peer _ _ => if s.peerRefuses pa then .error (.bad (violation va p.master need)) else .ok pa
  | _ => .error (.bad (violation va p.master need))

/-- Translate one address and make the checks of its target (R334, R361). -/
def State.reach (s : State) (p : Party) (va : W64) (need : Nat) : Acc Nat :=
  match s.mem.translate p.unit p.ctag va (need &&& 30) with
  | .miss => .error (.wait (s.startWalk p.unit p.ctag va p.waiter))
  | .lacks level => .error (.bad (translationFault va 5 level))
  | .hit pa _ => s.reachPa p va pa need

/-- A line as an engine operation of a core sees it: the core's own dirty bytes over what it reads at the home (R255). -/
def State.engineLine (s : State) (p : Party) (pa : Nat) : LineData × BitVec 4 :=
  match destOf s.mem pa with
  | .peer _ _ => (freeLine s.free, s.peerPoison pa)
  | _ =>
    let h := s.mem.homeLine p.core p.part p.slot (lineOf pa)
    match p.core with
    | some c =>
      match (s.core c).l1Find (lineOf pa) p.ctag with
      | some l => (mergeLine h.1 l.data l.dirty, mergePoison l.dirty h.2 0)
      | none => h
    | none => h

/-- A line as a phased read of a core sees it: every valid byte of L1 first (R279, R281). -/
def State.phasedLine (s : State) (p : Party) (pa : Nat) : LineData × BitVec 4 :=
  match p.core with
  | some c =>
    match (s.core c).l1Find (lineOf pa) p.ctag with
    | some l =>
      let h := s.engineLine p pa
      (mergeLine h.1 l.data l.valid, mergePoison l.valid h.2 l.poison)
    | none => s.engineLine p pa
  | none => s.engineLine p pa

/-- Bytes `[off, off + n)` of a line with their marks. -/
def pieceBytes (l : LineData × BitVec 4) (off n : Nat) : List PByte :=
  (List.range n).map fun i => (byteAt l.1 (off + i), bit l.2 ((off + i) / 32))

/-- A range of addresses cut at line boundaries: first address and length of each piece. -/
def linePieces (a n : Nat) : List (Nat × Nat) :=
  (List.range ((a + n + 127) / 128 - a / 128)).map fun j =>
    let lo := Nat.max a (128 * (a / 128 + j))
    let hi := Nat.min (a + n) (128 * (a / 128 + j) + 128)
    (lo, hi - lo)

/-- Read virtual bytes; `phased`: through L1 as the core's own reads go. -/
def State.readVirt (s : State) (p : Party) (phased : Bool) (need : Nat) (va n : Nat) : Acc (List PByte) :=
  (linePieces va n).foldlM (fun acc q => do
    let pa ← s.reach p (BitVec.ofNat 64 q.1) need
    let l := if phased then s.phasedLine p pa else s.engineLine p pa
    pure (acc ++ pieceBytes l (pa % 128) q.2)) []

/-- A number of bytes read. -/
def natOfP (bs : List PByte) : Nat := leNat (bs.map (·.1))

/-- Whether a read consumed poison (R449). -/
def poisonedP (bs : List PByte) : Bool := bs.any (·.2)

/-- Mask, data and poison of a piece at offset `off` of a line. -/
def pieceLine (off : Nat) (bs : List PByte) : LineMask × LineData × BitVec 4 :=
  (byteMask off bs.length, byteData off (leNat (bs.map (·.1))),
    ofBits 4 fun i => ((List.range bs.length).any fun j => (off % 128 + j) / 32 == i && (bs.getD j (0, false)).2))

/-- D of the page of a write is confirmed, by a walk if need be (R368, R369). -/
def State.confirmPage (s : State) (p : Party) (va : W64) : Acc State :=
  if s.dirtyKnown p.unit p.ctag va then .ok s
  else
    match s.dirtyWalk p.unit p.ctag va p.who with
    | some s => .ok s
    | none => .error (.wait (s.waitForLog p.who))

/-- One piece of an engine write, performed at the home of its line (R255, R291): its physical line. It waits while the node's staging slot is
full (R387). -/
def State.writePiece (s : State) (p : Party) (need va : Nat) (bs : List PByte) : Acc (State × Nat) := do
  let pa ← s.reach p (BitVec.ofNat 64 va) need
  let s ← s.confirmPage p (BitVec.ofNat 64 va)
  let (mask, data, poison) := pieceLine pa bs
  match s.protectedBy p.part p.node (BitVec.ofNat 64 va) (lineOf pa) mask data with
  | some q => .error (.bad { code := .inputWrite, addr := BitVec.ofNat 64 va, det1 := q.node.setWidth 64 })
  | none =>
    if (locOf pa).isNone then pure (s.joinAt (ctagCtx p.ctag) pa, alignDown pa 128)
    else if s.stageFull p.part p.slot (lineOf pa) then .error (.wait s)
    else
      pure (s.writeNode p.part p.slot p.ctag p.master (BitVec.ofNat 64 (alignDown va 128)) (alignDown pa 128) mask data poison
        (some (s.epochOf p.ctag)), alignDown pa 128)

/-- Write virtual bytes as an engine operation: the state, and the physical lines written. -/
def State.writeVirt (s : State) (p : Party) (need va : Nat) (bs : List PByte) : Acc (State × List Nat) := do
  let (s, pas, _) ← (linePieces va bs.length).foldlM (fun (acc : State × List Nat × List PByte) q => do
    let (s, pa) ← acc.1.writePiece p need q.1 (acc.2.2.take q.2)
    pure (s, acc.2.1 ++ [pa], acc.2.2.drop q.2)) (s, [], bs)
  pure (s, pas)

/-- A phased write of a core's engine: into L1 and the current phase (R279, R281). -/
def State.writePhased (s : State) (p : Party) (c va : Nat) (bs : List PByte) : Acc State := do
  let (s, _) ← (linePieces va bs.length).foldlM (fun (acc : State × List PByte) q => do
    let pa ← acc.1.reach p (BitVec.ofNat 64 q.1) permW
    let (mask, data, _) := pieceLine pa (acc.2.take q.2)
    let s := if (locOf pa).isSome then acc.1.l1Store c pa (BitVec.ofNat 64 q.1) p.ctag mask data
      else
        (acc.1.updCore c fun k => k.sign pa).updMem fun m => m.addVersion
          { owner := .pending c (acc.1.core c).phase.toNat, line := lineOf pa, mask := mask, data := data, ctag := p.ctag
            va := BitVec.ofNat 64 (alignDown q.1 128), pa := alignDown pa 128 }
    pure (s, acc.2.drop q.2)) (s, bs)
  pure s

/-- The lines of a phased read enter L1: a miss of a load allocates (R245). -/
def State.l1Bring (s : State) (p : Party) (c va n : Nat) : State :=
  (linePieces va n).foldl (fun s q =>
    let v := BitVec.ofNat 64 q.1
    match s.mem.translate p.unit p.ctag v permR with
    | .hit pa _ =>
      if (locOf pa).isNone then s
      else
        let d := s.phasedLine p pa
        s.l1Place c (lineOf pa) pa v p.ctag d.1 d.2
    | _ => s) s

/-- A write of a core's engine that belongs to phase `ph`, which has ended (R280, R282): the core's own clean copy follows, and the bytes
commit at once as that phase's. -/
def State.writeClosed (s : State) (p : Party) (c ph seq va : Nat) (bs : List PByte) : Acc State := do
  let (s, _) ← (linePieces va bs.length).foldlM (fun (acc : State × List PByte) q => do
    let pa ← acc.1.reach p (BitVec.ofNat 64 q.1) permW
    let (mask, data, _) := pieceLine pa (acc.2.take q.2)
    let v : Version :=
      { owner := .pending c ph, line := lineOf pa, mask := mask, data := data, ctag := p.ctag, va := BitVec.ofNat 64 (alignDown q.1 128)
        pa := alignDown pa 128, closing := true }
    let s := (acc.1.updCore c fun k => (k.sign pa).l1Follow (lineOf pa) p.ctag mask data).updMem fun m => { m with vers := v :: m.vers }
    pure ((s.sendCommit c .mx (2 ^ 41 + seq) ph v).1, acc.2.drop q.2)) (s, bs)
  pure s

/-! ## Scratchpad, as the engines of a core reach it -/

/-- Bytes of a core's scratchpad; none while a line of them is empty (R242). -/
def Core.spBytes (k : Core) (off n : Nat) : Option (List PByte) :=
  if (linePieces off n).all fun q => (k.spLine (q.1 / 128)).full then
    some ((linePieces off n).flatMap fun q =>
      let l := k.spLine (q.1 / 128)
      pieceBytes (l.data, l.poison) (q.1 % 128) q.2)
  else none

/-- The target of a scratchpad range whose every line must lie inside (R238, R256). -/
def State.spRangeTarget (s : State) (c a n : Nat) (write : Bool) : Option (Nat × Nat) :=
  match s.spTarget c a write with
  | some (d, off) => if n = 0 ∨ off + n ≤ spSize (s.core c).theJob then some (d, off) else none
  | none => none

/-- The first address of a scratchpad range that fails (R256). -/
def State.spFirstBad (s : State) (c a n : Nat) (write : Bool) : Nat :=
  match s.spTarget c a write with
  | some (_, off) => if off + n ≤ spSize (s.core c).theJob then a else a + (spSize (s.core c).theJob - off)
  | none => a

/-- Add bytes to the lines a command will fill (R255). -/
def bufAdd (b : LineBuf) (line : Nat) (mask : LineMask) (data : LineData) (poison : BitVec 4) : LineBuf :=
  if b.any fun e => e.1 == line then
    mapIf (fun e => e.1 == line)
      (fun e => (line, e.2.1 ||| mask, mergeLine e.2.2.1 data mask, mergePoison mask e.2.2.2 poison)) b
  else b ++ [(line, mask, data, poison)]

/-- Add a byte range to such a buffer. -/
def bufRange (b : LineBuf) (off : Nat) (bs : List PByte) : LineBuf :=
  ((linePieces off bs.length).foldl (fun (acc : LineBuf × List PByte) q =>
    let (mask, data, poison) := pieceLine q.1 (acc.2.take q.2)
    (bufAdd acc.1 (q.1 / 128) mask data poison, acc.2.drop q.2)) (b, bs)).1

/-- A buffer's lines fill at the end of the engine cycle, with their poison (R240, R255). `rank` as in `spWrite`. -/
def Core.fillBuf (k : Core) (rank : Nat) (b : LineBuf) : Core :=
  b.foldl (fun k e =>
    let k := k.spWrite rank e.1 e.2.1 e.2.2.1
    if e.2.2.2 = 0 then k else { k with spPoison := k.spPoison ++ [(e.1, e.2.2.2)] }) k

/-- The physical address that a unit's cache gives, if it does. -/
def State.paOf (s : State) (p : Party) (va : W64) : Nat :=
  match s.mem.translate p.unit p.ctag va 0 with
  | .hit pa _ => pa
  | _ => 0

/-- The physical address of the first poisoned byte of bytes read at `va` (R449, R452): 0 for an address that is not virtual. -/
def State.poisonPa (s : State) (p : Party) (va : Nat) (bs : List PByte) : Nat :=
  s.paOf p (BitVec.ofNat 64 (va + bs.findIdx (·.2)))

/-- An access that did not go on, as a step of a core's engine ends: it waits, faults its stream, or is dropped. Poison is found
here by the reader in the bytes that it gets, so no access of a stream stops for it. -/
def State.stopStrm (s : State) (c : Nat) (e : StreamId) (x : Stop) (pc : W64) (done : Nat) : State :=
  match x with
  | .wait s => s
  | .bad f =>
    let f := if e = .cx then { f with det2 := BitVec.ofNat 64 done } else f
    (s.raiseRecord (s.core c).theJob.part { faultRecord s c e f with pc := pc }).updStrm c e fun st => { st with trapped := true }
  | .stale u => s.updMem fun m => m.countDrop u (s.core c).theJob.ctx
  | .poison _ => s

end Sys2Proof.Machine
end

