-- ==== Sys2Proof/Machine/Vector.lean ====
section
/-! DEFINITION. Vector instructions other than memory accesses (R147-R166, R171, R172). -/

namespace Sys2Proof.Machine

/-- Whether the word draws from the generators: stochastic rounding on a type that rounds (R105, R149). -/
def drawing (o : Nat) (t : Tpl) : Bool := rndOf o t == .sr

/-- Elements `f e draw` of width `w` written to `vd` with latency `lat`, lane by lane under the guard (R147). -/
def vecResult (o lat : Nat) (t : Tpl) (w : Nat) (f : Nat → Nat → Nat) (s : State) : State :=
  let r := mapLanes (drawing o t) (s.guard t) w (s.vreg t.dst) s.curCore.sr f
  (s.updCur fun k => { k with sr := r.2 }).landVec t.dst lat r.1

/-- An element-wise instruction of latency `lat` (R151, R152): `f md sat draw a b c`. -/
def vecOp (o lat : Nat) (t : Tpl) (f : Nat → Rnd → Bool → Nat → Nat → Nat → Nat → Nat) (s : State) : Out :=
  issue o t (fun s =>
    let ty := vtypeOf o t
    let w := vwidth ty
    let a := s.vreg t.sa
    let b := s.vreg t.sb
    let c := s.vreg t.sc
    vecResult o lat t w (fun e d => f ty (rndOf o t) (satOf o t) d (elem a w e) (elem b w e) (elem c w e)) s) s

/-- The scalar form of a vector instruction, type .s (R157): bit 0 of the guard decides. -/
def vecScalar (o : Nat) (t : Tpl) (f : State → W64) (s : State) : Out :=
  issue o t (fun s => if s.guard0 t then s.landWord t.dst 4 (f s) else s) s

/-- VADD (R151, R157). -/
def execVadd (t : Tpl) (s : State) : Out :=
  if vtypeOf 0x100 t = 7 then
    vecScalar 0x100 t (fun s =>
      sumSat (satOf 0x100 t) ((s.opa t).toInt + (s.opb t).toInt + (simm t).toInt)) s
  else vecOp 0x100 4 t (velem 0x100) s

/-- VSUB (R151, R157). -/
def execVsub (t : Tpl) (s : State) : Out :=
  if vtypeOf 0x101 t = 7 then
    vecScalar 0x101 t (fun s =>
      sumSat (satOf 0x101 t) ((s.opa t).toInt - (s.opb t).toInt + (simm t).toInt)) s
  else vecOp 0x101 4 t (velem 0x101) s

/-- VMUL (R151). -/
def execVmul (t : Tpl) (s : State) : Out := vecOp 0x102 6 t (velem 0x102) s
/-- VFMA (R151). -/
def execVfma (t : Tpl) (s : State) : Out := vecOp 0x103 6 t (velem 0x103) s
/-- VFMS (R151). -/
def execVfms (t : Tpl) (s : State) : Out := vecOp 0x104 6 t (velem 0x104) s
/-- VFNMA (R151). -/
def execVfnma (t : Tpl) (s : State) : Out := vecOp 0x105 6 t (velem 0x105) s
/-- VMIN (R151). -/
def execVmin (t : Tpl) (s : State) : Out := vecOp 0x106 4 t (velem 0x106) s
/-- VMAX (R151). -/
def execVmax (t : Tpl) (s : State) : Out := vecOp 0x107 4 t (velem 0x107) s
/-- VABS (R151). -/
def execVabs (t : Tpl) (s : State) : Out := vecOp 0x108 4 t (velem 0x108) s
/-- VNEG (R151). -/
def execVneg (t : Tpl) (s : State) : Out := vecOp 0x109 4 t (velem 0x109) s

/-- A transcendental or quotient (R152). -/
def vecTrans (o lat : Nat) (t : Tpl) (s : State) : Out :=
  vecOp o lat t (fun ty md sat _ a b _ => vtrans o ((vfloat? ty).getD .fp32) md sat a b) s

/-- VRCP (R152). -/
def execVrcp (t : Tpl) (s : State) : Out := vecTrans 0x10A 12 t s
/-- VRSQRT (R152). -/
def execVrsqrt (t : Tpl) (s : State) : Out := vecTrans 0x10B 12 t s
/-- VSQRT (R152). -/
def execVsqrt (t : Tpl) (s : State) : Out := vecTrans 0x10C 12 t s
/-- VDIV (R152). -/
def execVdiv (t : Tpl) (s : State) : Out := vecTrans 0x10D 18 t s
/-- VEXP2 (R152). -/
def execVexp2 (t : Tpl) (s : State) : Out := vecTrans 0x10E 12 t s
/-- VLOG2 (R152). -/
def execVlog2 (t : Tpl) (s : State) : Out := vecTrans 0x10F 12 t s
/-- VTANH (R152). -/
def execVtanh (t : Tpl) (s : State) : Out := vecTrans 0x110 12 t s

/-! ## Conversions and quantisation (R153, R159-R162) -/

/-- Issue a word that may fault on a check of its operands: a fault leaves it unissued. -/
def issueChecked (o : Nat) (t : Tpl) (check : State → Option FaultInfo) (body : State → State) (s : State) : Out :=
  if s.active o t then
    match check s with
    | some f => .next (s.faultCur f)
    | none => issue o t body s
  else issue o t body s

/-- The byte-wise merge of element `j` of part `p` (width `w`) into a register. -/
def putElem (v : Vec) (w i x : Nat) : Vec := putField v (w * i) w x

/-- The format-invalid check of `vcvt` (R153). -/
def vcvtCheck (t : Tpl) (_ : State) : Option FaultInfo :=
  if (Fmt.ofCode? (field t.imm 0 5)).isNone || (Fmt.ofCode? (field t.imm 8 5)).isNone || field t.imm 5 3 != 0
    || field t.imm 15 17 != 0 then
    some { code := .formatInvalid, det1 := t.imm.setWidth 64 }
  else none

/-- Write 64 elements `f j draw` of format `fd` into part `part` of a register, lane j's guard deciding, drawing when
`sr` (R105, R153, R159). -/
def putPart (sr : Bool) (g : W64) (fd : Fmt) (part : Nat) (old : Vec) (bank : Sparse W32) (f : Nat → Nat → Nat) :
    Vec × Sparse W32 :=
  let p := part % (32 / fd.width)
  foldUpTo 64 (fun acc j =>
    if bit g j then
      let (d, b) := if sr then srDraw acc.2 j else (0, acc.2)
      (putElem acc.1 fd.width (64 * p + j) (f j d), b)
    else acc) (old, bank)

/-- Element `j` of part `part` in format `f` (R153). -/
def partElem (f : Fmt) (v : Vec) (part j : Nat) : Nat := elem v f.width (64 * (part % (32 / f.width)) + j)

/-- VCVT (R153). -/
def execVcvt (t : Tpl) (s : State) : Out :=
  issueChecked 0x111 t (vcvtCheck t) (fun s =>
    let fs := (Fmt.ofCode? (field t.imm 0 5)).getD .fp32
    let fd := (Fmt.ofCode? (field t.imm 8 5)).getD .fp32
    let a := s.vreg t.sa
    let r := putPart (drawing 0x111 t) (s.guard t) fd (field t.mod 3 3) (s.vreg t.dst) s.curCore.sr fun j d =>
      (roundTo (decodeFmt fs (partElem fs a (field t.mod 0 3) j) (bit t.imm 13)) fd (rndOf 0x111 t) (satOf 0x111 t)
        (bit t.imm 14) d).code
    (s.updCur fun k => { k with sr := r.2 }).landVec t.dst 6 r.1) s

/-- The fields of a format word (R114). -/
def fwAfmt (w : W64) : Nat := field w 59 5
def fwBfmt (w : W64) : Nat := field w 54 5
def fwBlk (w : W64) : Nat := field w 52 2
def fwAsc (w : W64) : Bool := bit w 51
def fwBsc (w : W64) : Bool := bit w 50
def fwTens (w : W64) : Bool := bit w 49
def fwXform (w : W64) : Nat := field w 47 2
def fwHsz (w : W64) : Nat := if bit w 46 then 32 else 16
def fwAinf (w : W64) : Bool := bit w 45
def fwBinf (w : W64) : Bool := bit w 44
def fwDfmt (w : W64) : Nat := field w 39 5
def fwDinf (w : W64) : Bool := bit w 38
def fwDsat (w : W64) : Bool := bit w 37
def fwDrnd (w : W64) : Nat := field w 34 3
def fwTfmt (w : W64) : Nat := field w 29 5
def fwTinf (w : W64) : Bool := bit w 28
def fwTsat (w : W64) : Bool := bit w 27
def fwTrnd (w : W64) : Nat := field w 24 3
def fwTblk (w : W64) : Nat := field w 22 2
def fwTscf (w : W64) : Bool := bit w 21

/-- Elements of a block: a block code of R114, where "none" counts as `all`. -/
def blockSize (code all : Nat) : Nat :=
  match code with
  | 0 => all
  | 1 => 8
  | 2 => 16
  | _ => 32

/-- Whether a code may stand as A or B (R115). -/
def asOperand (c : Nat) : Bool := c ≤ 6 || (8 ≤ c && c ≤ 14) || (16 ≤ c && c ≤ 18) || c == 20 || c == 21
/-- Whether a code may stand as a drain format (R115). -/
def asDrain (c : Nat) : Bool := c ≤ 6 || (8 ≤ c && c ≤ 14) || (17 ≤ c && c ≤ 23)
/-- Whether a code may stand as a transposed format (R115). -/
def asTransposed (c : Nat) : Bool := c ≤ 6 || (8 ≤ c && c ≤ 14) || (16 ≤ c && c ≤ 18)

/-- Width class of an operand format (R116): 0 4-bit, 1 8-bit float, 2 8-bit integer, 3 16-bit. -/
def widthClass (c : Nat) : Nat := if c = 16 then 0 else if c = 17 ∨ c = 18 then 3 else if 20 ≤ c then 2 else 1

/-- The checks of R116 on a popped format word. -/
def formatWordBad (w : W64) : Bool :=
  let a := fwAfmt w
  !asOperand a || !asOperand (fwBfmt w) || !asDrain (fwDfmt w) || !asTransposed (fwTfmt w)
  || widthClass a != widthClass (fwBfmt w)
  || (fwBlk w != 0 && (widthClass a == 3 || widthClass a == 2))
  || fwXform w == 3 || (fwXform w != 0 && widthClass a == 2)
  || (fwTfmt w == 16 && fwTblk w == 0)
  || 5 ≤ fwDrnd w || 5 ≤ fwTrnd w
  || field w 0 21 != 0

/-- The checks of R159 on the format word of `vquant` and `vdequant`. -/
def quantCheck (t : Tpl) (s : State) : Option FaultInfo :=
  let w := s.opb t
  let a := fwAfmt w
  let wide := widthClass a == 3 || widthClass a == 2
  if !asOperand a || (fwBlk w != 0 && wide) || fwXform w == 3 || (fwXform w != 0 && widthClass a == 2)
    || field w 0 21 != 0 then
    some { code := .formatInvalid, det1 := w }
  else none

/-- The FP32 lanes of a register. -/
def lanesFp32 (v : Vec) : List Num := (List.range 64).map fun i => fp32Val (lane v i)

/-- The Hadamard transform of 64 elements in aligned blocks of `n` (R112). -/
def hadamard64 (n : Nat) (xs : List Num) : List Num := ((segments n (64 / n) xs).map hadamardBlock).flatten

/-- R159 on the 64 elements of `vquant`: the register, the scales, the FMASK bits, the block-scale events, and the
generator bank. -/
def vquantResult (w : W64) (md : Rnd) (sat : Bool) (g : W64) (part : Nat) (old a : Vec) (bank : Sparse W32) :
    Vec × W64 × W64 × Nat × Sparse W32 :=
  let f := (Fmt.ofCode? (fwAfmt w)).getD .bf16
  let xs := if fwXform w = 1 then hadamard64 (fwHsz w) (lanesFp32 a) else lanesFp32 a
  let B := blockSize (fwBlk w) 64
  let scales := (segments B (64 / B) xs).map fun b => blockScale b f (fwAinf w) (fwAsc w)
  let one : BlockScale := ⟨0, .fin false 1 0 false, false, false⟩
  let sc := fun (j : Nat) => if fwBlk w = 0 then one else scales.getD (j / B) one
  let r := putPart (md == .sr) g f part old bank fun j d =>
    if (sc j).bad then zeroCode f false
    else (roundTo ((xs.getD j .nan).div (sc j).value) f md sat (fwAinf w) d).code
  if fwBlk w = 0 then (r.1, 0, 0, 0, r.2)
  else
    (r.1, BitVec.ofNat 64 (leNat (scales.map fun b => BitVec.ofNat 8 b.code)),
      ofBits 64 (fun j => (scales.getD (j / B) one).event), (scales.filter (·.event)).length, r.2)

/-- Row 17 for the part number of `vquant` and `vdequant`, whose bits depend on the format word (R153, R159). -/
def partWarn (t : Tpl) (s : State) : W64 :=
  let m := partMask (fwAfmt (s.opb t))
  warnIf (field t.mod 0 3 != field t.mod 0 3 &&& m) .modrsv

/-- VQUANT (R159): elements, scales, FMASK and the conversion counters of set 9 all land after 8 cycles. -/
def execVquant (t : Tpl) (s : State) : Out :=
  issueChecked 0x180 t (quantCheck t) (fun s =>
    let (v, sc, fm, n, bank) := vquantResult (s.opb t) (rndOf 0x180 t) (satOf 0x180 t) (s.guard t) (field t.mod 0 3)
      (s.vreg t.dst) (s.vreg t.sa) s.curCore.sr
    let s := (s.warn (partWarn t s)).updCur fun k => { k with sr := bank }
    let s := (s.landVec t.dst 8 v).landWord t.sc 8 sc
    let s := if fm = 0 then s else s.updCur fun k => k.addPend .vx .fmask 8 (.orBits fm)
    if n = 0 then s else s.updCur fun k => k.addPend .vx (.count 9 2) 8 (.word (BitVec.ofNat 64 n))) s

/-- VDEQUANT (R160). -/
def execVdequant (t : Tpl) (s : State) : Out :=
  issueChecked 0x181 t (quantCheck t) (fun s =>
    let w := s.opb t
    let f := (Fmt.ofCode? (fwAfmt w)).getD .bf16
    let B := blockSize (fwBlk w) 64
    let a := s.vreg t.sa
    let scales := s.opc t
    (vecResult 0x181 6 t 32 (fun j d =>
      let x := decodeFmt f (partElem f a (field t.mod 0 3) j) (fwAinf w)
      let sc := if fwBlk w = 0 then .fin false 1 0 false else decodeScale (fwAsc w) (elem scales 8 (j / B))
      (roundTo (x.mul sc) .fp32 (rndOf 0x181 t) (satOf 0x181 t) true d).code) s).warn (partWarn t s)) s

/-- VHAD (R161). -/
def execVhad (t : Tpl) (s : State) : Out :=
  issue 0x182 t (fun s =>
    let ys := hadamard64 (if bit t.mod 0 then 32 else 16) (lanesFp32 (s.vreg t.sa))
    vecResult 0x182 8 t 32 (fun j _ => fp32Code (ys.getD j .nan)) s) s

/-- VSMOOTH (R113, R161). -/
def execVsmooth (t : Tpl) (s : State) : Out :=
  issue 0x183 t (fun s =>
    let a := s.vreg t.sa
    let b := s.vreg t.sb
    vecResult 0x183 6 t 32 (fun j d =>
      (roundTo (smoothProduct (bit t.mod 0) (fp32Val (lane a j)) (fp32Val (lane b j))) .fp32 (rndOf 0x183 t)
        (satOf 0x183 t) true d).code) s) s

/-- VAMAX (R162). -/
def execVamax (t : Tpl) (s : State) : Out :=
  issue 0x184 t (fun s =>
    let n := 8 <<< field t.mod 0 2
    let big := (segments n (64 / n) (lanesFp32 (s.vreg t.sa))).map fun b =>
      if b.any Num.isNaN then Num.nan else if b.any Num.isInf then Num.inf false else amaxOf b
    vecResult 0x184 10 t 32 (fun j _ => fp32Code (big.getD (j / n) .nan)) s) s

/-! ## Logic, shifts, compares (R154, R155, R157) -/

/-- A bitwise instruction on all 2048 bits, or its scalar form. -/
def vecLogic (o : Nat) (t : Tpl) (f : Nat → Nat → Nat) (g : W64 → W64 → W64) (s : State) : Out :=
  if vtypeOf o t = 7 then vecScalar o t (fun s => g (s.opa t) (s.opb t)) s
  else
    issue o t (fun s =>
      let a := s.vreg t.sa
      let b := s.vreg t.sb
      vecResult o 4 t 32 (fun j _ => f (lane a j) (lane b j)) s) s

/-- VAND (R154). -/
def execVand (t : Tpl) (s : State) : Out := vecLogic 0x118 t (· &&& ·) (· &&& ·) s
/-- VOR (R154). -/
def execVor (t : Tpl) (s : State) : Out := vecLogic 0x119 t (· ||| ·) (· ||| ·) s
/-- VXOR (R154). -/
def execVxor (t : Tpl) (s : State) : Out := vecLogic 0x11A t (· ^^^ ·) (· ^^^ ·) s
/-- VNOT (R154). -/
def execVnot (t : Tpl) (s : State) : Out :=
  issue 0x11B t (fun s => vecResult 0x11B 4 t 32 (fun j _ => 2 ^ 32 - 1 - lane (s.vreg t.sa) j) s) s

/-- A shift (R154), or its scalar form (R157). -/
def vecShift (o : Nat) (t : Tpl) (g : W64 → Nat → W64) (s : State) : Out :=
  if vtypeOf o t = 7 then
    vecScalar o t (fun s => g (s.opa t) (if bit t.mod 3 then t.imm.toNat % 64 else (s.opb t).toNat % 64)) s
  else
    issue o t (fun s =>
      let w := vwidth (vtypeOf o t)
      let a := s.vreg t.sa
      let b := s.vreg t.sb
      vecResult o 4 t w (fun e _ =>
        vshift o w (elem a w e) (if bit t.mod 3 then t.imm.toNat % w else elem b w e % w)) s) s

/-- VSHL (R154, R157). -/
def execVshl (t : Tpl) (s : State) : Out := vecShift 0x11C t (fun a n => a <<< n) s
/-- VSHR (R154, R157). -/
def execVshr (t : Tpl) (s : State) : Out := vecShift 0x11D t (fun a n => a >>> n) s
/-- VSRA (R154, R157). -/
def execVsra (t : Tpl) (s : State) : Out := vecShift 0x11E t (fun a n => a.sshiftRight n) s

/-- VCLZ (R154). -/
def execVclz (t : Tpl) (s : State) : Out :=
  issue 0x11F t (fun s =>
    let w := vwidth (vtypeOf 0x11F t)
    vecResult 0x11F 4 t w (fun e _ => w - bitLen (elem (s.vreg t.sa) w e)) s) s

/-- VPOPC (R154). -/
def execVpopc (t : Tpl) (s : State) : Out :=
  issue 0x120 t (fun s =>
    let w := vwidth (vtypeOf 0x120 t)
    vecResult 0x120 4 t w (fun e _ => countBits (elem (s.vreg t.sa) w e) w) s) s

/-- Bits of `new` where the guard is true, of `old` elsewhere (R156). -/
def mergeBits (g old new : W64) : W64 := (old &&& ~~~ g) ||| (new &&& g)

/-- A predicate result, written where the guard is true. -/
def predResult (t : Tpl) (lat : Nat) (v : W64) (s : State) : State :=
  s.landWord t.dst lat (mergeBits (s.guard t) (s.preg t.dst) v)

/-- VCMP (R155): for packed types the AND over the elements of the lane. -/
def execVcmp (t : Tpl) (s : State) : Out :=
  issue 0x121 t (fun s =>
    let ty := vtypeOf 0x121 t
    let w := vwidth ty
    let a := s.vreg t.sa
    let b := s.vreg t.sb
    predResult t 4 (ofBits 64 fun i => (List.range (32 / w)).all fun j =>
      vcond (field t.mod 3 3) ty (elem a w (i * (32 / w) + j)) (elem b w (i * (32 / w) + j))) s) s

/-- VSEL (R155). -/
def execVsel (t : Tpl) (s : State) : Out :=
  issue 0x122 t (fun s =>
    let a := s.vreg t.sa
    let b := s.vreg t.sb
    let p := s.preg t.sc
    vecResult 0x122 4 t 32 (fun j _ => if bit p j then lane a j else lane b j) s) s

/-! ## Predicates (R156) -/

/-- A predicate instruction of latency 2. -/
def predOp (o : Nat) (t : Tpl) (f : State → W64) (s : State) : Out := issue o t (fun s => predResult t 2 (f s) s) s

/-- PAND (R156). -/
def execPand (t : Tpl) (s : State) : Out := predOp 0x128 t (fun s => s.preg t.sa &&& s.preg t.sb) s
/-- POR (R156). -/
def execPor (t : Tpl) (s : State) : Out := predOp 0x129 t (fun s => s.preg t.sa ||| s.preg t.sb) s
/-- PXOR (R156). -/
def execPxor (t : Tpl) (s : State) : Out := predOp 0x12A t (fun s => s.preg t.sa ^^^ s.preg t.sb) s
/-- PNOT (R156). -/
def execPnot (t : Tpl) (s : State) : Out := predOp 0x12B t (fun s => ~~~ s.preg t.sa) s
/-- PCNT (R156): the whole scalar is written. -/
def execPcnt (t : Tpl) (s : State) : Out :=
  issue 0x12C t (fun s =>
    s.landWord t.dst 2 (BitVec.ofNat 64 (countBits (s.preg t.sa &&& s.guard t).toNat 64))) s
/-- PFIRST (R156). -/
def execPfirst (t : Tpl) (s : State) : Out :=
  predOp 0x12D t (fun s => s.preg t.sa &&& (- s.preg t.sa)) s

/-- The pattern of `pset` (R156). -/
def psetPattern (t : Tpl) (s : State) : W64 :=
  match field t.mod 0 2 with
  | 0 => ofBits 64 fun i => i < t.imm.toNat
  | 1 => s.opa t
  | 2 => ofBits 64 fun i => bit t.imm (i / 16)
  | _ => ofBits 64 fun i => field t.imm 0 7 != 0 && i % field t.imm 0 7 == 0

/-- PSET (R156). -/
def execPset (t : Tpl) (s : State) : Out := predOp 0x12E t (psetPattern t) s

/-! ## Reductions and scans (R163-R165) -/

/-- Elements in a segment: the whole register, or a lane cluster with the segmented flag. -/
def redSegment (ty : Nat) (t : Tpl) : Nat :=
  let n := 2048 / vwidth ty
  if bit t.imm 1 then n / 4 else n

/-- VRED (R164): the result of each segment stands in its first element, every other element is zero. -/
def execVred (t : Tpl) (s : State) : Out :=
  issue 0x188 t (fun s =>
    let ty := vtypeOf 0x188 t
    let w := vwidth ty
    let op := redOp t
    let exact := bit t.imm 0
    let md := rndOf 0x188 t
    let sat := satOf 0x188 t
    let n := redSegment ty t
    let segs := segments n (2048 / w / n) (redElems op ty exact (s.guard t) (s.vreg t.sa))
    let out := segs.map fun l =>
      let r := redFinish ty md sat ((redTree (redCombine op ty md sat) 8 l).headD (.code 0))
      r :: List.replicate (n - 1) 0
    s.landVec t.dst 10 (vecOfElems w out.flatten)) s

/-- VSCAN (R165): every element is written. -/
def execVscan (t : Tpl) (s : State) : Out :=
  issue 0x189 t (fun s =>
    let ty := vtypeOf 0x189 t
    let w := vwidth ty
    let op := redOp t
    let exact := bit t.imm 0
    let md := rndOf 0x189 t
    let sat := satOf 0x189 t
    let n := redSegment ty t
    let segs := segments n (2048 / w / n) (redElems op ty exact (s.guard t) (s.vreg t.sa))
    let out := segs.map fun l =>
      (scanFrom (redCombine op ty md sat) (bit t.imm 2) (redLift op ty exact (redIdentity op ty)) l).map
        (redFinish ty md sat)
    s.landVec t.dst 12 (vecOfElems w out.flatten)) s

/-! ## Permutes and moves (R166) -/

/-- VPERM (R166). -/
def execVperm (t : Tpl) (s : State) : Out :=
  issue 0x18A t (fun s =>
    let a := s.vreg t.sa
    let b := s.vreg t.sb
    let c := s.vreg t.sc
    vecResult 0x18A 8 t 32 (fun i _ =>
      let k := lane b i
      if k < 64 then lane a k else if k < 128 then lane c (k - 64) else 0) s) s

/-- VBCAST (R166). -/
def execVbcast (t : Tpl) (s : State) : Out :=
  issue 0x18B t (fun s =>
    let a := s.vreg t.sa
    vecResult 0x18B 4 t 32 (fun i _ =>
      if bit t.mod 0 then lane a (16 * (i / 16) + t.imm.toNat % 16) else lane a (t.imm.toNat % 64)) s) s

/-- VSPLAT (R166). -/
def execVsplat (t : Tpl) (s : State) : Out :=
  issue 0x18C t (fun s =>
    let x := if bit t.mod 0 then t.imm.toNat else field (s.opa t) 0 32
    vecResult 0x18C 4 t 32 (fun _ _ => x) s) s

/-- VMOV (R166). -/
def execVmov (t : Tpl) (s : State) : Out :=
  issue 0x18D t (fun s =>
    let a := s.vreg t.sa
    vecResult 0x18D 4 t 32 (fun i _ => lane a i) s) s

/-- VMOVS (R166): bit 0 of the guard decides. -/
def execVmovs (t : Tpl) (s : State) : Out :=
  issue 0x18E t (fun s =>
    let x := lane (s.vreg t.sa) (t.imm.toNat % 64)
    if s.guard0 t then
      s.landWord t.dst 8 (if bit t.mod 0 then BitVec.ofInt 64 (sx 32 x) else BitVec.ofNat 64 x)
    else s) s

/-- VINS (R166): one lane, when its guard bit is true. -/
def execVins (t : Tpl) (s : State) : Out :=
  issue 0x18F t (fun s =>
    let n := t.imm.toNat % 64
    let old := s.vreg t.dst
    s.landVec t.dst 8 (if bit (s.guard t) n then putField old (32 * n) 32 (field (s.opa t) 0 32) else old)) s

/-! ## Tile slices (R54, R171) -/

/-- A slice of a tile or accumulator: byte offsets and nibble shifts of its bytes, in slice order. Each entry is the
register offset, and for e2m1 columns whether the nibble is the upper one. -/
structure Slice where
  accum : Bool
  reg : Nat
  /-- Slice size S in bytes (R171). -/
  size : Nat
  row : Bool
  index : Nat
  /-- Element view: 0 8-bit, 1 e2m1, 2 16-bit. -/
  view : Nat
  deriving DecidableEq, Repr

/-- The view of MOD[3:2]; 11, and any view of an accumulator, read as zero (R171). -/
def sliceView (accum : Bool) (t : Tpl) : Nat := if accum || field t.mod 2 2 == 3 then 0 else field t.mod 2 2

/-- The slice a code and EXT select, and whether the raw index was outside its dimension (R54, R171). -/
def sliceOf (s : State) (code : BitVec 8) (t : Tpl) : Slice × Bool :=
  let c := code.toNat
  let accum := 160 ≤ c
  let view := sliceView accum t
  let row := t.slice == 1
  let dim := if row || accum then 64 else match view with
    | 1 => 128
    | 2 => 32
    | _ => 64
  let raw := ((readScalar s.curStrm (field t.ext 24 6)).toNat + field t.ext 16 8) % 2 ^ 64
  let size := if accum then 256 else if row then 64 else match view with
    | 1 => 32
    | 2 => 128
    | _ => 64
  ({ accum := accum, reg := if accum then c - 160 else c - 144, size := size, row := row, index := raw % dim, view := view },
    decide (dim ≤ raw))

/-- Register byte offset of slice byte `i` (not for e2m1 columns). -/
def Slice.offset (sl : Slice) (i : Nat) : Nat :=
  if sl.accum then
    if sl.row then 256 * sl.index + i else 256 * (i / 4) + 4 * sl.index + i % 4
  else if sl.row then 64 * sl.index + i
  else if sl.view = 2 then 64 * (i / 2) + 2 * sl.index + i % 2
  else 64 * i + sl.index

/-- A byte of a tile or accumulator. -/
def Core.regByte (k : Core) (accum : Bool) (reg off : Nat) : Nat :=
  if accum then elem (sget 0 k.acc (4096 * reg + off / 4)) 8 (off % 4) else (sget 0 k.tile (4096 * reg + off)).toNat

/-- Byte `i` of a slice; a byte of an e2m1 column holds the nibbles of rows 2i and 2i + 1 (R89, R171). -/
def Core.sliceByte (k : Core) (sl : Slice) (i : Nat) : Nat :=
  if !sl.accum && !sl.row && sl.view == 1 then
    let nib := fun r => nbits (k.regByte false sl.reg (64 * r + sl.index / 2)) (4 * (sl.index % 2)) 4
    nib (2 * i) + 16 * nib (2 * i + 1)
  else k.regByte sl.accum sl.reg (sl.offset i)

/-- The writes that put byte `b` at slice byte `i`: offset, mask, data (R171). -/
def Slice.write (sl : Slice) (i b : Nat) : List (Nat × Byte × Byte) :=
  if !sl.accum && !sl.row && sl.view == 1 then
    let sh := 4 * (sl.index % 2)
    let one := fun r n =>
      (64 * r + sl.index / 2, BitVec.ofNat 8 (15 <<< sh), BitVec.ofNat 8 (nbits b (4 * n) 4 <<< sh))
    [one (2 * i) 0, one (2 * i + 1) 1]
  else [(sl.offset i, 255, BitVec.ofNat 8 b)]

/-- VLDSLC (R171): a whole selector raises the illegal-instruction trap. -/
def execVldslc (t : Tpl) (s : State) : Out :=
  if t.slice = 0 then .next s.illegal
  else
    issue 0x195 t (fun s =>
      let (sl, wraps) := sliceOf s t.sa t
      let k := s.curCore
      let part := t.imm.toNat % (256 / sl.size)
      let old := s.vreg t.dst
      let g := s.guard t
      let v := vecOfBytes fun i =>
        if part * sl.size ≤ i && i < (part + 1) * sl.size && bit g (i / 4) then k.sliceByte sl (i - part * sl.size)
        else elem old 8 i
      (s.landVec t.dst 6 v).warn (warnIf wraps .slidx)) s

/-- VSTSLC (R171): the bytes whose source lane has a true guard; lands at the end of virtual cycle t + 5. -/
def execVstslc (t : Tpl) (s : State) : Out :=
  if t.slice = 0 then .next s.illegal
  else
    issue 0x196 t (fun s =>
      let (sl, wraps) := sliceOf s t.dst t
      let part := t.imm.toNat % (256 / sl.size)
      let a := s.vreg t.sa
      let g := s.guard t
      let l := ((List.range sl.size).filter fun i => bit g ((part * sl.size + i) / 4)).map fun i =>
        sl.write i (elem a 8 (part * sl.size + i))
      let d := if sl.accum then Dst.accum sl.reg else Dst.tile sl.reg
      (s.updCur fun k => k.addPend .vx d 6 (.bytes l.flatten)).warn (warnIf wraps .slidx)) s

/-! ## Generators, repetition, rendezvous (R34, R158, R172) -/

/-- VSRND (R172): the seeds stand from the next engine cycle on. -/
def execVsrnd (t : Tpl) (s : State) : Out :=
  issue 0x197 t (fun s =>
    let a := s.vreg t.sa
    let g := s.guard t
    s.updCur fun k => { k with
      srSeed := foldUpTo 64 (fun m i => if bit g i then sinsert m i (BitVec.ofNat 32 (lane a i)) else m) k.srSeed }) s

/-- VSRND_RD (R172). -/
def execVsrndRd (t : Tpl) (s : State) : Out :=
  issue 0x197 t (fun s =>
    let bank := s.curCore.sr
    vecResult 0x197 4 t 32 (fun i _ => (sget 0 bank i).toNat) s) s

/-- NOP_VX (R158). -/
def execNopVx (t : Tpl) (s : State) : Out := issue 0x1FE t id s

/-- `nop.rep` (R158): skip the body for a zero count, otherwise open a level; a third level, or an inner body past the
outer one's end, raises the illegal-instruction trap. The body begins after the whole form: for a long-immediate form, which the rule's
`address_of(word) + 4` does not speak of, after its second word (log entry 94). -/
def repeatOp (o : Nat) (t : Tpl) (s : State) : Out :=
  let n := t.imm.toNat % 65536
  let c := s.opa t
  let st := s.curStrm
  let start := st.pc + BitVec.ofNat 64 (4 * s.cur.words)
  if c = 0 ∨ n = 0 then issueBranch o t (.jump (start + BitVec.ofNat 64 (4 * n))) false id s
  else
    let last := start + BitVec.ofNat 64 (4 * (n - 1))
    let bad := match st.reps with
      | [] => false
      | [r] => decide ((r.last - r.start).toNat < (last - r.start).toNat)
      | _ => true
    if bad then .next s.illegal
    else
      issueBranch o t .seq false
        (fun s => s.updCurStrm fun st => { st with reps := { start := start, last := last, left := c } :: st.reps }) s

/-- NOP_REP_VX (R158). -/
def execNopRepVx (t : Tpl) (s : State) : Out := repeatOp 0x1FE t s
/-- RDV_VX (R34, R173). -/
def execRdvVx (t : Tpl) (s : State) : Out := issue 0x1FF t endStream s

end Sys2Proof.Machine
end

