-- ==== Sys2Proof/Machine/Copy.lean ====
section
/-! DEFINITION. The copy engine: packets, copies, overlays, queue posts, line buffers, halos, tags, full/empty words and barriers
(R249-R278). -/

namespace Sys2Proof.Machine

/-! ## Packets (R252, R253) -/

/-- Field of `n` bytes at byte `off` of a 64-byte record. -/
def pf (p : BitVec 512) (off n : Nat) : Nat := nbits p.toNat (8 * off) (8 * n)

/-- Whether a packet is void (R253). -/
def isVoid (p : BitVec 512) : Bool := pf p 0 1 == 0xFF

/-- Total bytes of a packet. -/
def pktBytes (p : BitVec 512) : Nat := pf p 0x18 4 * pf p 0x1C 4

/-- The destination stride (R252). -/
def pktDstr (p : BitVec 512) : Nat := if pf p 0x28 8 = 0 then pf p 0x18 4 else pf p 0x28 8

/-- The first field of a packet outside its limits, by its offset (R252, R253, R259). `queue`: served from a queue. -/
def copyCheck (p : BitVec 512) (overlay queue : Bool) : Option Nat :=
  let fl := pf p 1 1
  let dk := pf p 5 1
  let rowb := pf p 0x18 4
  let rows := pf p 0x1C 4
  let dst := pf p 0x10 8
  if pf p 0 1 != 0x10 then some 0x00
  else if 16 ≤ fl || (queue && fl % 4 != 0) then some 0x01
  else if 64 ≤ pf p 2 1 then some 0x02
  else if 16 ≤ pf p 3 1 then some 0x03
  else if 2 ≤ pf p 4 1 || (queue && pf p 4 1 != 0) then some 0x04
  else if 4 ≤ dk || (overlay != (2 ≤ dk : Bool)) || (queue && dk != 0) then some 0x05
  else if 5 ≤ pf p 6 1 then some 0x06
  else if pf p 7 1 != 0 then some 0x07
  else if dk = 2 ∧ dst % 4 ≠ 0 ∨ dk = 3 ∧ (dst % 8 > 5 ∨ nbits dst 3 5 ≠ 0 ∨ dst ≥ 2 ^ 14) then some 0x10
  else if rowb = 0 ∨ 2 ^ 24 < rowb ∨ dk = 2 ∧ rowb % 4 ≠ 0 then some 0x18
  else if dk = 3 ∧ (rowb * rows % 16 ≠ 0 ∨ 64 < nbits dst 8 6 + rowb * rows / 16) then some 0x18
  else if rows = 0 ∨ 65536 < rows then some 0x1C
  else if (pf p 0x28 8 != 0 && (2 ≤ dk || pf p 0x28 8 < rowb)) then some 0x28
  else if pf p 0x30 8 % 8 != 0 then some 0x30
  else if pf p 0x38 7 != 0 then some 0x38
  else none

/-- Completion scope of a packet (R252). -/
def pktScope (p : BitVec 512) : Nat := pf p 6 1

/-- Source and destination address of row `r` (R252). -/
def srcRow (p : BitVec 512) (r : Nat) : Nat := (pf p 8 8 + r * pf p 0x20 8) % 2 ^ 64
def dstRow (p : BitVec 512) (r : Nat) : Nat := (pf p 0x10 8 + r * pktDstr p) % 2 ^ 64

/-- The rows, columns and lengths of destination bytes `[d, d + n)` in linear order (R255). -/
def segmentsOf (rowb : Nat) : Nat → Nat → Nat → List (Nat × Nat × Nat)
  | 0, _, _ => []
  | fuel + 1, d, n =>
    if n = 0 then []
    else
      let len := Nat.min n (rowb - d % rowb)
      (d / rowb, d % rowb, len) :: segmentsOf rowb fuel (d + len) (n - len)

/-- First and last byte touched by rows from `a` with signed stride `st` (R269). -/
def spanOf (a rowb rows st : Nat) : Nat × Nat :=
  let z := sx 64 st
  let e := (a : Int) + z * ((rows - 1 : Nat) : Int)
  let lo := if e < (a : Int) then e else (a : Int)
  let hi := (if e < (a : Int) then (a : Int) else e) + (rowb : Int) - 1
  (lo.toNat, hi.toNat)

/-- Whether a scratchpad address is the core's own (R238). -/
def ownAddr (c a : Nat) : Bool := !a.testBit 27 || nbits a 24 3 == c % 8

/-- The ranges of a copy in the issuing core's own scratchpad (R269). -/
def copyRanges (c : Nat) (p : BitVec 512) : List (Nat × Nat) × List (Nat × Nat) :=
  let rowb := pf p 0x18 4
  let rows := pf p 0x1C 4
  let src := pf p 8 8
  let dst := pf p 0x10 8
  let rd := if pf p 4 1 = 1 ∧ ownAddr c src ∧ !(pf p 1 1).testBit 2 then [spanOf (src % 2 ^ 24) rowb rows (pf p 0x20 8)] else []
  let wr := if pf p 5 1 = 1 ∧ ownAddr c dst then [spanOf (dst % 2 ^ 24) rowb rows (pktDstr p)] else []
  (rd, wr)

/-! ## Reading a record at issue (R254, R271) -/

/-- Read `n` bytes of a record at an address of the issuing core's engine: scratchpad lines must be full. -/
def State.readRecord (s : State) (c : Nat) (e : StreamId) (sp : Bool) (a n : Nat) : Acc (List PByte) :=
  if !sp && s.storesAhead c (s.core c).issueOrd then .error (.wait s)
  else if sp then
    match s.spRangeTarget c a n false with
    | none => .error (.bad (spFault s c a))
    | some (d, off) =>
      match (s.core d).spBytes off n with
      | some bs => .ok bs
      | none => .error (.wait s)
  else s.readVirt (s.engineParty c e) false permR a n

/-- The 64-byte record of read bytes. -/
def recordOf (bs : List PByte) : BitVec 512 := BitVec.ofNat 512 (natOfP bs)

/-! ## Issue of commands (R251) -/

/-- Number of range-checker entries that stand (R269). -/
def Core.rangeFull (k : Core) : Bool := 32 ≤ k.ranges.length

/-- Put a command in the copy queue with its range entry, if it has ranges. -/
def enqueueCopy (kind : CopyKind) (rd wr : List (Nat × Nat)) (s : State) : State :=
  s.updCur fun k =>
    let seq := k.cx.nextSeq
    let cmd : CopyCmd := { seq := seq, pc := (k.strm .cx).pc, kind := kind, ord := k.issueOrd }
    { k with
      cx := { k.cx with queue := k.cx.queue ++ [cmd], nextSeq := seq + 1 }
      ranges := if rd.isEmpty && wr.isEmpty then k.ranges
        else k.ranges ++ [{ stamp := s.gtc, engine := .cx, seq := seq, reads := rd, writes := wr }] }

/-- Issue a copy-queue command: CX holds while the queue is full, and the core while the checker is (R58, R251). -/
def issueCopy (o : Nat) (t : Tpl) (kind : CopyKind) (rd wr : List (Nat × Nat)) (extra : State → State) (s : State) : Out :=
  if !s.curCore.roomFor 1 (s.curCore.queueLen 1) then .next (s.blockFull 1 (s.curCore.queueLen 1))
  else if (!rd.isEmpty || !wr.isEmpty) && s.curCore.rangeFull then .next s.holdCycle
  else issue o t (fun s => enqueueCopy kind rd wr (extra s)) s

/-- The copy-invalid fault (R401). -/
def copyInvalid (off : Nat) : FaultInfo := { code := .copyInvalid, det1 := BitVec.ofNat 64 off }

/-- A CX word whose record is read at issue (R254): it holds CX while the record is not there. -/
def withRecord (o : Nat) (t : Tpl) (k : BitVec 512 → Out) (s : State) : Out :=
  if !s.guard0 t then issue o t id s
  else if s.curCore.carving && bit t.mod 3 then .next s.blockWord
  else
    let ea := s.ea t
    if ea.toNat % 64 != 0 then .next (s.faultCur (misaligned ea 64))
    else
      match s.readRecord s.cur.core s.cur.strm (bit t.mod 3) ea.toNat 64 with
      | .ok bs => if poisonedP bs then .next ((s.consumePoison s.cur.core (s.poisonPa (s.engineParty s.cur.core s.cur.strm) ea.toNat bs)).updCurStrm fun st => { st with trapped := true })
        else k (recordOf bs)
      | .error (.wait s') => .next s'.blockWord
      | .error x => .next (s.stopStrm s.cur.core s.cur.strm x s.curStrm.pc 0)

/-- Issue a copy or an overlay of a packet (R253, R254, R259). -/
def issuePacket (o : Nat) (t : Tpl) (overlay : Bool) (s : State) : Out :=
  withRecord o t (fun p =>
    if isVoid p then issue o t id s
    else
      match copyCheck p overlay false with
      | some off => .next (s.faultCur (copyInvalid off))
      | none =>
        if s.curCore.carving && CopyKind.namesSp (.copy p overlay) then .next s.blockWord
        else
        let r := copyRanges s.cur.core p
        issueCopy o t (.copy p overlay) r.1 r.2 id s) s

/-- CPOST (R253, R254). -/
def execCpost (t : Tpl) (s : State) : Out := issuePacket 0x300 t false s

/-- COVL (R259). -/
def execCovl (t : Tpl) (s : State) : Out := issuePacket 0x30C t true s

/-- An atomic add at the home of a virtual word, performed by an engine or a unit in one step (R257, R261, R292): the old
value. -/
def State.unitAdd (s : State) (p : Party) (va n : Nat) : Acc (State × Nat) := do
  let pa ← s.reach p (BitVec.ofNat 64 va) (permR + permW + permA)
  let s ← s.confirmPage p (BitVec.ofNat 64 va)
  match locOf pa with
  | none => pure (s.drawn, (Config.freeWord s.free).toNat)
  | some loc =>
    let old := s.mem.readNat pa 8
    let new := (old + n) % 2 ^ 64
    if s.mem.poison.contains (loc / 32) then .error (.poison pa)
    else
      match s.protectedBy p.part p.node (BitVec.ofNat 64 va) (lineOf pa) (byteMask pa 8) (byteData pa new) with
      | some q => .error (.bad { code := .inputWrite, addr := BitVec.ofNat 64 va, det1 := q.node.setWidth 64 })
      | none => pure (s.commitLine (loc / 128) (byteMask pa 8) (byteData pa new) 0 p.ctag p.master, old)

/-- The lap mark of an index (R260). -/
def lapOf (log2n i : Nat) : Nat := i / 2 ^ log2n % 255 + 1

/-- What an atomic of engine CX asks of its core before it leaves: the core's own bytes of the line are committed, its L1 copy goes, and the
line is signed (R245, R287, R292). None while a commit of the line is under way; the state then holds what has been set going. -/
def State.clearWay (s : State) (c va : Nat) : Acc State :=
  match s.mem.translate (clusterOf c) (s.core c).theJob.ctag (BitVec.ofNat 64 va) 0 with
  | .hit pa _ =>
    let n := lineOf pa
    let mine := (s.core c).l1.any (fun l => l.loc == n && l.dirty != 0)
      || s.mem.vers.any fun v => v.owner == .pending c (s.core c).phase.toNat && !v.closing && v.line == n
    if mine then .error (.wait (s.startCommit c .cx (2 ^ 40) (.line n)).1)
    else if s.mem.reqs.any fun r => r.master == c && r.line == n && (r.stage == .home || r.stage == .dirty) then .error (.wait s)
    else
      .ok ((s.updCore c fun k => { (k.sign pa) with l1 := k.l1.filter fun l => l.loc != n }).updMem fun m => m.refetch c fun i => i == n)
  | _ => .ok s

/-- CPOST_Q (R261): the index is claimed at issue; the append follows in the copy queue. -/
def execCpostQ (t : Tpl) (s : State) : Out :=
  withRecord 0x300 t (fun p =>
    if (s.opb t).toNat % 64 != 0 then .next (s.faultCur (misaligned (s.opb t) 64))
    else if !s.curCore.roomFor 1 (s.curCore.queueLen 1) then .next (s.blockFull 1 (s.curCore.queueLen 1))
    else if !s.admits s.cur.core (energyClass 0x300 t) then .next s.refuseCycle
    else
      match (do
          let u ← s.clearWay s.cur.core (s.opb t).toNat
          u.unitAdd { s.engineParty s.cur.core .cx with slot := none } (s.opb t).toNat 1) with
      | .ok (s', i) =>
        issue 0x300 t (fun s => enqueueCopy (.post p (s.opb t) i) [] [] (s.landWord t.dst 1 (BitVec.ofNat 64 i))) s'
      | .error (.wait s') => .next s'.blockWord
      | .error (.poison pa) => .next ((s.consumePoison s.cur.core pa).updCurStrm fun st => { st with trapped := true })
      | .error x => .next (s.stopStrm s.cur.core .cx x s.curStrm.pc 0)) s

/-- Whether CX is held by a queue post whose slot is not free (R261). -/
def Core.postHeld (k : Core) : Bool :=
  k.cx.queue.any fun q =>
    match q.kind with
    | .post _ _ _ => !q.started
    | _ => false

/-- `fefill` and `feempty` (R267). -/
def fullEmpty (o : Nat) (fill : Bool) (t : Tpl) (s : State) : Out :=
  let ea := s.opa t
  let n := field t.imm 0 16
  if !s.guard0 t || n == 0 then issue o t id s
  else if ea.toNat % 128 != 0 then .next (s.faultCur (misaligned ea 128))
  else if s.curCore.carving then .next s.blockWord
  else
    let own := ea.toNat < 2 ^ 28 && ownAddr s.cur.core ea.toNat && !ea.toNat.testBit 27
    if !own || nbits ea.toNat 24 3 != 0 || spSize s.curCore.theJob < ea.toNat % 2 ^ 24 + 128 * n then
      .next (s.faultCur (spFault s s.cur.core ea.toNat))
    else issueCopy o t (.fe fill (ea.toNat % 2 ^ 24) n) [] [(ea.toNat % 2 ^ 24, ea.toNat % 2 ^ 24 + 128 * n - 1)] id s

/-- FEFILL (R267). -/
def execFefill (t : Tpl) (s : State) : Out := fullEmpty 0x306 true t s
/-- FEEMPTY (R267). -/
def execFeempty (t : Tpl) (s : State) : Out := fullEmpty 0x307 false t s

/-! ## Line buffers and halos (R271-R273) -/

/-- The first field of a line-buffer record outside its limits (R271). -/
def lbCheck (s : State) (c : Nat) (r : BitVec 512) : Option FaultInfo :=
  let rowb := pf r 0x14 4
  let nr := pf r 0x18 1
  let dst := pf r 0x10 4
  if pf r 8 8 < rowb then some (copyInvalid 0x08)
  else if rowb = 0 ∨ 2 ^ 20 < rowb then some (copyInvalid 0x14)
  else if nr = 0 ∨ 16 < nr then some (copyInvalid 0x18)
  else if pf r 0x19 3 != 0 then some (copyInvalid 0x19)
  else if pf r 0x1C 4 = 0 ∨ 2 ^ 24 < pf r 0x1C 4 then some (copyInvalid 0x1C)
  else if pf r 0x24 28 != 0 then some (copyInvalid 0x24)
  else if 2 ^ 24 ≤ dst ∨ dst % 128 ≠ 0 ∨ spSize (s.core c).theJob < dst + nr * (ceilDiv rowb 128 * 128) then some (spFault s c dst)
  else none

/-- Slot size of a record (R271). -/
def lbSlot (r : BitVec 512) : Nat := ceilDiv (pf r 0x14 4) 128 * 128

/-- LBSET (R271). -/
def execLbset (t : Tpl) (s : State) : Out :=
  withRecord 0x309 t (fun r =>
    match lbCheck s s.cur.core r with
    | some f => .next (s.faultCur f)
    | none => issueCopy 0x309 t (.lbset (field t.mod 0 2) r) [] [] id s) s

/-- A line buffer after a command that has yet to start (R271, R272). -/
def LineBuffer.after (n : Nat) (b : Option LineBuffer) (q : CopyCmd) : Option LineBuffer :=
  if q.started then b
  else
    match q.kind with
    | .lbset m r => if m = n then some { record := r, top := sx 32 (pf r 0x20 4), held := false } else b
    | .advance m step _ _ => if m = n then b.map fun b => { b with top := b.top + (step : Int), held := true } else b
    | _ => b

/-- The rows of a window (R272). -/
def windowRows (top : Int) (nr : Nat) : List Int := (List.range nr).map fun (i : Nat) => top + (i : Int)

/-- The first line and the line count of a row's slot (R272). -/
def rowSlot (r : BitVec 512) (y : Int) : Nat × Nat :=
  ((pf r 0x10 4 + (y % ((pf r 0x18 1 : Nat) : Int)).toNat * lbSlot r) / 128, lbSlot r / 128)

/-- The rows that come new into a buffer's window when it moves down by `step` (R272). -/
def LineBuffer.newRows (b : LineBuffer) (step : Nat) : List Int :=
  let nr := pf b.record 0x18 1
  let old := if b.held then windowRows b.top nr else []
  (windowRows (b.top + (step : Int)) nr).filter fun y => !old.contains y

/-- The scratchpad from the first to the last byte of some rows' slots, if there are any (R269). -/
def rowsSpan (r : BitVec 512) (rows : List Int) : List (Nat × Nat) :=
  let firsts := rows.map fun y => 128 * (rowSlot r y).1
  match firsts with
  | [] => []
  | a :: l => [(l.foldl Nat.min a, l.foldl Nat.max a + lbSlot r - 1)]

/-- LBADV (R272): an unset buffer is the copy-invalid fault (R271). -/
def execLbadv (t : Tpl) (s : State) : Out :=
  if !s.guard0 t then issue 0x30A t id s
  else if s.curCore.carving then .next s.blockWord
  else
    let k := field t.mod 0 2
    match s.curCore.cx.queue.foldl (LineBuffer.after k) (sfind s.curCore.cx.lbs k) with
    | none => .next (s.faultCur (copyInvalid 0x18))
    | some b =>
      issueCopy 0x30A t (.advance k (field t.imm 0 8) (field t.imm 8 6) (bit t.imm 14)) []
        (rowsSpan b.record (b.newRows (field t.imm 0 8))) id s

/-- The neighbour of a core in its cluster's 4 by 2 grid (R273). -/
def haloNeighbour (c dir : Nat) : Option Nat :=
  let i := c % 8
  let x := i % 4
  let y := i / 4
  match dir with
  | 0 => if x = 0 then none else some (c - 1)
  | 1 => if x = 3 then none else some (c + 1)
  | 2 => if y = 0 then none else some (c - 4)
  | _ => if y = 1 then none else some (c + 4)

/-- CHALO (R273): the neighbour must hold a job of the team. -/
def execChalo (t : Tpl) (s : State) : Out :=
  if !s.guard0 t then issue 0x30B t id s
  else if s.curCore.carving then .next s.blockWord
  else
    let c := s.cur.core
    let n := field t.imm 0 16
    let dst := (s.opa t).toNat
    let src := (s.opb t).toNat
    let size := spSize s.curCore.theJob
    if n = 0 then .next (s.faultCur (copyInvalid 0))
    else if dst % 128 != 0 then .next (s.faultCur (misaligned (s.opa t) 128))
    else if src % 128 != 0 then .next (s.faultCur (misaligned (s.opb t) 128))
    else if size < dst + 128 * n then .next (s.faultCur (spFault s c dst))
    else if size < src + 128 * n then .next (s.faultCur (spFault s c src))
    else
      let bad := match haloNeighbour c (field t.mod 0 2) with
        | some d => !s.sameTeam c d
        | none => false
      if bad then .next (s.faultCur (spFault s c src))
      else
        issueCopy 0x30B t
          (.halo (field t.mod 0 2) n dst src (field t.imm 16 4) (field t.imm 21 6) (bit t.imm 20) (bit t.imm 27)) []
          [(dst, dst + 128 * n - 1)] id s

/-! ## Tags (R265, R266) -/

/-- Set a tag with its scope at the end of the engine cycle (R265). -/
def Core.setTag (k : Core) (tag scope : Nat) : Core := { k with tagSets := k.tagSets ++ [(tag, scope)] }

/-- Clears apply first and sets second (R265); each bit keeps the widest scope since it was last clear (R291). -/
def Core.applyTags (k : Core) : Core :=
  let cleared := k.tags &&& ~~~ k.tagsClr
  let scopes := k.tagScope.filter fun e => bit cleared e.1
  { k with
    tags := k.tagSets.foldl (fun w p => setBit w p.1 true) cleared
    tagScope := k.tagSets.foldl (fun m p => sset 0 m p.1 (Nat.max (sget 0 m p.1) p.2)) scopes
    tagSets := [], tagsClr := 0 }

/-- The widest completion scope among some tags (R291). -/
def Core.scopeOfTags (k : Core) (m : W64) : Nat :=
  k.tagScope.foldl (fun a e => if bit m e.1 then Nat.max a e.2 else a) 0

/-- Observe tags: the join acquire at their widest scope (R291). -/
def observeTags (m : W64) (s : State) : State := s.acquire s.cur.core (s.curCore.scopeOfTags m)

/-- Clear tags at the end of the cycle. -/
def clearTags (m : W64) (s : State) : State := s.updCur fun k => { k with tagsClr := k.tagsClr ||| m }

/-- A wait on tags (R266): `ready` and the result of T and m; `clr` what CLR clears. -/
def tagWait (o : Nat) (t : Tpl) (ready : W64 → W64 → Bool) (res clr : W64 → W64 → W64) (s : State) : Out :=
  let tg := s.curCore.tags
  let m := s.opa t
  if !s.guard0 t then issue o t id s
  else if !ready tg m then .next s.blockWord
  else
    issue o t (fun s =>
      let s := observeTags (tg &&& m) s
      let s := if bit t.mod 0 then clearTags (clr tg m) s else s
      s.landWord t.dst 1 (res tg m)) s

/-- Some wanted tag is set, or none is wanted. -/
def tagAny (tg m : W64) : Bool := tg &&& m != 0 || m == 0

/-- Every wanted tag is set. -/
def tagAll (tg m : W64) : Bool := tg &&& m == m

/-- Index of the lowest set bit, 64 for none (R266). -/
def firstTag (tg m : W64) : W64 := BitVec.ofNat 64 (lowestBit (tg &&& m).toNat 64)

/-- The lowest set bit alone. -/
def firstBit (tg m : W64) : W64 := if tg &&& m = 0 then 0 else BitVec.ofNat 64 (1 <<< lowestBit (tg &&& m).toNat 64)

/-- CWANY (R266). -/
def execCwany (t : Tpl) (s : State) : Out := tagWait 0x0A0 t tagAny (· &&& ·) (· &&& ·) s
/-- CWANY_CX (R266). -/
def execCwanyCx (t : Tpl) (s : State) : Out := tagWait 0x301 t tagAny (· &&& ·) (· &&& ·) s
/-- CWALL (R266). -/
def execCwall (t : Tpl) (s : State) : Out := tagWait 0x0A1 t tagAll (· &&& ·) (fun _ m => m) s
/-- CWALL_CX (R266). -/
def execCwallCx (t : Tpl) (s : State) : Out := tagWait 0x302 t tagAll (· &&& ·) (fun _ m => m) s
/-- CFIRST (R266). -/
def execCfirst (t : Tpl) (s : State) : Out := tagWait 0x0A2 t tagAny firstTag firstBit s
/-- CFIRST_CX (R266). -/
def execCfirstCx (t : Tpl) (s : State) : Out := tagWait 0x303 t tagAny firstTag firstBit s

/-- `ctest` (R266). -/
def tagTest (o : Nat) (t : Tpl) (s : State) : Out :=
  issue o t (fun s =>
    let v := s.curCore.tags &&& s.opa t
    (observeTags v s).landWord t.dst 1 v) s

/-- CTEST (R266). -/
def execCtest (t : Tpl) (s : State) : Out := tagTest 0x0A3 t s
/-- CTEST_CX (R266). -/
def execCtestCx (t : Tpl) (s : State) : Out := tagTest 0x304 t s

/-- `ctclr` (R266): it too is an observing word. -/
def tagClear (o : Nat) (t : Tpl) (s : State) : Out :=
  issue o t (fun s =>
    let m := s.opa t
    clearTags m (observeTags (s.curCore.tags &&& m) s)) s

/-- CTCLR (R266). -/
def execCtclr (t : Tpl) (s : State) : Out := tagClear 0x0A4 t s
/-- CTCLR_CX (R266). -/
def execCtclrCx (t : Tpl) (s : State) : Out := tagClear 0x305 t s

/-- `fetest` (R268): the bits at the start of the cycle. -/
def fullTest (o : Nat) (t : Tpl) (s : State) : Out :=
  let ea := s.opa t
  if !s.guard0 t then issue o t id s
  else if ea.toNat % 128 != 0 then .next (s.faultCur (misaligned ea 128))
  else
    match s.spTarget s.cur.core ea.toNat false with
    | none => .next (s.faultCur (spFault s s.cur.core ea.toNat))
    | some (d, off) =>
      if s.curCore.carving then .next s.blockWord
      else
        issue o t (fun s =>
          s.landWord t.dst 1 (ofBits 64 fun i =>
            decide (off + 128 * i < spSize s.curCore.theJob) && ((s.core d).spLine (off / 128 + i)).full)) s

/-- FETEST (R268). -/
def execFetest (t : Tpl) (s : State) : Out := fullTest 0x0A5 t s
/-- FETEST_CX (R268). -/
def execFetestCx (t : Tpl) (s : State) : Out := fullTest 0x308 t s

/-! ## Barriers (R274-R277) -/

/-- Barrier `b` of the issuing core's cluster. -/
def State.bar (s : State) (c b : Nat) : Bar := sget {} (s.cluster (clusterOf c)).bars b

/-- A post or an arrival of the current engine cycle. -/
def State.addBar (s : State) (k b : Nat) (post : Option Nat) (arr : Nat) : State :=
  s.updCluster k fun u => { u with barAdds := u.barAdds ++ [(b, post, arr)] }

/-- Bytes posted to a barrier so far in this engine cycle. -/
def Cluster.postsOf (u : Cluster) (b : Nat) : Nat :=
  (u.barAdds.filter fun e => e.1 == b).foldl (fun a e => a + e.2.1.getD 0) 0

/-- A fault of a cluster's sequencer (R278). -/
def State.clusterFault (s : State) (k part : Nat) (f : FaultInfo) : State :=
  s.raiseRecord part
    { src := clusterSource k, code := f.code.code, gtc := s.gtc, ctag := s.ctagOf (s.part part).ctx, addr := f.addr, det1 := f.det1
      det2 := f.det2 }

/-- BCPOST (R275). -/
def execBcpost (t : Tpl) (s : State) : Out :=
  let b := field t.imm 0 4
  let k := clusterOf s.cur.core
  let n := (s.opa t).toNat
  let bar := s.bar s.cur.core b
  if s.guard0 t && decide (2 ^ 48 ≤ n ∨ 2 ^ 48 ≤ bar.exp + (s.cluster k).postsOf b + n) then
    .next ((s.clusterFault k s.curCore.theJob.part
      { code := .barrierOverrun, det1 := BitVec.ofNat 64 b, det2 := BitVec.ofNat 64 bar.arr }).updCurStrm fun st => { st with trapped := true })
  else issue 0x30D t (fun s => (s.addBar k b (some n) 0).landWord t.dst 1 (bar.gen.setWidth 64)) s

/-- BCWAIT (R277): the end of the wait is the join edge of the generation, at cluster scope. -/
def execBcwait (t : Tpl) (s : State) : Out :=
  let g := (s.bar s.cur.core (field t.imm 0 4)).gen
  if s.guard0 t && g == (s.opa t).setWidth 16 then .next s.blockWord
  else issue 0x30E t (fun s => (s.acquire s.cur.core 1).landWord t.dst 1 (g.setWidth 64)) s

/-- BCWAIT_RD (R277). -/
def execBcwaitRd (t : Tpl) (s : State) : Out :=
  scalarOp 0x30E 1 t (fun s => (s.bar s.cur.core (field t.imm 0 4)).gen.setWidth 64) s

/-- BCWAIT_ARM (R277). -/
def execBcwaitArm (t : Tpl) (s : State) : Out :=
  issue 0x30E t (fun s =>
    let b := field t.imm 0 4
    let g := (s.bar s.cur.core b).gen
    let tag := field t.imm 4 6
    s.updCur fun k =>
      let rest := k.cx.arms.filter fun a => a.1 != b
      if g != (s.opa t).setWidth 16 then ({ k with cx := { k.cx with arms := rest } } : Core).setTag tag 1
      else { k with cx := { k.cx with arms := rest ++ [(b, field (s.opa t) 0 16, tag)] } }) s

/-- A barrier after the posts and arrivals of one engine cycle (R276): the barrier, and whether it overran. -/
def Bar.settle (b : Bar) (posts : List Nat) (arr : Nat) : Bar × Bool :=
  let b := { b with posted := b.posted || !posts.isEmpty, exp := b.exp + posts.foldl (· + ·) 0, arr := (b.arr + arr) % 2 ^ 48 }
  if !b.posted || b.arr < b.exp then (b, false)
  else
    let past := decide (b.exp < b.arr)
    ({ gen := b.gen + 1, overrun := b.overrun || past }, past)

/-- The partition that covers a cluster, by its resident jobs. -/
def State.partOfCluster (s : State) (k : Nat) : Nat :=
  ((List.range 8).findSome? fun i => ((s.core (8 * k + i)).job).map (·.part)).getD 0

/-- BARRIER_GENERATION_COMPLETE (R276, R277): the end of an engine cycle of a cluster for its barriers and the arms on them. -/
def State.endBarriers (s : State) (k : Nat) : State :=
  let u := s.cluster k
  let ids := (u.barAdds.map (·.1)).eraseDups
  let s := s.updCluster k fun u => { u with barAdds := [] }
  ids.foldl (fun s b =>
    let mine := u.barAdds.filter fun e => e.1 == b
    let (bar, past) := (sget {} u.bars b).settle (mine.filterMap (·.2.1)) (mine.foldl (fun a e => a + e.2.2) 0)
    let s := s.updCluster k fun u => { u with bars := sset {} u.bars b bar }
    let s := if bar.gen = (sget {} u.bars b).gen then s
      else foldUpTo 8 (fun s i =>
        s.updCore (8 * k + i) fun co =>
          let hit := co.cx.arms.filter fun a => a.1 == b && a.2.1 != bar.gen.toNat
          let co := { co with cx := { co.cx with arms := co.cx.arms.filter fun a => !(a.1 == b && a.2.1 != bar.gen.toNat) } }
          hit.foldl (fun co a => co.setTag a.2.2 1) co) s
    if past then
      s.clusterFault k (s.partOfCluster k)
        { code := .barrierOverrun, det1 := BitVec.ofNat 64 b
          det2 := BitVec.ofNat 64 ((sget {} u.bars b).arr + mine.foldl (fun a e => a + e.2.2) 0) }
    else s) s

/-! ## Running copies (R254-R262) -/

/-- The copy engine with an engine number: a core's, or a copy server's (598, 599). -/
def State.cxOf (s : State) (eng : Nat) : Cx :=
  if eng < 512 then (s.core eng).cx else if eng = 598 then s.server0 else s.server1

/-- Change a copy engine. -/
def State.updCx (s : State) (eng : Nat) (f : Cx → Cx) : State :=
  if eng < 512 then s.updCore eng fun k => { k with cx := f k.cx }
  else if eng = 598 then { s with server0 := f s.server0 }
  else { s with server1 := f s.server1 }

/-- Source number of a copy server (R403). -/
def serverSource (h : Nat) : Nat := (8 + h) * 4096 + 4 * 64

/-- For whom a command runs. -/
def State.copyParty (s : State) (eng : Nat) (q : CopyCmd) : Party :=
  match q.server with
  | none => s.engineParty eng .cx
  | some (ctag, _) =>
    { master := eng, unit := 67 + (eng - 598), ctag := ctag, part := (s.ctx (ctagCtx ctag)).part, slot := none, node := 0xFFFFFFFF
      core := none, waiter := .unit (ctagCtx ctag) (serverSource (eng - 598)), who := 2 ^ 41 + eng }

/-- Destination bytes that a command has completed (R256). -/
def Cx.bytesDone (x : Cx) (q : CopyCmd) : Nat :=
  match q.kind with
  | .advance n _ _ _ => q.done * ((sfind x.lbs n).map fun b => lbSlot b.record).getD 0
  | .halo _ _ _ _ _ _ _ _ => 128 * q.done
  | _ => q.done

/-- An access of a command that did not go on. -/
def State.stopCopy (s : State) (eng : Nat) (q : CopyCmd) (x : Stop) : State :=
  match q.server with
  | none =>
    match x with
    | .bad _ =>
      -- bytes of earlier chunks stay in the lines that were full (R256)
      let s := q.buf.foldl (fun (s : State) e =>
        s.updCore (e.1 / 2 ^ 17) fun k => if (k.spLine (e.1 % 2 ^ 17)).full then k.fillBuf 2 [(e.1 % 2 ^ 17, e.2)] else k) s
      s.stopStrm eng .cx x q.pc ((s.core eng).cx.bytesDone q)
    | x => s.stopStrm eng .cx x q.pc 0
  | some (ctag, _) =>
    match x with
    | .wait s => s
    | .bad f => s.unitFault (ctagCtx ctag) (serverSource (eng - 598)) f
    | .stale u => s.updMem fun m => m.countDrop u (ctagCtx ctag)
    | .poison _ => s

/-- Replace a command. -/
def Cx.setCmd (x : Cx) (q : CopyCmd) : Cx := { x with queue := mapIf (fun c => c.seq == q.seq) (fun _ => q) x.queue }

/-- A command leaves. -/
def Cx.dropCmd (x : Cx) (seq : Nat) : Cx := { x with queue := x.queue.filter fun c => c.seq != seq }

/-- Total units of work of a command: bytes, rows or lines. -/
def CopyCmd.total (q : CopyCmd) : Nat :=
  match q.kind with
  | .copy p _ => pktBytes p
  | .post _ _ _ => 64
  | .advance _ _ _ _ => q.rows.length
  | .halo _ n _ _ _ _ _ _ => n
  | _ => 0

/-- The line buffer a command concerns. -/
def CopyKind.buffer : CopyKind → Option Nat
  | .lbset k _ => some k
  | .advance k _ _ _ => some k
  | _ => none

/-- Whether a command reads virtual memory as its core sees it (R255, R272). -/
def CopyKind.readsVirtual (k : CopyKind) : Bool :=
  match k with
  | .copy p _ => pf p 4 1 == 0 && !(pf p 1 1).testBit 2
  | .advance _ _ _ _ => true
  | _ => false

/-- Whether a copy command may start (R254, R255, R258, R270, R271): the commands before it have started, at most 8 run, its ranges are
free, what its core wrote before it can be seen, ORDR and its line buffer are served. -/
def State.copyReady (s : State) (eng : Nat) (q : CopyCmd) : Bool :=
  let x := s.cxOf eng
  let before := x.queue.filter fun c => c.seq < q.seq
  let running := x.queue.filter fun c => c.started && !c.complete
  !q.started && before.all (·.started) && running.length < 8
    && (match q.kind with
        | .copy p _ => !(pf p 1 1).testBit 3 || before.all (·.complete)
        | _ => true)
    && (q.kind.buffer.isNone || before.all fun c => c.complete || c.kind.buffer != q.kind.buffer)
    && (512 ≤ eng || ((s.core eng).rangeReady .cx q.seq && !(q.kind.readsVirtual && s.storesAhead eng q.ord)))

/-- Header fields of a queue read at its home: RIDX, BASE, LOG2N (R260). -/
def State.queueHeader (s : State) (p : Party) (hdr : W64) : Acc (Nat × Nat × Nat × Nat) := do
  let bs ← s.readVirt { p with core := none, slot := none } false permR hdr.toNat 32
  let w := natOfP bs
  pure (nbits w 0 64, nbits w 64 64, nbits w 128 64, nbits w 192 8)

/-- Whether the copies of a core have stopped at their units of work (R397, R405). -/
def State.copyHeld (s : State) (eng : Nat) : Bool := eng < 512 && s.enginesHeld eng

/-- Whether a template overlay that reads no virtual source has its permission: a request without an address, put to the first slice group of
the core's C-die (R259, R334; log entry 107). -/
def State.mayOverlay (s : State) (c : Nat) (q : CopyCmd) : Bool :=
  match q.kind with
  | .copy p true =>
    if pf p 5 1 != 3 || q.kind.readsVirtual then true
    else
      let e := s.mem.accEntry (8 * dieOf (clusterOf c)) c
      bit e 127 && (field e 112 10 == 0x3FF || field e 112 10 == (s.core c).theJob.ctx) && (permT &&& field e 122 5 == permT)
  | _ => true

/-- COPY_START (R254, R259, R267, R271, R272). -/
def execCopyStart (eng seq : Nat) (s : State) : Out :=
  match (s.cxOf eng).queue.find? fun q => q.seq == seq with
  | none => .next s
  | some q =>
    if !s.copyReady eng q || s.copyHeld eng then .next s
    else if eng < 512 && !s.mayOverlay eng q then .next (s.stopCopy eng q (.bad (violation 0 eng permT)))
    else
      match q.kind with
      | .fe fill off n =>
        .next ((s.updCore eng fun k =>
          let k := foldUpTo n (fun k i =>
            if fill then k.spWrite 2 (off / 128 + i) 0 0
            else k.spEmpty 2 (off / 128 + i)) k
          k.rangeDone .cx seq).updCx eng fun x => x.dropCmd seq)
      | .lbset n r =>
        .next (s.updCx eng fun x =>
          { x.dropCmd seq with lbs := sinsert x.lbs n { record := r, top := sx 32 (pf r 0x20 4), held := false } })
      | .advance n step _ _ =>
        match sfind (s.cxOf eng).lbs n with
        | none => .next s
        | some b =>
          let top := b.top + (step : Int)
          let rows := b.newRows step
          let s := s.updCore eng fun k => rows.foldl (fun k y =>
            foldUpTo (rowSlot b.record y).2 (fun k i => k.spEmpty 2 ((rowSlot b.record y).1 + i)) k) k
          .next (s.updCx eng fun x =>
            { x.setCmd { q with started := true, rows := rows } with lbs := sinsert x.lbs n { b with top := top, held := true } })
      | .post _ hdr i =>
        match s.queueHeader (s.copyParty eng q) hdr with
        | .ok (_, ridx, _, lg) => if i < ridx + 2 ^ lg then .next (s.updCx eng fun x => x.setCmd { q with started := true }) else .next s
        | .error x => .next (s.stopCopy eng q x)
      | _ => .next (s.updCx eng fun x => x.setCmd { q with started := true })

/-- Source bytes of one segment of a packet (R255). -/
def State.readSegment (s : State) (eng : Nat) (q : CopyCmd) (p : BitVec 512) (row col len : Nat) : Acc (List PByte) :=
  if (pf p 1 1).testBit 2 then .ok (List.replicate len (0, false))
  else if pf p 4 1 = 1 then
    let a := (srcRow p row + col) % 2 ^ 64
    match s.spRangeTarget eng a len false with
    | none => .error (.bad (spFault s eng (s.spFirstBad eng a len false)))
    | some (d, off) =>
      match (s.core d).spBytes off len with
      | some bs => .ok bs
      | none => .error (.wait s)
  else s.readVirt (s.copyParty eng q) false (if pf p 5 1 = 3 then permR + permT else permR) ((srcRow p row + col) % 2 ^ 64) len

/-- A copy from peer memory puts the device into its context's fabric set (R356). -/
def State.joinSource (s : State) (eng : Nat) (q : CopyCmd) (va : Nat) : State :=
  let p := s.copyParty eng q
  if !q.kind.readsVirtual then s
  else match s.mem.translate p.unit p.ctag (BitVec.ofNat 64 va) 0 with
  | .hit pa _ => s.joinAt (ctagCtx p.ctag) pa
  | _ => s

/-- Write one segment of a packet: at the homes of its lines, or into the lines that completion will fill (R255, R259). -/
def State.writeSegment (s : State) (eng : Nat) (q : CopyCmd) (p : BitVec 512) (row col : Nat) (bs : List PByte) : Acc (State × CopyCmd) :=
  let dk := pf p 5 1
  let a := (dstRow p row + col) % 2 ^ 64
  if dk = 1 then
    match s.spRangeTarget eng a bs.length false with
    | none => .error (.bad (spFault s eng (s.spFirstBad eng a bs.length false)))
    | some (d, off) => .ok (s, { q with buf := bufRange q.buf (2 ^ 24 * d + off) bs })
  else if dk = 3 then .ok (s, { q with buf := bufRange q.buf (row * pf p 0x18 4 + col) bs })
  else
    match s.writeVirt (s.copyParty eng q) (if dk = 2 then permW + permX else permW) a bs with
    | .ok (s, pas) => .ok (s, { q with pas := (q.pas ++ pas).eraseDups })
    | .error (.bad f) =>
      -- a page that does not grant write and execute is the access violation of an overlay (R259)
      .error (.bad (if dk = 2 && f.code == .translation && nbits f.det1.toNat 0 4 == 5 then violation f.addr eng (permW + permX) else f))
    | .error x => .error x

/-- A length cut where either of two addresses crosses a line: offset and length of each piece. -/
def cutLines : Nat → Nat → Nat → Nat → Nat → List (Nat × Nat)
  | 0, _, _, _, _ => []
  | fuel + 1, a, b, off, n =>
    if n = 0 then []
    else
      let m := Nat.min n (Nat.min (128 - a % 128) (128 - b % 128))
      (off, m) :: cutLines fuel (a + m) (b + m) (off + m) (n - m)

/-- The source bytes of one segment of a packet, every byte checked at its source and then at its destination before the next is (R256). -/
def State.checkSegment (s : State) (eng : Nat) (q : CopyCmd) (p : BitVec 512) (row col len : Nat) : Acc (List PByte) :=
  (cutLines len (srcRow p row + col) (dstRow p row + col) col len).foldlM (fun bs g => do
    let b ← s.readSegment eng q p row g.1 g.2
    let _ ← s.writeSegment eng q p row g.1 b
    pure (bs ++ b)) []

/-- The next chunk of a command: 4 KiB of a copy, a row of an advance, 32 lines of a halo, a queue slot (R255, R261, R272,
R273). -/
def State.chunk (s : State) (eng : Nat) (q : CopyCmd) : Acc (State × CopyCmd) :=
  match q.kind with
  | .copy p _ =>
    let n := Nat.min 4096 (q.total - q.done)
    let segs := segmentsOf (pf p 0x18 4) 4096 q.done n
    match segs.mapM fun g => s.checkSegment eng q p g.1 g.2.1 g.2.2 with
    | .error x => .error x
    | .ok data =>
      match (segs.zip data).foldlM (fun (a : State × CopyCmd) g => a.1.writeSegment eng a.2 p g.1.1 g.1.2.1 g.2) (s, q) with
      | .ok (s, q) => .ok (s.joinSource eng q (srcRow p (segs.headD (0, 0, 0)).1), { q with done := q.done + n })
      | .error x => .error x
  | .post p hdr i =>
    let party := { s.copyParty eng q with slot := none }
    match s.queueHeader party hdr with
    | .error x => .error x
    | .ok (_, _, base, lg) =>
      let bs := (List.range 64).map fun j => if j = 63 then (BitVec.ofNat 8 (lapOf lg i), false) else (byteAt p j, false)
      match s.writeVirt party permW ((base + 64 * (i % 2 ^ lg)) % 2 ^ 64) bs with
      | .ok (s, pas) => .ok (s, { q with pas := pas, done := 64 })
      | .error x => .error x
  | .advance n _ _ _ =>
    match sfind (s.cxOf eng).lbs n, q.rows[q.done]? with
    | some b, some y =>
      let r := b.record
      let rowb := pf r 0x14 4
      let inside := decide (0 ≤ y ∧ y < (pf r 0x1C 4 : Nat))
      let data := if inside then
          s.readVirt (s.copyParty eng q) false permR ((pf r 0 8 + y.toNat * pf r 8 8) % 2 ^ 64) rowb
        else .ok (List.replicate rowb (0, false))
      match data with
      | .error x => .error x
      | .ok bs =>
        let bs := bs ++ List.replicate (lbSlot r - rowb) (0, false)
        .ok (s, { q with buf := bufRange q.buf (2 ^ 24 * eng + 128 * (rowSlot r y).1) bs, done := q.done + 1 })
    | _, _ => .ok (s, { q with done := q.done + 1 })
  | .halo dir n dst src _ _ _ _ =>
    let m := Nat.min 32 (n - q.done)
    let bs := match haloNeighbour eng dir with
      | some d => (s.core d).spBytes (src + 128 * q.done) (128 * m)
      | none => some (List.replicate (128 * m) (0, false))
    match bs with
    | none => .error (.wait s)
    | some bs => .ok (s, { q with buf := bufRange q.buf (2 ^ 24 * eng + dst + 128 * q.done) bs, done := q.done + m })
  | _ => .ok (s, q)

/-- How many sides of a command go through L2 (R429). -/
def CopyKind.virtualSides (k : CopyKind) : Nat :=
  match k with
  | .copy p _ => (if pf p 4 1 = 0 then 1 else 0) + if pf p 5 1 = 0 ∨ pf p 5 1 = 2 then 1 else 0
  | .post _ _ _ | .advance _ _ _ _ => 1
  | _ => 0

/-- COPY_CHUNK (R255, R256, R261, R272, R273): the next chunk of a running command is read and written. -/
def execCopyChunk (eng seq : Nat) (s : State) : Out :=
  match (s.cxOf eng).queue.find? fun q => q.seq == seq with
  | none => .next s
  | some q =>
    let cls := if eng < 512 then some (16, 0) else none
    if !q.started || q.complete || q.total ≤ q.done || s.copyHeld eng || !s.admits eng cls then .next s
    else
      match s.chunk eng q with
      | .ok (s, r) =>
        .next (((s.charge eng cls).chargeMaster eng 17 (ceilDiv (r.done - q.done) 128 * q.kind.virtualSides)).updCx eng fun x => x.setCmd r)
      | .error x => .next (s.stopCopy eng q x)

/-- Barrier bytes, tag and scope of a command's completion (R257, R272, R273). -/
def CopyCmd.completion (q : CopyCmd) : Option (Nat × Nat) × Option Nat × Nat :=
  match q.kind with
  | .copy p _ =>
    (if (pf p 1 1).testBit 1 then some (pf p 3 1, pktBytes p) else none, if (pf p 1 1).testBit 0 then some (pf p 2 1) else none,
      pktScope p)
  | .advance _ _ tag tagv => (none, if tagv then some tag else none, 1)
  | .halo _ n _ _ bar tag barv tagv => (if barv then some (bar, 128 * n) else none, if tagv then some tag else none, 1)
  | .post _ _ _ => (none, none, 3)
  | _ => (none, none, 0)

/-- The address of the completion word, if the packet has one (R257). -/
def CopyCmd.cpa (q : CopyCmd) : Nat :=
  match q.kind with
  | .copy p _ => pf p 0x30 8
  | _ => 0

/-- Whether a byte address lies in a packet's instruction-memory destination (R259). -/
def inOverlay (p : BitVec 512) (a : Nat) : Bool := decide (pf p 0x10 8 ≤ a ∧ a < pf p 0x10 8 + pktBytes p)

/-- The completion effects of an overlay (R67, R259): fetched words of the range are discarded, or templates take the bytes. -/
def State.endOverlay (s : State) (c : Nat) (q : CopyCmd) (p : BitVec 512) : State :=
  if pf p 5 1 = 2 then
    s.updCore c fun k => [StreamId.cl, .cc, .cs, .vx, .mx, .cx].foldl (fun k e =>
      k.updStrm e fun st => { st with fetchBuf := st.fetchBuf.filter fun w => !inOverlay p w.1 }) k
  else if pf p 5 1 = 3 then
    let e := (StreamId.ofCode? (pf p 0x10 8 % 8)).getD .cl
    let n := nbits (pf p 0x10 8) 8 6
    let at_ := fun i => ((q.buf.find? fun b => b.1 == i / 8).map fun b => BitVec.ofNat 128 (b.2.2.1.toNat >>> (128 * (i % 8)))).getD 0
    s.updCore c fun k =>
      { k with tplWrites := k.tplWrites ++ (List.range (pktBytes p / 16)).map fun i => (e, n + i, at_ i) }
  else s

/-- The scope at which a command of a core is a release: of a queue post, fabric when its header translates to peer memory (R257, R261). -/
def State.releaseScope (s : State) (c : Nat) (q : CopyCmd) : Nat :=
  match q.kind with
  | .post _ hdr _ =>
    match destOf s.mem (s.paOf (s.engineParty c .cx) hdr) with
    | .peer _ _ => 4
    | _ => 3
  | _ => q.completion.2.2

/-- The tags, barrier arrivals, fills and publication of a completed command of a core (R255, R257). -/
def State.endCommand (s : State) (c : Nat) (q : CopyCmd) : State :=
  let (bar, tag, _) := q.completion
  let scope := s.releaseScope c q
  let tplCopy := match q.kind with
    | .copy p _ => pf p 5 1 == 3
    | _ => false
  let s := if tplCopy then s
    else q.buf.foldl (fun s e =>
      s.updCore (e.1 / 2 ^ 17) fun k => k.fillBuf 2 [(e.1 % 2 ^ 17, e.2)]) s
  let s := match bar with
    | some (b, n) => s.addBar (clusterOf c) b none n
    | none => s
  let s := match tag with
    | some g => s.updCore c fun k => k.setTag g scope
    | none => s
  let j := (s.core c).theJob
  -- a copy that arrives at a barrier is released at cluster scope before any generation that it counts in completes (R276)
  let s := if q.pas.isEmpty then s else s.publishSig j.ctx c (if bar.isSome then Nat.max scope 1 else scope) (sigOf q.pas)
  let s := s.dropLines c fun l => q.pas.any fun pa => lineOf pa == l.loc
  s.updCore c fun k => k.rangeDone .cx q.seq

/-- Advance RIDX of a registered queue past the packet a copy server has finished: see `Queue.lean`, which serves the slot. -/
def State.serverDone (s : State) (queue : Nat) : State := { s with served := s.served ++ [queue] }

/-- The CPA add of a completed command (R257). -/
def State.cpaAdd (s : State) (eng : Nat) (q : CopyCmd) : State :=
  let p := { s.copyParty eng q with slot := none }
  if eng < 512 then
    match s.reach p (BitVec.ofNat 64 q.cpa) (permR + permW + permA) with
    | .error x => s.stopCopy eng q x
    | .ok pa =>
      let op : MemOp := { strm := .cx, ord := 2 ^ 40 + q.seq, pc := q.pc, kind := .amo 0 .rne 1 false, scope := q.completion.2.2 }
      (s.sendAtomics eng op [({ lane := 0, va := q.cpa, size := 8, data := 0 }, pa)]).1.updCx eng fun x => x.dropCmd q.seq
  else
    match s.unitAdd p q.cpa 1 with
    | .ok (s, _) => (s.updCx eng fun x => x.dropCmd q.seq).serverDone ((q.server.getD (0, 0)).2)
    | .error (.poison pa) =>
      ((s.logEvent 3 (serverSource (eng - 598)) (some p.ctag) 0 (BitVec.ofNat 64 pa) 0xFFFFFFFF).updCx eng fun x => x.dropCmd q.seq).serverDone
        ((q.server.getD (0, 0)).2)
    | .error x => s.stopCopy eng q x

/-- A completion of a copy server publishes on the boards that no cluster owns, up to its scope (R257, R287, R289). -/
def State.publishServer (s : State) (ctx scope : Nat) (g : BitVec 512) : State :=
  let s := if 3 ≤ scope then s.publishOn ctx 0 3 g else s
  if 4 ≤ scope then s.publishOn ctx 0 4 g else s

/-- The engine cycle in which a core's copies completed has ended (R257). -/
def Cx.passed (x : Cx) : Cx := { x with queue := mapIf (fun q => q.complete && !q.past) (fun q => { q with past := true }) x.queue }

/-- COPY_COMPLETE (R257, R272): once every byte has been performed, the command completes in this engine cycle; its CPA add
follows. An overlay completes by OVERLAY_COMPLETE. -/
def execCopyComplete (eng seq : Nat) (s : State) : Out :=
  match (s.cxOf eng).queue.find? fun q => q.seq == seq with
  | none => .next s
  | some q =>
    let overlay := match q.kind with
      | .copy _ o => o
      | _ => false
    if s.copyHeld eng then .next s
    else if q.complete then .next (if q.past then s.cpaAdd eng q else s)
    else if overlay || !q.started || q.done < q.total then .next s
    else
      let s := match q.server with
        | some (t, _) => s.publishServer (ctagCtx t) q.completion.2.2 (sigOf q.pas)
        | none => s.endCommand eng q
      if q.cpa = 0 then
        let s := s.updCx eng fun x => x.dropCmd seq
        .next (match q.server with
          | some (_, n) => s.serverDone n
          | none => s)
      else .next (s.updCx eng fun x => x.setCmd { q with complete := true, buf := [], past := decide (512 ≤ eng) })

/-- OVERLAY_COMPLETE (R259): templates or instruction memory take the bytes; poison in a template overlay is consumed
(R449). -/
def execOverlayComplete (core seq : Nat) (s : State) : Out :=
  match (s.cxOf core).queue.find? fun q => q.seq == seq with
  | none => .next s
  | some q =>
    match q.kind with
    | .copy p true =>
      if !q.started || q.complete || q.done < q.total || s.copyHeld core then .next s
      else if pf p 5 1 = 3 && q.buf.any (fun b => b.2.2.2 != 0) then
        .next (((s.consumePoison core (pf p 8 8)).updCore core fun k => k.rangeDone .cx seq).updCx core fun x => x.dropCmd seq)
      else
        let s := (s.endOverlay core q p).endCommand core q
        if q.cpa = 0 then .next (s.updCx core fun x => x.dropCmd seq)
        else .next (s.updCx core fun x => x.setCmd { q with complete := true, buf := [] })
    | _ => .next s

/-! ## No operation and rendezvous (R249) -/

/-- NOP_CX (R249). -/
def execNopCx (t : Tpl) (s : State) : Out := issue 0x37E t id s
/-- NOP_REP_CX (R158, R249). -/
def execNopRepCx (t : Tpl) (s : State) : Out := repeatOp 0x37E t s
/-- RDV_CX (R34, R249). -/
def execRdvCx (t : Tpl) (s : State) : Out := issue 0x37F t endStream s

end Sys2Proof.Machine
end

