-- ==== Sys2Proof/Machine/Matrix.lean ====
section
/-! DEFINITION. The arithmetic of the matrix engine: operands in tile rows, products, drains, transposed copies, converting loads
(R89, R105-R117, R210-R218). -/

namespace Sys2Proof.Machine

/-! ## Elements of rows (R89) -/

/-- The elements of width `w` of a row of bytes. -/
def codesOf (w : Nat) (row : List Nat) : List Nat :=
  let v := leNat (row.map fun b => BitVec.ofNat 8 b)
  (List.range (8 * row.length / w)).map fun i => nbits v (w * i) w

/-- The bytes of a row of elements of width `w`. -/
def bytesOf (w : Nat) (codes : List Nat) : List Nat :=
  let v := (codes.zipIdx).foldl (fun a p => a + (p.1 % 2 ^ w) * 2 ^ (w * p.2)) 0
  (List.range (codes.length * w / 8)).map fun i => nbits v (8 * i) 8

/-- Rows and columns exchanged. -/
def transposed (n : Nat) (rows : List (List Nat)) : List (List Nat) :=
  (List.range n).map fun j => rows.map fun r => r.getD j 0

/-- Elements in a tile row of 64 bytes (R107). -/
def rowElems (f : Fmt) : Nat := 512 / f.width

/-- The bytes of tile `z`, the elements of accumulator `a`, the scales of tile `z`. -/
def Core.tileBytes (k : Core) (z : Nat) : List Nat := (sdense 0 k.tile (4096 * z) 4096).map BitVec.toNat
def Core.accElems (k : Core) (a : Nat) : List Nat := (sdense 0 k.acc (4096 * a) 4096).map BitVec.toNat
def Core.zsBytes (k : Core) (z : Nat) : List Nat := (sdense 0 k.mx.zs (1024 * z) 1024).map BitVec.toNat

/-- The rows of 64 elements of a list. -/
def rows64 (l : List Nat) : List (List Nat) := segments 64 64 l

/-! ## Products (R107-R109) -/

/-- One operand of a product, prepared: decoded rows and scale rows. -/
structure Operand where
  rows : List (List Num)
  scales : List (List Num)
  deriving DecidableEq, Repr

/-- A tile as an operand in format `f`, with block scales of format `p3`. -/
def operandOf (f : Fmt) (inf p3 : Bool) (bytes zs : List Nat) : Operand :=
  { rows := (rows64 bytes).map fun r => (codesOf f.width r).map fun c => decodeFmt f c inf
    scales := (segments 16 64 zs).map fun r => r.map (decodeScale p3) }

/-- The exact sum of the products of a group; an exact zero is +0 (R107, R108). -/
def groupSum (a b : List Num) : Num :=
  let g := (a.zip b).foldl (fun (acc : Num) p => acc.add false (p.1.mul p.2)) (.fin false 0 0 false)
  if g.isZero then .fin false 0 0 false else g

/-- Whether a number is finite. -/
def Num.isFinite (x : Num) : Bool := !x.isNaN && !x.isInf

/-- One accumulator element of a float product: the groups in increasing K, and the block-scale events (R107, R117). `per`: groups in
a block, zero for no blocks. -/
def mmaFloat (per : Nat) (acc : Num) : Nat → List (List Num) → List (List Num) → List Num → List Num → Num × Nat
  | g, a :: as, b :: bs, sa, sb =>
    let grp := groupSum a b
    let ss := if per = 0 then Num.fin false 1 0 false else (sa.getD (g / per) .nan).mul (sb.getD (g / per) .nan)
    let t := fp32 (grp.mul ss)
    let ev := (if ss.isNaN then 1 else 0) + (if t.isInf && grp.isFinite && ss.isFinite then 1 else 0)
    let r := mmaFloat per (fp32 (acc.add false t)) (g + 1) as bs sa sb
    (r.1, r.2 + ev)
  | _, _, _, _, _ => (acc, 0)

/-- The integer a decoded integer code stands for. -/
def Num.toInt : Num → Int
  | .fin n m e _ => alignMant n m e (if e < 0 then e else 0)
  | _ => 0

/-- The range of INT32. -/
def clamp32 (x : Int) : Int := clampInt (-2147483648) 2147483647 x

/-- One accumulator element of an integer product, with its clamps (R109). -/
def mmaInt (acc : Int) : List (List Num) → List (List Num) → Int × Nat
  | a :: as, b :: bs =>
    let grp := (a.zip b).foldl (fun (x : Int) p => x + p.1.toInt * p.2.toInt) 0
    let y := acc + grp
    let r := mmaInt (clamp32 y) as bs
    (r.1, r.2 + if clamp32 y = y then 0 else 1)
  | _, _ => (acc, 0)

/-- A product added into an accumulator: its elements, and the saturations, NaN results and block-scale events (R107-R109, R117). -/
def mmaAll (int : Bool) (group per : Nat) (A B : Operand) (init : List Nat) : List Nat × Nat × Nat × Nat :=
  let cut := fun (r : List Num) => segments group (r.length / group) r
  let as := A.rows.map cut
  let bs := B.rows.map cut
  let cells := (List.range 64).flatMap fun m =>
    let a := as.getD m []
    let sa := A.scales.getD m []
    ((bs.zip B.scales).zip ((init.drop (64 * m)).take 64)).map fun p =>
      if int then
        let r := mmaInt (sx 32 p.2) a p.1.1
        (narrow 32 r.1, r.2, 0, 0)
      else
        let r := mmaFloat per (fp32Val p.2) 0 a p.1.1 sa p.1.2
        (fp32Code r.1, 0, (if r.1.isNaN && !(fp32Val p.2).isNaN then 1 else 0), r.2)
  (cells.map (·.1), (cells.map (·.2.1)).foldl (· + ·) 0, (cells.map (·.2.2.1)).foldl (· + ·) 0,
    (cells.map (·.2.2.2)).foldl (· + ·) 0)

/-- Whether a format word is of an integer class (R109, R116). -/
def fwInt (w : W64) : Bool := widthClass (fwAfmt w) == 2

/-- Group length (R107). -/
def groupLen (f : Fmt) : Nat := if f.width = 16 then 4 else 8

/-- The format of a code that a check has admitted. -/
def fmtOf (c : Nat) : Fmt := (Fmt.ofCode? c).getD .fp32

/-- The product of two tiles of a core under a format word, added into `init`. -/
def Core.product (k : Core) (w : W64) (za zb : Nat) (init : List Nat) : List Nat × Nat × Nat × Nat :=
  let fa := fmtOf (fwAfmt w)
  let fb := fmtOf (fwBfmt w)
  let per := if fwBlk w = 0 then 0 else blockSize (fwBlk w) 8 / 8
  mmaAll (fwInt w) (groupLen fa) per
    (operandOf fa (fwAinf w) (fwAsc w) (k.tileBytes za) (if per = 0 then List.replicate 1024 0 else k.zsBytes za))
    (operandOf fb (fwBinf w) (fwBsc w) (k.tileBytes zb) (if per = 0 then List.replicate 1024 0 else k.zsBytes zb)) init

/-- Sixty-four by sixty-four zeros. -/
def zeroElems : List Nat := List.replicate 4096 0

/-! ## Known-answer tiles (R225) -/

/-- The operand format of `mkat` (R225). -/
def katFmt (n : Nat) : Fmt :=
  match n with
  | 0 => .b8 4
  | 1 => .e2m1
  | 2 => .bf16
  | _ => .int8

/-- The signature of a result (R225). -/
def katSig (acc : List Nat) : W64 := acc.foldl (fun s x => s.rotateLeft 1 ^^^ BitVec.ofNat 64 x) 0

/-- The signature of a known-answer product of two tiles. -/
def Core.katResult (k : Core) (n za zb : Nat) : W64 :=
  let f := katFmt n
  let z := List.replicate 1024 0
  katSig (mmaAll (n == 3) (groupLen f) 0 (operandOf f false false (k.tileBytes za) z) (operandOf f false false (k.tileBytes zb) z)
    zeroElems).1

/-- The constant of `mkat`: MOD[5:4], EXT[29:0], IMM. -/
def katConst (t : Tpl) : W64 := BitVec.ofNat 64 (field t.mod 4 2 * 2 ^ 62 + field t.ext 0 30 * 2 ^ 32 + t.imm.toNat)

/-! ## Drains (R110, R216-R218) -/

/-- A tensor scale as a number (R216). -/
def tensorScale (w : W64) (x : W32) : Num :=
  if fwTens w then fp32Val x.toNat else decodeFmt .bf16 (field x 0 16) true

/-- tsp (R110). -/
def tspOf (w : W64) (ts : Option (W32 × W32)) : Num :=
  let t := match ts with
    | none => Num.fin false 1 0 false
    | some (a, b) => fp32 ((tensorScale w a).mul (tensorScale w b))
  if fwXform w = 1 then fp32 (t.scale2 (if fwHsz w = 32 then -5 else -4)) else t

/-- The accumulator element as a number. -/
def accNum (int : Bool) (c : Nat) : Num := if int then .ofInt (sx 32 c) else fp32Val c

/-- Drain parameters of an accumulator: format, rounding, saturation, infinities, tsp, INT32 content (R110, R217). -/
structure DrainFmt where
  f : Fmt
  md : Rnd
  sat : Bool
  inf : Bool
  tsp : Num
  int : Bool
  deriving DecidableEq, Repr

/-- The parameters of an AREC; NONE drains to FP32 with tsp = 1 (R217). -/
def drainFmt (w : Option W64) (ts : Option (W32 × W32)) : DrainFmt :=
  match w with
  | none => ⟨.fp32, .rne, false, true, .fin false 1 0 false, false⟩
  | some w => ⟨fmtOf (fwDfmt w), Rnd.ofCode (fwDrnd w), fwDsat w, fwDinf w, tspOf w ts, fwInt w⟩

/-- x of R110 and R218. -/
def DrainFmt.x (p : DrainFmt) (c : Nat) : Num := fp32 ((accNum p.int c).mul p.tsp)

/-- One drained element with the draw `d` (R110). -/
def DrainFmt.elem (p : DrainFmt) (c d : Nat) : Rounded :=
  if p.int && p.f.isInt then roundTo (accNum true c) p.f p.md true false d
  else roundTo (p.x c) p.f p.md p.sat p.inf d

/-- A draw from generator `i` when the rounding is stochastic (R104, R105). -/
def drawIf (md : Rnd) (bank : Sparse W32) (i : Nat) : Nat × Sparse W32 := if md = .sr then srDraw bank i else (0, bank)

/-- The drained elements in row order, the saturations, and the generator bank. -/
def drainAll (p : DrainFmt) (acc : List Nat) (bank : Sparse W32) : List Nat × Nat × Sparse W32 :=
  let r := (acc.zipIdx).foldl (fun (a : List Nat × Nat × Sparse W32) c =>
    let (d, bank) := drawIf p.md a.2.2 (c.2 % 64)
    let e := p.elem c.1 d
    (e.code :: a.1, a.2.1 + (if e.sat then 1 else 0), bank)) ([], 0, bank)
  (r.1.reverse, r.2)

/-- The block scales of the transposed copy: per column, its blocks (R218). -/
def copyScales (w : W64) (xs : List Num) : List (List BlockScale) :=
  let b := blockSize (fwTblk w) 64
  (List.range 64).map fun n =>
    let col := (List.range 64).map fun m => xs.getD (64 * m + n) .nan
    (segments b (64 / b) col).map fun l => blockScale l (fmtOf (fwTfmt w)) (fwTinf w) (fwTscf w)

/-- A drain with its transposed copy: drained elements, transposed elements in the order drawn (element (n, m) at `64 m + n`), scale
codes per column, saturations and block-scale events, and the bank (R105, R218). -/
def drainCopy (w : W64) (p : DrainFmt) (acc : List Nat) (bank : Sparse W32) :
    List Nat × List Nat × List (List Nat) × Nat × Nat × Sparse W32 :=
  let xs := acc.map p.x
  let tf := fmtOf (fwTfmt w)
  let tmd := Rnd.ofCode (fwTrnd w)
  let b := blockSize (fwTblk w) 64
  let scales := copyScales w xs
  let one : BlockScale := ⟨0, .fin false 1 0 false, false, false⟩
  let r := ((acc.zip xs).zipIdx).foldl (fun (a : List Nat × List Nat × Nat × Sparse W32) c =>
    let n := c.2 % 64
    let m := c.2 / 64
    let (d, bank) := drawIf p.md a.2.2.2 n
    let e := p.elem c.1.1 d
    let (d', bank) := drawIf tmd bank n
    let sc := if fwTblk w = 0 then one else (scales.getD n []).getD (m / b) one
    let e' : Rounded := if sc.bad then ⟨zeroCode tf false, false⟩ else roundTo (c.1.2.div sc.value) tf tmd (fwTsat w) (fwTinf w) d'
    (e.code :: a.1, e'.code :: a.2.1, a.2.2.1 + (if e.sat then 1 else 0) + (if e'.sat then 1 else 0), bank)) ([], [], 0, bank)
  let evs := if fwTblk w = 0 then 0 else ((scales.map fun l => (l.filter (·.event)).length).foldl (· + ·) 0)
  (r.1.reverse, r.2.1.reverse, if fwTblk w = 0 then [] else scales.map (fun l => l.map (·.code)), r.2.2.1, evs, r.2.2.2)

/-! ## Converting loads (R212) -/

/-- Sixty-four rows of FP32 values converted: tile bytes, the scale codes of each row's blocks, block-scale events, and the bank. `wt`:
role B. -/
def convertRows (w : W64) (wt : Bool) (md : Rnd) (sat : Bool) (smooth : List Num) (src : List (List Nat)) (bank : Sparse W32) :
    List Nat × List (List Nat) × Nat × Sparse W32 :=
  let f := fmtOf (if wt then fwBfmt w else fwAfmt w)
  let inf := if wt then fwBinf w else fwAinf w
  let p3 := if wt then fwBsc w else fwAsc w
  let K := rowElems f
  let b := blockSize (fwBlk w) K
  let one : BlockScale := ⟨0, .fin false 1 0 false, false, false⟩
  let r := src.foldl (fun (a : List (List Nat) × List (List Nat) × Nat × Sparse W32) row =>
    let x := row.map fp32Val
    let x := if fwXform w = 1 then ((segments (fwHsz w) (K / fwHsz w) x).map hadamardBlock).flatten
      else if fwXform w = 2 then (x.zip smooth).map fun p => fp32 (smoothProduct wt p.1 p.2)
      else x
    let sc := if fwBlk w = 0 then [] else (segments b (K / b) x).map fun l => blockScale l f inf p3
    let q := (x.zipIdx).foldl (fun (q : List Nat × Sparse W32) e =>
      let (d, bank) := drawIf md q.2 (e.2 % 64)
      let s := if fwBlk w = 0 then one else sc.getD (e.2 / b) one
      ((if s.bad then zeroCode f false else (roundTo (e.1.div s.value) f md sat inf d).code) :: q.1, bank)) ([], a.2.2.2)
    (bytesOf f.width q.1.reverse :: a.1, (sc.map (·.code)) :: a.2.1, a.2.2.1 + (sc.filter (·.event)).length, q.2)) ([], [], 0, bank)
  (r.1.reverse.flatten, r.2.1.reverse, r.2.2.1, r.2.2.2)

/-! ## Near-memory products (R231) -/

/-- One row: groups of eight in increasing K, elements beyond the edge entering as zero. -/
def nmvRow (fmt : W64) (acc : Num) (a x : List Num) (scales : List Num) : Num :=
  let n := ceilDiv a.length 8
  let pad := fun (l : List Num) => l ++ List.replicate (8 * n - l.length) (.fin false 0 0 false)
  let per := if fwBlk fmt = 0 then 0 else blockSize (fwBlk fmt) 8 / 8
  (((segments 8 n (pad a)).zip (segments 8 n (pad x))).zipIdx).foldl (fun (acc : Num) p =>
    let ss := if per = 0 then Num.fin false 1 0 false else scales.getD (p.2 / per) .nan
    fp32 (acc.add false (fp32 ((groupSum p.1.1 p.1.2).mul ss)))) acc

end Sys2Proof.Machine
end

