-- ==== Sys2Proof/Machine/MatrixOps.lean ====
section
/-! DEFINITION. The matrix words: what they do at issue, and the scratchpad ranges their commands hold (R200, R203-R206). -/

namespace Sys2Proof.Machine

/-- Register number of a tile code and of an accumulator code (R47). -/
def tileNum (c : BitVec 8) : Nat := c.toNat - 144
def accNumOf (c : BitVec 8) : Nat := c.toNat - 160

/-- The register a tile or accumulator code names. -/
def mreg (c : BitVec 8) : MReg := if 160 ≤ c.toNat then .acc (accNumOf c) else .tile (tileNum c)

/-- Whether an issued counter read has yet to write a scalar that a word reads (R200). -/
def Mx.scalarBusy (x : Mx) (codes : List Nat) : Bool :=
  let reads := fun (c : MxCmd) => c.o == 0x20A && codes.contains c.t.dst.toNat && c.t.dst.toNat != 0
  x.queue.any reads || x.running.any fun r => reads r.cmd

/-- The stride of a row form: EXT[15:0] in units of 16 bytes, zero meaning dense (R210). -/
def rowStride (t : Tpl) (row : Nat) : Nat := if field t.ext 0 16 = 0 then ceilDiv row 16 * 16 else 16 * field t.ext 0 16

/-- A stride that is zero or at least the row length (R210). -/
def strideOk (t : Tpl) (row : Nat) : Bool := field t.ext 0 16 == 0 || decide (row ≤ 16 * field t.ext 0 16)

/-- First and last byte of `n` rows from `a`. -/
def rowSpan (a n row stride : Nat) : Nat × Nat := (a, a + (n - 1) * stride + row - 1)

/-- Rows and row bytes of the source of a raw load (R211). -/
def rawShape (t : Tpl) : Nat × Nat :=
  if !bit t.mod 2 then (64, 64)
  else match field t.mod 4 2 with
    | 1 => (128, 32)
    | 2 => (32, 128)
    | _ => (64, 64)

/-- The stamp of a word (R206): SBASE + EXT[29:0]. -/
def State.mxStamp (s : State) (t : Tpl) : Nat := (s.curCore.mx.sbase + BitVec.ofNat 64 (field t.ext 0 30)).toNat

/-- The scratchpad ranges that a command of core `c` enters at issue, by its operands: reads and writes (R203). Only a range of the
core's own array is entered. -/
def commandRanges (c o : Nat) (t : Tpl) (opa opb opc : W64) : List (Nat × Nat) × List (Nat × Nat) :=
  let ea := (opa + simm t).toNat
  let own := fun (l : List (Nat × (Nat × Nat))) => (l.filter fun p => ownAddr c p.1).map fun p => ((p.2.1 % 2 ^ 24), p.2.1 % 2 ^ 24 + (p.2.2 - p.2.1))
  let mk := fun (p : Nat × Nat) => own [(p.1, p)]
  let va := bit t.mod 3
  match o with
  | 0x200 =>
    let k := field t.mod 0 2
    if k = 0 then
      let (n, row) := rawShape t
      (if va then [] else mk (rowSpan ea n row (rowStride t row)), [])
    else if k = 3 then (if va then [] else mk (ea, ea + 1023), [])
    else
      let (n, row) := if bit t.mod 2 then (128, 256) else (64, 512)
      ((if va then [] else mk (rowSpan ea n row (rowStride t row))) ++ mk (opb.toNat, opb.toNat + 511), [])
  | 0x201 =>
    if va then ([], [])
    else ([], if field t.mod 0 2 = 3 then mk (ea, ea + 1023) else mk (rowSpan ea 64 64 (rowStride t 64)))
  | 0x206 => if va then ([], []) else ([], mk (rowSpan ea 64 256 (rowStride t 256)))
  | 0x207 =>
    if va then ([], [])
    else ([], mk (rowSpan ea 64 256 (rowStride t 256)) ++ mk (opc.toNat, opc.toNat + 8703))
  | 0x210 => if field t.mod 0 3 = 3 ∨ field t.mod 0 3 = 5 then ([], mk (ea, ea + 127)) else ([], [])
  | 0x211 | 0x212 => (mk (ea, ea + 63), [])
  | _ => ([], [])

/-- The ranges of the word being issued. -/
def mxRanges (o : Nat) (t : Tpl) (s : State) : List (Nat × Nat) × List (Nat × Nat) :=
  commandRanges s.cur.core o t (s.opa t) (s.opb t) (s.opc t)

/-- Whether a command carries a stamp (R206). -/
def stamped (o : Nat) : Bool := o == 0x205 || o == 0x20D || o == 0x209

/-- Put a command in the MX queue, with its range entry (R200, R203, R209). -/
def enqueueMx (o : Nat) (t : Tpl) (s : State) : State :=
  let cmd : MxCmd :=
    { seq := s.curCore.mx.nextSeq, pc := s.curStrm.pc, o := o, t := t, opa := s.opa t, opb := s.opb t, opc := s.opc t, gtc := s.gtc
      stamp := if stamped o then some (s.mxStamp t) else none, susp := s.curCore.mx.ssus, phase := s.curCore.phase.toNat
      ord := s.curCore.issueOrd }
  let (rd, wr) := mxRanges o t s
  s.updCur fun k =>
    { k with
      mx := { k.mx with queue := k.mx.queue ++ [cmd], nextSeq := cmd.seq + 1 }
      ranges := if rd.isEmpty && wr.isEmpty then k.ranges
        else k.ranges ++ [{ stamp := s.gtc, engine := .mx, seq := cmd.seq, reads := rd, writes := wr }] }

/-- The scalar codes a matrix word reads. -/
def scalarCodes (o : Nat) (t : Tpl) : List Nat :=
  let f := opInfo o t
  (if f.sa = .s then [t.sa.toNat] else []) ++ (if f.sb = .s then [t.sb.toNat] else []) ++ (if f.sc = .s then [t.sc.toNat] else [])

/-- Issue a matrix command: it waits while a new carve-out is being applied (R243); MX holds for a scalar still to be written or a full queue, and the core for a full range checker
(R58, R200, R203). -/
def issueMx (o : Nat) (t : Tpl) (s : State) : Out :=
  if s.curCore.mx.scalarBusy (scalarCodes o t) || (s.curCore.carving && mxNamesSp o t) then .next s.blockWord
  else if !s.curCore.roomFor 0 (s.curCore.queueLen 0) then .next (s.blockFull 0 (s.curCore.queueLen 0))
  else if !((mxRanges o t s).1.isEmpty && (mxRanges o t s).2.isEmpty) && s.curCore.rangeFull then .next s.holdCycle
  else issue o t (enqueueMx o t) s

/-- MLOAD (R211). -/
def execMload (t : Tpl) (s : State) : Out := issueMx 0x200 t s
/-- MLOAD_CV (R212). -/
def execMloadCv (t : Tpl) (s : State) : Out := issueMx 0x200 t s
/-- MLOAD_SC (R213). -/
def execMloadSc (t : Tpl) (s : State) : Out := issueMx 0x200 t s
/-- MSTORE (R213). -/
def execMstore (t : Tpl) (s : State) : Out := issueMx 0x201 t s
/-- MSTORE_SC (R213). -/
def execMstoreSc (t : Tpl) (s : State) : Out := issueMx 0x201 t s
/-- MZERO (R214). -/
def execMzero (t : Tpl) (s : State) : Out := issueMx 0x202 t s
/-- MMOV (R214). -/
def execMmov (t : Tpl) (s : State) : Out := issueMx 0x203 t s
/-- MMOV_CV (R214). -/
def execMmovCv (t : Tpl) (s : State) : Out := issueMx 0x203 t s
/-- MTR (R214). -/
def execMtr (t : Tpl) (s : State) : Out := issueMx 0x204 t s
/-- MMA (R215). -/
def execMma (t : Tpl) (s : State) : Out := issueMx 0x205 t s
/-- MDRAIN (R217). -/
def execMdrain (t : Tpl) (s : State) : Out := issueMx 0x206 t s
/-- MDRAIN_X (R218). -/
def execMdrainX (t : Tpl) (s : State) : Out := issueMx 0x207 t s
/-- MKAT (R225). -/
def execMkat (t : Tpl) (s : State) : Out := issueMx 0x208 t s
/-- MSLOT (R226). -/
def execMslot (t : Tpl) (s : State) : Out := issueMx 0x209 t s
/-- MPAIR (R227). -/
def execMpair (t : Tpl) (s : State) : Out := issueMx 0x20D t s
/-- MCLR (R221). -/
def execMclr (t : Tpl) (s : State) : Out := issueMx 0x20B t s
/-- MTHR (R221). -/
def execMthr (t : Tpl) (s : State) : Out := issueMx 0x20C t s
/-- MSCL (R216). -/
def execMscl (t : Tpl) (s : State) : Out := issueMx 0x20F t s
/-- MWAIT_SCNT (R223). -/
def execMwaitScnt (t : Tpl) (s : State) : Out := issueMx 0x210 t s
/-- MWAIT_TAGS (R223). -/
def execMwaitTags (t : Tpl) (s : State) : Out := issueMx 0x210 t s
/-- MWAIT_LINE (R223). -/
def execMwaitLine (t : Tpl) (s : State) : Out := issueMx 0x210 t s
/-- MWAIT_TAKE (R223). -/
def execMwaitTake (t : Tpl) (s : State) : Out := issueMx 0x210 t s
/-- MWAIT_IDLE (R223). -/
def execMwaitIdle (t : Tpl) (s : State) : Out := issueMx 0x210 t s
/-- MWAIT_POST (R223). -/
def execMwaitPost (t : Tpl) (s : State) : Out := issueMx 0x210 t s
/-- NMV (R230). -/
def execNmv (t : Tpl) (s : State) : Out := issueMx 0x211 t s
/-- NMV_ACC (R230). -/
def execNmvAcc (t : Tpl) (s : State) : Out := issueMx 0x212 t s

/-- MCNT (R220): a counter read, a command that writes its scalar when it executes. -/
def execMcnt (t : Tpl) (s : State) : Out := issueMx 0x20A t s

/-- MCNT_SET (R200, R220): it executes when it issues. -/
def execMcntSet (t : Tpl) (s : State) : Out :=
  if s.curCore.mx.scalarBusy (scalarCodes 0x20A t) then .next s.blockWord
  else issue 0x20A t (fun s => s.landWord t.dst 1 (s.opa t + simm t)) s

/-- Set SBASE; while CURT reads no curtailment, the lateness check is in force again (R206). -/
def setStampBase (v : W64) (s : State) : State :=
  let clear := field s.power.curt 0 3 = 0
  s.updCur fun k => { k with mx := { k.mx with sbase := v, ssus := k.mx.ssus && !clear } }

/-- MSTAMP (R206). -/
def execMstamp (t : Tpl) (s : State) : Out :=
  if s.curCore.mx.scalarBusy (scalarCodes 0x20E t) then .next s.blockWord
  else issue 0x20E t (fun s => setStampBase (s.ea t) s) s

/-- MSTAMP_NOW (R206): SCNT at the edge of the issue cycle. -/
def execMstampNow (t : Tpl) (s : State) : Out :=
  issue 0x20E t (fun s => setStampBase (BitVec.ofNat 64 (s.gtc / 4) + simm t) s) s

/-- MSTAMP_ADD (R206). -/
def execMstampAdd (t : Tpl) (s : State) : Out :=
  issue 0x20E t (fun s => setStampBase (s.curCore.mx.sbase + simm t) s) s

/-- NOP_MX (R233). -/
def execNopMx (t : Tpl) (s : State) : Out := issue 0x27E t id s
/-- NOP_REP_MX (R158, R233). -/
def execNopRepMx (t : Tpl) (s : State) : Out :=
  if s.curCore.mx.scalarBusy [t.sa.toNat] then .next s.blockWord else repeatOp 0x27E t s
/-- RDV_MX (R34, R233). -/
def execRdvMx (t : Tpl) (s : State) : Out := issue 0x27F t endStream s

end Sys2Proof.Machine
end

