-- ==== Sys2Proof/Machine/MxStart.lean ====
section
/-! DEFINITION. How a matrix command starts: the conditions of R201, what it reads, and what it will make (R200-R232). -/

namespace Sys2Proof.Machine

/-! ## Shape of a command (R202) -/

/-- The registers a command reads and those it writes. -/
def MxCmd.regs (c : MxCmd) : List MReg × List MReg :=
  let t := c.t
  match c.o with
  | 0x200 => ([], [mreg t.dst])
  | 0x201 => ([mreg t.sb], [])
  | 0x202 => ([], [mreg t.dst])
  | 0x203 | 0x204 => ([mreg t.sa], [mreg t.dst])
  | 0x205 => (if bit t.mod 0 then [mreg t.sa, mreg t.sb] else [mreg t.sa, mreg t.sb, mreg t.dst], [mreg t.dst])
  | 0x206 | 0x207 => ([mreg t.sb], if bit t.mod 0 then [mreg t.sb] else [])
  | 0x208 => ([mreg t.sa, mreg t.sb], [])
  | 0x20D => if bit t.mod 2 then ([mreg t.sa, mreg t.sb], []) else ([mreg t.sa, mreg t.sb, mreg t.dst], [mreg t.dst])
  | 0x20F => ([], [mreg t.dst])
  | _ => ([], [])

/-- Pipe of a command: 0 none, 1 L, 2 A. -/
def MxCmd.pipe (c : MxCmd) : Nat :=
  if c.o = 0x205 ∨ c.o = 0x208 ∨ c.o = 0x20D then 2
  else if c.o ≤ 0x207 ∨ c.o = 0x211 ∨ c.o = 0x212 then 1
  else 0

/-- AREC of an accumulator. -/
def Mx.arecOf (x : Mx) (a : Nat) : Option W64 := sget none x.arec a

/-- Drain width in bits of an accumulator (R217). -/
def Mx.drainWidth (x : Mx) (a : Nat) : Nat := (drainFmt (x.arecOf a) none).f.width

/-- Occupancy and landing cycle (R202), once the command's registers are readable. -/
def MxCmd.times (c : MxCmd) (x : Mx) (w : W64) : Nat × Nat :=
  let t := c.t
  match c.o with
  | 0x200 =>
    match field t.mod 0 2 with
    | 0 => (8, 9)
    | 3 => (2, 3)
    | k =>
      let n := 256 / (fmtOf (if k = 1 then fwAfmt w else fwBfmt w)).width
      (n, n + 3)
  | 0x201 => if field t.mod 0 2 = 3 then (2, 3) else (8, 9)
  | 0x202 => (1, 0)
  | 0x203 => if bit t.mod 0 then (8, 10) else if 160 ≤ t.dst.toNat then (8, 8) else (2, 2)
  | 0x204 => if 160 ≤ t.dst.toNat then (8, 9) else (2, 3)
  | 0x205 | 0x208 | 0x20D => (8, 11)
  | 0x206 => let n := x.drainWidth (accNumOf t.sb); (n, n + 3)
  | 0x207 =>
    let n := x.drainWidth (accNumOf t.sb)
      + (match x.arecOf (accNumOf t.sb) with
        | some w => if (fmtOf (fwTfmt w)).width = 16 then 16 else 8
        | none => 8)
    (n, n + 3)
  | 0x211 | 0x212 => (2, 2)
  | _ => (0, 0)

/-- The cycles after which a run's write to a register lands, from now; none when none is to come (R201). -/
def MxRun.pending (r : MxRun) (g : MReg) : Option Nat :=
  let z := match r.zero with
    | some a => if g == .acc a && r.age < r.occ then some (r.occ - 1 - r.age) else none
    | none => none
  if r.writes.contains g && !r.landed && r.zero.isNone then
    (if r.pair == 1 && r.joined.isNone then some 1000000 else some (r.land - r.age))
  else z

/-- Whether a run still reads a register during its occupancy. -/
def MxRun.holds (r : MxRun) (g : MReg) : Bool := decide (r.age < r.occ) && r.reads.contains g

/-- Whether the sum of a run into accumulator `a` is forwarded to the next one (R201). -/
def MxRun.forwards (r : MxRun) (g : MReg) : Bool :=
  r.pipe == 2 && r.writes.contains g && decide (r.occ ≤ r.age) && (r.pair != 1 || r.joined.isSome)

/-- Conditions 2, 3 and 4 of R201. -/
def Mx.registersFree (x : Mx) (c : MxCmd) : Bool :=
  let (rd, wr) := c.regs
  (c.pipe == 0 || !x.running.any fun r => r.pipe == c.pipe && decide (r.age < r.occ))
    && !(rd.any fun g => x.running.any fun r => (r.pending g).isSome && !(c.pipe == 2 && r.forwards g))
    && !(wr.any fun g => x.running.any fun r => r.holds g)

/-- Condition 6 of R201: every write lands later than the earlier ones to its register. -/
def Mx.landsLater (x : Mx) (c : MxCmd) (land : Nat) : Bool :=
  !(c.regs.2.any fun g => x.running.any fun r =>
    match r.pending g with
    | some n => decide (land ≤ n)
    | none => false)

/-- The elements of an accumulator as a command on pipe A reads them: forwarded, or the register. -/
def Core.accNow (k : Core) (a : Nat) : List Nat :=
  match (k.mx.running.reverse.filterMap fun r => if r.pipe == 2 && !r.landed then (r.out.accs.find? fun p => p.1 == a) else none) with
  | (_, l) :: _ => l
  | [] => k.accElems a

/-! ## Outcome of an attempt -/

/-- What an attempt to start gives. -/
inductive MxTry where
  /-- It waits; `soft`: only on an empty line or a format word (R208). -/
  | wait (soft : Bool) (s : State)
  /-- It leaves the queue with no effect of its own. -/
  | drop (s : State)
  | fault (f : FaultInfo)
  | go (r : MxRun) (s : State)
  deriving Repr

/-- A run of a command. -/
def MxCmd.run (c : MxCmd) (w : W64) (times : Nat × Nat) (out : MxOut) : MxRun :=
  { cmd := c, word := w, pipe := c.pipe, occ := times.1, land := times.2, reads := c.regs.1, writes := c.regs.2, out := out }

/-- The stop of an access as the outcome of an attempt; `soft` for a scratchpad line. -/
def tryStop (s : State) (core : Nat) (soft : Bool) (x : Stop) : MxTry :=
  match x with
  | .wait s' => .wait soft s'
  | .bad f => .fault f
  | .stale u => .drop (s.updMem fun m => m.countDrop u (s.core core).theJob.ctx)
  | .poison _ => .drop s

/-- Bytes read at virtual address `a` under the rows that earlier stores of the engine have yet to write: commands act one at a time (R201). -/
def Mx.underRows (x : Mx) (a : Nat) (bs : List PByte) : List PByte :=
  (x.running.filter fun r => !r.landed && !r.out.rows.isEmpty).foldl (fun bs r => r.out.rows.foldl (fun bs e =>
    bs.zipIdx.map fun p => (e.2[(a + p.2 + 2 ^ 64 - e.1) % 2 ^ 64]?).getD p.1) bs) bs

/-- Bytes read at scratchpad offset `off` under the lines that earlier stores of the engine have yet to write (R201). -/
def Mx.underLines (x : Mx) (off : Nat) (bs : List PByte) : List PByte :=
  (x.running.filter fun r => !r.landed && !r.out.buf.isEmpty).foldl (fun bs r => r.out.buf.foldl (fun bs e =>
    bs.zipIdx.map fun p =>
      let i := off + p.2
      if i / 128 = e.1 ∧ bit e.2.1 (i % 128) = true then (byteAt e.2.2.1 (i % 128), bit e.2.2.2 (i % 128 / 32)) else p.1) bs) bs

/-- Whether an earlier store of the engine has yet to write a line of the scratchpad. -/
def Mx.fills (x : Mx) (n : Nat) : Bool := x.running.any fun r => !r.landed && r.out.buf.any fun e => e.1 == n

/-- Read bytes of the scratchpad or of virtual memory for a command (R205). -/
def State.mxRead (s : State) (core : Nat) (va : Bool) (a n : Nat) : Acc (List PByte) :=
  let x := (s.core core).mx
  if va then (s.readVirt (s.engineParty core .mx) true permR a n).map (x.underRows a)
  else
    match s.spRangeTarget core a n false with
    | none => .error (.bad (spFault s core a))
    | some (d, off) =>
      match (s.core d).spBytes off n with
      | some bs => .ok (if d = core then x.underLines off bs else bs)
      | none => .error (.wait s)

/-- Read rows. -/
def State.mxRows (s : State) (core : Nat) (va : Bool) (base n row stride : Nat) : Acc (List (List PByte)) :=
  (List.range n).mapM fun i => s.mxRead core va ((base + i * stride) % 2 ^ 64) row

/-- Poison among rows read: the command writes nothing and the node rolls back (R449). -/
def rowsPoisoned (rs : List (List PByte)) : Bool := rs.any poisonedP

/-- The plain bytes of rows. -/
def plainRows (rs : List (List PByte)) : List (List Nat) := rs.map fun r => r.map fun b => b.1.toNat

/-- The physical address of the first poisoned byte of rows read from `a` on. -/
def State.rowsPoison (s : State) (core a stride : Nat) (rs : List (List PByte)) : Nat :=
  ((rs.zipIdx).findSome? fun r =>
    if poisonedP r.1 then some (s.poisonPa (s.engineParty core .mx) ((a + r.2 * stride) % 2 ^ 64) r.1) else none).getD 0

/-- A consumption of poison by a command that read rows from `a` on. -/
def tryPoison (s : State) (core a stride : Nat) (rs : List (List PByte)) : MxTry := .drop (s.consumePoison core (s.rowsPoison core a stride rs))

/-- Rows of a store as they will be written: into scratchpad lines, or virtual rows; faults of the windows are found at the start
(R133, R213). -/
def State.mxStore (s : State) (core : Nat) (va : Bool) (base stride : Nat) (rows : List (List Nat)) : Acc MxOut :=
  let bytes := fun (r : List Nat) => r.map fun b => (BitVec.ofNat 8 b, false)
  if va then .ok { rows := (rows.zipIdx).map fun p => ((base + p.2 * stride) % 2 ^ 64, bytes p.1) }
  else do
    let buf ← (rows.zipIdx).foldlM (fun (b : LineBuf) p =>
      let a := (base + p.2 * stride) % 2 ^ 64
      match s.spRangeTarget core a p.1.length true with
      | none => (.error (.bad (spFault s core a)) : Acc LineBuf)
      | some (_, off) => .ok (bufRange b off (bytes p.1))) []
    pure { buf := buf }

/-- Merge two outputs of stores. -/
def MxOut.both (a b : MxOut) : MxOut := { a with buf := a.buf ++ b.buf, rows := a.rows ++ b.rows }

/-! ## The commands -/

/-- The acquire of `mload.va` with ORD acquire (R205). -/
def acquireLoad (core : Nat) (o : Nat) (t : Tpl) (s : State) : State :=
  if bit (BitVec.ofNat 2 (ordOf o t)) 0 then s.acquire core (scopeOf o t) else s

/-- The rows that a virtual load has read are in L1 (R205, R245). -/
def State.bringRows (s : State) (core : Nat) (va : Bool) (base n row stride : Nat) : State :=
  if va then foldUpTo n (fun s i => s.l1Bring (s.engineParty core .mx) core ((base + i * stride) % 2 ^ 64) row) s else s

/-- Raw and scale loads (R211, R213). -/
def tryLoadRaw (s : State) (core : Nat) (c : MxCmd) : MxTry :=
  let t := c.t
  let va := bit t.mod 3
  let sc := field t.mod 0 2 == 3
  let (n, row) := if sc then (1, 1024) else rawShape t
  let ea := (c.opa + simm t).toNat
  if ea % 64 != 0 || !strideOk t row then .fault (misaligned (BitVec.ofNat 64 ea) 64)
  else
    match s.mxRows core va ea n row (rowStride t row) with
    | .error x => tryStop s core (!va) x
    | .ok rs =>
      if rowsPoisoned rs then tryPoison s core ea (rowStride t row) rs
      else
        let z := tileNum t.dst
        let src := plainRows rs
        let out : MxOut :=
          if sc then { zs := [(1024 * z, src.flatten)] }
          else if !bit t.mod 2 then { tiles := [(z, src.flatten)] }
          else
            let w := 512 / n
            { tiles := [(z, ((transposed 64 (src.map (codesOf w))).map (bytesOf w)).flatten)] }
        .go (c.run 0 (c.times (s.core core).mx 0) out) (acquireLoad core 0x200 t (s.bringRows core va ea n row (rowStride t row)))

/-- Converting loads (R212): the word is peeked, not popped; the smoothing vector lies in the scratchpad (R113, R203). All draws are made
at the start edge (log entry 65). -/
def tryLoadCv (s : State) (core : Nat) (c : MxCmd) : MxTry :=
  let t := c.t
  let k := s.core core
  let va := bit t.mod 3
  let wt := field t.mod 0 2 == 2
  let ea := (c.opa + simm t).toNat
  match k.fmtq with
  | [] => .wait true s
  | w :: _ =>
    if formatWordBad w then .fault { code := .formatInvalid, det1 := w }
    else
      let K := rowElems (fmtOf (if wt then fwBfmt w else fwAfmt w))
      let tr := bit t.mod 2
      let (n, row) := if tr then (K, 256) else (64, 4 * K)
      if ea % 64 != 0 || !strideOk t row then .fault (misaligned (BitVec.ofNat 64 ea) 64)
      else if !k.mx.landsLater c (c.times k.mx w).2 then .wait false s
      else
        match s.mxRows core va ea n row (rowStride t row) with
        | .error x => tryStop s core (!va) x
        | .ok rs =>
          match (if fwXform w = 2 then s.mxRead core false c.opb.toNat (4 * K) else .ok []) with
          | .error x => tryStop s core true x
          | .ok sm =>
            if rowsPoisoned rs then tryPoison s core ea (rowStride t row) rs
            else if poisonedP sm then tryPoison s core c.opb.toNat 0 [sm]
            else
              let src := (plainRows rs).map (codesOf 32)
              let src := if tr then transposed 64 src else src
              let smooth := ((plainRows [sm]).flatMap (codesOf 32)).map fp32Val
              let (bytes, zs, ev, bank) := convertRows w wt (rndOf 0x200 t) (satOf 0x200 t) smooth src k.sr
              let z := tileNum t.dst
              .go (c.run w (c.times k.mx w)
                  { tiles := [(z, bytes)], zs := zs.zipIdx.map (fun r => (1024 * z + 16 * r.2, r.1)), counts := [(8, 2, ev)] })
                ((acquireLoad core 0x200 t (s.bringRows core va ea n row (rowStride t row))).updCore core fun k => { k with sr := bank })

/-- A release before a virtual store (R205, R302): its commits begin, and once they are performed it publishes. None while they are
outstanding. -/
def State.mxRelease (s : State) (core : Nat) (c : MxCmd) : State × Bool :=
  if !bit (BitVec.ofNat 2 (ordOf c.o c.t)) 1 then (s, true)
  else
    match c.rel with
    | none =>
      let (s, ids, _) := s.startCommit core .mx (2 ^ 41 + c.seq) .all
      (s.updCore core fun k => { k with mx := { k.mx with
        queue := mapIf (fun d => d.seq == c.seq) (fun d => { d with rel := some ids }) k.mx.queue } }, false)
    | some ids => if s.mem.live ids then (s, false) else (s.publish core (scopeOf c.o c.t), true)

/-- A store of rows: the release, then the run (R213, R217). -/
def tryStore (s : State) (core : Nat) (c : MxCmd) (zero : Option Nat) (out : Acc MxOut) (bank : Sparse W32) : MxTry :=
  match out with
  | .error x => tryStop s core false x
  | .ok o =>
    match s.mxRelease core c with
    | (s, false) => .wait false s
    | (s, true) =>
      .go { c.run 0 (c.times (s.core core).mx 0) o with zero := zero } (s.updCore core fun k => { k with sr := bank })

/-- `mstore` and `mstore.sc` (R213). -/
def tryMstore (s : State) (core : Nat) (c : MxCmd) : MxTry :=
  let t := c.t
  let k := s.core core
  let ea := (c.opa + simm t).toNat
  let sc := field t.mod 0 2 == 3
  let rows := if sc then [k.zsBytes (tileNum t.sb)] else rows64 (k.tileBytes (tileNum t.sb))
  let row := if sc then 1024 else 64
  if ea % 64 != 0 || !strideOk t row then .fault (misaligned (BitVec.ofNat 64 ea) 64)
  else tryStore s core c none (s.mxStore core (bit t.mod 3) ea (rowStride t row) rows) k.sr

/-- `mdrain` (R217). All its draws are made at its start edge, before those of VX in later cycles (log entry 65). -/
def tryDrain (s : State) (core : Nat) (c : MxCmd) : MxTry :=
  let t := c.t
  let k := s.core core
  let a := accNumOf t.sb
  let p := drainFmt (k.mx.arecOf a) (sget none k.mx.ts a)
  let ea := (c.opa + simm t).toNat
  let row := 8 * p.f.width
  if ea % 64 != 0 || !strideOk t row then .fault (misaligned (BitVec.ofNat 64 ea) 64)
  else
    let (codes, sat, bank) := drainAll p (k.accElems a) k.sr
    let out := s.mxStore core (bit t.mod 3) ea (rowStride t row) ((rows64 codes).map (bytesOf p.f.width))
    tryStore s core c (if bit t.mod 0 then some a else none) (out.map fun o => { o with counts := [(a, 0, sat)] }) bank

/-- `mdrain.x` (R218). -/
def tryDrainX (s : State) (core : Nat) (c : MxCmd) : MxTry :=
  let t := c.t
  let k := s.core core
  let a := accNumOf t.sb
  match k.mx.arecOf a with
  | none => .fault { code := .formatInvalid }
  | some w =>
    let p := drainFmt (some w) (sget none k.mx.ts a)
    let ea := (c.opa + simm t).toNat
    let row := 8 * p.f.width
    if ea % 64 != 0 || !strideOk t row then .fault (misaligned (BitVec.ofNat 64 ea) 64)
    else if c.opc.toNat % 64 != 0 then .fault (misaligned c.opc 64)
    else
      let (codes, tcodes, scales, sat, ev, bank) := drainCopy w p (k.accElems a) k.sr
      let tw := (fmtOf (fwTfmt w)).width
      let tr := 8 * tw
      let va := bit t.mod 3
      let trows := (transposed 64 (rows64 tcodes)).map (bytesOf tw)
      let out := do
        let o ← s.mxStore core va ea (rowStride t row) ((rows64 codes).map (bytesOf p.f.width))
        let o' ← s.mxStore core va c.opc.toNat tr trows
        let o'' ← if scales.isEmpty then pure {} else s.mxStore core va ((c.opc.toNat + 64 * tr) % 2 ^ 64) 0 [scales.flatten]
        pure { ((o.both o').both o'') with counts := [(a, 0, sat), (a, 2, ev)] }
      tryStore s core c (if bit t.mod 0 then some a else none) out bank

/-- Register-to-register commands (R214). -/
def tryMove (s : State) (core : Nat) (c : MxCmd) : MxTry :=
  let t := c.t
  let k := s.core core
  let go := fun (o : MxOut) (s : State) => MxTry.go (c.run 0 (c.times k.mx 0) o) s
  let accum := decide (160 ≤ t.dst.toNat)
  let d := if accum then accNumOf t.dst else tileNum t.dst
  match c.o with
  | 0x202 => go (if accum then { accs := [(d, zeroElems)] } else { tiles := [(d, zeroElems)] }) s
  | 0x203 =>
    if bit t.mod 0 then
      let a := accNumOf t.sa
      let p := drainFmt (k.mx.arecOf a) (sget none k.mx.ts a)
      match k.mx.arecOf a with
      | none => .fault { code := .formatInvalid }
      | some w =>
        if p.f.width != 8 then .fault { code := .formatInvalid, det1 := w }
        else
          let (codes, sat, bank) := drainAll p (k.accElems a) k.sr
          go { tiles := [(d, codes)], counts := [(a, 0, sat)] } (s.updCore core fun k => { k with sr := bank })
    else if accum then
      let a := accNumOf t.sa
      go { accs := [(d, k.accElems a)], arec := [(d, k.mx.arecOf a)], ts := [(d, sget none k.mx.ts a)] } s
    else go { tiles := [(d, k.tileBytes (tileNum t.sa))], zs := [(1024 * d, k.zsBytes (tileNum t.sa))] } s
  | _ =>
    if accum then
      let a := accNumOf t.sa
      go { accs := [(d, (transposed 64 (rows64 (k.accElems a))).flatten)], arec := [(d, k.mx.arecOf a)]
           ts := [(d, sget none k.mx.ts a)] } s
    else go { tiles := [(d, (transposed 64 (rows64 (k.tileBytes (tileNum t.sa)))).flatten)] } s

/-- Counter set of an accumulator. -/
def countsOf (a sat nan bso : Nat) : List (Nat × Nat × Nat) := [(a, 0, sat), (a, 1, nan), (a, 2, bso)]

/-- The stamp of a command has come (R207). -/
def stampDue (s : State) (c : MxCmd) : Bool :=
  match c.stamp with
  | some n => decide (4 * n ≤ s.gtc)
  | none => true

/-- `mma` (R215). -/
def tryMma (s : State) (core : Nat) (c : MxCmd) : MxTry :=
  let t := c.t
  let k := s.core core
  if !stampDue s c then .wait false s
  else
    match k.fmtq with
    | [] => .fault { code := .formatUnderflow }
    | w :: rest =>
      if formatWordBad w then .fault { code := .formatInvalid, det1 := w }
      else
        let a := accNumOf t.dst
        let init := if bit t.mod 0 then zeroElems else k.accNow a
        let (acc, sat, nan, bso) := k.product w (tileNum t.sa) (tileNum t.sb) init
        .go (c.run w (8, 11) { accs := [(a, acc)], arec := [(a, some w)], counts := countsOf a sat nan bso })
          (s.updCore core fun k => { k with fmtq := rest })

/-- The core on the other side of a pair, inside the partition (R227). -/
def State.pairCore (s : State) (core dir : Nat) : Option Nat :=
  let p := s.part (s.core core).theJob.part
  let cl := clusterOf core
  let x := cl % 16
  let y := cl / 16
  match dir with
  | 0 => if x < p.ox + p.wm1 then some (core + 8) else none
  | 1 => if p.ox < x then some (core - 8) else none
  | 2 => if y < p.oy + p.hm1 then some (core + 128) else none
  | _ => if p.oy < y then some (core - 128) else none

/-- `mpair` (R227, R228): each side starts on its own clock and pops one word. -/
def tryPair (s : State) (core : Nat) (c : MxCmd) : MxTry :=
  let t := c.t
  let k := s.core core
  if !stampDue s c then .wait false s
  else if (s.pairCore core (field t.mod 0 2)).isNone then .fault { code := .pairRoute, det1 := BitVec.ofNat 64 (field t.mod 0 2) }
  else
    match k.fmtq with
    | [] => .fault { code := .formatUnderflow }
    | w :: rest =>
      if formatWordBad w then .fault { code := .formatInvalid, det1 := w }
      else
        let sup := bit t.mod 2
        let a := accNumOf t.dst
        let (acc, sat, nan, bso) := k.product w (tileNum t.sa) (tileNum t.sb) (if sup then zeroElems else k.accNow a)
        let out : MxOut :=
          if sup then { accs := [], counts := countsOf 0 sat nan bso, tiles := [] }
          else { accs := [(a, acc)], arec := [(a, some w)], counts := countsOf a sat nan bso }
        let c := { c with ready := if (c.susp ∨ k.mx.ssus) ∧ c.ready.isNone then some (s.gtc / 4) else c.ready }
        let run := { c.run w (8, 11) out with pair := if sup then 2 else 1 }
        -- the supplier's sums travel in `accs` under the key 1000 until they are sent
        let run := if sup then { run with out := { out with accs := [(1000, acc)] } } else run
        .go run (s.updCore core fun k => { k with fmtq := rest })

/-- `mkat` (R225, R226): run inside an open window, otherwise skipped at once. -/
def katFits (s : State) (core : Nat) : Bool :=
  match (s.core core).mx.kat with
  | some e => decide (s.gtc + 8 * (s.cluster (clusterOf core)).divisor ≤ e)
  | none => false

/-- KRUN or KSKIP advances (R226); the counters stop at 0xFFFF. -/
def Core.katCount (k : Core) (i : Nat) : Core :=
  { k with mx := { k.mx with counts := supd 0 k.mx.counts i fun n => Nat.min 0xFFFF (n + 1) } }

/-- A known-answer tile that fits its window. -/
def tryKat (s : State) (core : Nat) (c : MxCmd) : MxTry :=
  let t := c.t
  let sig := (s.core core).katResult (field t.mod 0 2) (tileNum t.sa) (tileNum t.sb)
  .go (c.run 0 (8, 11) { mismatch := sig != katConst t }) (s.updCore core fun k => k.katCount 30)

/-- The set an IMM names, if the machine has it: sets 4-7 need REGSL = 2 (R199). -/
def counterSet (k : Core) (n : Nat) : Option Nat :=
  if 10 < n ∨ (4 ≤ n ∧ n ≤ 7 ∧ k.theJob.regsl = 1) then none else some n

/-- Counter `kind` of a set. -/
def Core.counter (k : Core) (set kind : Nat) : Nat := if set = 10 ∧ kind = 2 then 0 else sget 0 k.mx.counts (3 * set + kind)

/-- The value of a counter read (R220). -/
def Core.counterRead (k : Core) (t : Tpl) : W64 :=
  let kat := k.counter 10 1 * 2 ^ 16 + k.counter 10 0
  let one := fun kind => match counterSet k (field t.imm 0 8) with
    | some n => k.counter n kind
    | none => 0
  BitVec.ofNat 64 (match field t.mod 0 3 with
    | 1 => one 1
    | 2 => one 2
    | 3 => if field t.imm 0 8 = 10 then kat else one 2 * 2 ^ 32 + one 1 * 2 ^ 16 + one 0
    | 5 => kat
    | 6 => k.fmtq.length
    | _ => one 0)

/-- The counters that an `mclr` or an `mthr` names, as `3 set + kind` (R221). -/
def Core.counterKeys (k : Core) (o : Nat) (t : Tpl) : List Nat :=
  if o = 0x20B then
    let sets := if field t.imm 0 8 = 0xFF then List.range 11 else ((counterSet k (field t.imm 0 8)).map fun n => [n]).getD []
    sets.flatMap fun n => ((List.range 3).filter fun j => bit t.mod j && !(n == 10 && j == 2)).map fun j => 3 * n + j
  else
    let kind := if field t.mod 0 2 = 3 then 0 else field t.mod 0 2
    match counterSet k (field t.imm 0 8) with
    | some n => if n ≤ 9 then [3 * n + kind] else []
    | none => []

/-- The events that earlier commands, still at work, have for some counters count now: commands act one at a time in queue order (R201). -/
def Core.settleCounts (k : Core) (keys : List Nat) : Core :=
  let mine := fun (p : Nat × Nat × Nat) => keys.contains (3 * p.1 + p.2.1)
  let early := fun (r : MxRun) => !r.landed && r.pair != 2
  let due := (k.mx.running.filter early).flatMap fun r => r.out.counts.filter mine
  let k := due.foldl (fun (k : Core) p => if p.2.2 = 0 then k else k.bump p.1 p.2.1 p.2.2) k
  { k with mx := { k.mx with running := mapIf early (fun r => { r with out := { r.out with counts := r.out.counts.filter fun p => !mine p } }) k.mx.running } }

/-- Whether a pair that awaits its partial will still count in one of these counters (R201, R228). -/
def Mx.countsOpen (x : Mx) (keys : List Nat) : Bool :=
  x.running.any fun r => r.pair == 1 && r.joined.isNone && keys.any fun n => n / 3 == accNumOf r.cmd.t.dst

/-- `mclr` (R221). -/
def Core.clearCounters (k : Core) (t : Tpl) : Core :=
  let keys := k.counterKeys 0x20B t
  let k := k.settleCounts keys
  { k with mx := { k.mx with counts := keys.foldl serase k.mx.counts } }

/-- `mthr` (R221). -/
def Core.setThreshold (k : Core) (t : Tpl) (v : Nat) : Core :=
  let keys := k.counterKeys 0x20C t
  let k := k.settleCounts keys
  { k with mx := { k.mx with thresholds := keys.foldl (fun m n => sset 0 m n (v % 65536)) k.mx.thresholds } }

/-- Whether every started command has completed. -/
def Mx.quiet (x : Mx) : Bool := x.running.all (·.landed)

/-- Whether an earlier command of the queue has emptied a line in this engine cycle: commands act one at a time (R201). -/
def Core.mxEmptied (k : Core) (n : Nat) : Bool := k.spEvents.any fun e => e.rank == 1 && e.line == n && e.fill.isNone

/-- `mwait` (R201, R223): a line is full as the earlier commands leave it. -/
def tryWait (s : State) (core : Nat) (c : MxCmd) : MxTry :=
  let t := c.t
  let k := s.core core
  let ea := (c.opa + simm t).toNat
  let go := fun (o : MxOut) (s : State) => MxTry.go (c.run 0 (0, 0) o) s
  let line := fun (write : Bool) (f : Nat × Nat → MxTry) =>
    if ea % 128 != 0 then MxTry.fault (misaligned (BitVec.ofNat 64 ea) 128)
    else match s.spTarget core ea write with
      | none => MxTry.fault (spFault s core ea)
      | some p => f p
  let isFull := fun (p : Nat × Nat) => ((s.core p.1).spLine (p.2 / 128)).full && !(p.1 == core && k.mxEmptied (p.2 / 128))
  match field t.mod 0 3 with
  | 1 => if k.tags &&& c.opa = c.opa then go {} (s.acquire core (k.scopeOfTags c.opa)) else .wait false s
  | 2 => line false fun p => if isFull p then go {} s else .wait false s
  | 3 => line true fun p =>
    if isFull p && !k.mx.fills (p.2 / 128) then go {} (s.updCore core fun k => k.spEmpty 1 (p.2 / 128)) else .wait false s
  | 4 => if k.mx.quiet && k.mx.nmvs.isEmpty then go {} s else .wait false s
  | 5 => line true fun p =>
    if k.mx.quiet && k.mx.nmvs.isEmpty then go { buf := [(p.2 / 128, BitVec.allOnes 128, 0, 0)] } s else .wait false s
  | _ => if ea ≤ s.gtc / 4 then go {} s else .wait false s

/-! ## Near-memory products (R230, R231) -/

/-- Bytes of a matrix row (R89, R230). -/
def nmvRowBytes (fmt : W64) (k : Nat) : Nat := ceilDiv (k * (fmtOf (fwAfmt fmt)).width) 8

/-- Scales of a row. -/
def nmvScales (fmt : W64) (k : Nat) : Nat := if fwBlk fmt = 0 then 0 else ceilDiv k (blockSize (fwBlk fmt) 8)

/-- A format word that `nmv` admits (R230). -/
def nmvFmtOk (w : W64) : Bool :=
  (fwAfmt w ≤ 6 || (8 ≤ fwAfmt w && fwAfmt w ≤ 14) || fwAfmt w == 16) && fwBfmt w == 17
    && w &&& ~~~ (BitVec.ofNat 64 (0x3FF * 2 ^ 54 + 3 * 2 ^ 52 + 2 ^ 51 + 2 ^ 45)) == 0

/-- The first field of an `nmv` record outside its limits (R230). -/
def nmvCheck (s : State) (core : Nat) (r : BitVec 512) (acc : Bool) : Option FaultInfo :=
  let bad := fun (off : Nat) => some ({ code := .tileInvalid, det1 := BitVec.ofNat 64 off } : FaultInfo)
  let m := pf r 8 4
  let k := pf r 0xC 4
  let w := BitVec.ofNat 64 (pf r 0x10 8)
  let lda := pf r 0x28 4
  let x := pf r 0x20 4
  let y := pf r 0x24 4
  let _ := acc
  if pf r 0 8 % 16 != 0 then bad 0
  else if m = 0 ∨ 65536 < m then bad 8
  else if k = 0 ∨ 65536 < k then bad 0xC
  else if !nmvFmtOk w then some { code := .formatInvalid, det1 := w }
  else if fwBlk w = 0 ∧ pf r 0x18 8 ≠ 0 then bad 0x18
  else if x % 64 != 0 || (s.spRangeTarget core x (2 * k) false).isNone then some (spFault s core x)
  else if y % 128 != 0 || (s.spRangeTarget core y (4 * m) true).isNone then some (spFault s core y)
  else if lda % 16 != 0 || (lda != 0 && lda < nmvRowBytes w k) then bad 0x28
  else if pf r 0x30 16 != 0 then bad 0x30
  else none

/-- The stack of every page of a virtual range, when all of it is stack-pinned on one stack (R230); its stop otherwise. -/
def State.stackOf (s : State) (p : Party) (m a n : Nat) : Acc Nat := do
  let found ← (linePieces a n).mapM fun q => do
    let pa ← s.reach p (BitVec.ofNat 64 q.1) permR
    if 2 ^ 40 ≤ pa ∧ pa < 2 ^ 41 then pure ((pa >>> 36) % 16)
    else (.error (.bad { code := .nmvPlacement, addr := BitVec.ofNat 64 a, det1 := BitVec.ofNat 64 m }) : Acc Nat)
  match found with
  | [] => pure 0
  | g :: gs =>
    if gs.all (· == g) then pure g
    else .error (.bad { code := .nmvPlacement, addr := BitVec.ofNat 64 a, det1 := BitVec.ofNat 64 m })

/-- Every row and its scales lie on one stack: the stacks of the rows (R230). -/
def State.nmvPlaces (s : State) (p : Party) (n : Nmv) : Acc (List Nat) :=
  (List.range n.m).mapM fun m => do
    let g ← s.stackOf p m (n.a + m * n.lda) (nmvRowBytes n.fmt n.k)
    let k := nmvScales n.fmt n.k
    if k = 0 then pure g
    else do
      let g' ← s.stackOf p m (n.asb + m * k) k
      if g = g' then pure g
      else .error (.bad { code := .nmvPlacement, addr := BitVec.ofNat 64 (n.asb + m * k), det1 := BitVec.ofNat 64 m })

/-- `nmv` and `nmv.acc` (R230-R232). -/
def tryNmv (s : State) (core : Nat) (c : MxCmd) : MxTry :=
  let ea := (c.opa + simm c.t).toNat
  let acc := c.o == 0x212
  let k := s.core core
  if 4 ≤ k.mx.nmvs.length then .wait false s
  else if ea % 64 != 0 then .fault (misaligned (BitVec.ofNat 64 ea) 64)
  else
    match s.mxRead core false ea 64 with
    | .error x => tryStop s core true x
    | .ok bs =>
      let r := recordOf bs
      if poisonedP bs then tryPoison s core ea 0 [bs]
      else
        match nmvCheck s core r acc with
        | some f => .fault f
        | none =>
          let w := BitVec.ofNat 64 (pf r 0x10 8)
          let m := pf r 8 4
          let kk := pf r 0xC 4
          let x := pf r 0x20 4
          let y := pf r 0x24 4
          -- the checker takes the ranges of X and Y once the record is read
          let rd := [(ea % 2 ^ 24, ea % 2 ^ 24 + 63), (x % 2 ^ 24, x % 2 ^ 24 + 2 * kk - 1)]
          let widen := fun (e : RangeEnt) =>
            if e.engine == .mx && e.seq == c.seq then { e with reads := rd, writes := [(y % 2 ^ 24, y % 2 ^ 24 + 4 * m - 1)] } else e
          let k' := { k with ranges := k.ranges.map widen }
          if !k'.rangeReady .mx c.seq || ((List.range (ceilDiv (4 * m) 128)).any fun i => k.mx.fills (y % 2 ^ 24 / 128 + i)) then
            .wait false (s.updCore core fun _ => k')
          else
            match s.mxRead core false x (2 * kk), (if acc then s.mxRead core false y (4 * m) else .ok []) with
            | .error e, _ => tryStop (s.updCore core fun _ => k') core true e
            | _, .error e => tryStop (s.updCore core fun _ => k') core true e
            | .ok xb, .ok yb =>
              if poisonedP xb || poisonedP yb then tryPoison s core x 0 [xb]
              else
                let lda := if pf r 0x28 4 = 0 then nmvRowBytes w kk else pf r 0x28 4
                let n : Nmv :=
                  { seq := c.seq, pc := c.pc, cmd := c, tag := field c.t.mod 0 6, a := pf r 0 8, m := m, k := kk, fmt := w, asb := pf r 0x18 8
                    lda := lda, scl := pf r 0x2C 4, y := y % 2 ^ 24, x := (plainRows [xb]).flatMap (codesOf 16)
                    add := (plainRows [yb]).flatMap (codesOf 32), done := c.done }
                match s.nmvPlaces { s.engineParty core .mx with die := true } n with
                | .error e => tryStop s core false e
                | .ok gs =>
                  let s := s.updCore core fun _ => k'
                  let s := s.updCore core fun k =>
                    foldUpTo (ceilDiv (4 * m) 128) (fun k i => if c.done.contains (i / 8) then k else k.spEmpty 1 (n.y / 128 + i)) { k with mx := { k.mx with nmvs := k.mx.nmvs ++ [n] } }
                  let s := foldUpTo (ceilDiv m 256) (fun s b => if c.done.contains b then s else s.updMem fun mm => { mm with bd := (mm.bd.filter fun x => x.nmv != some (core, c.seq, b)) ++
                    [{ stack := gs.getD (256 * b) 0, port := dieOf (clusterOf core), tag := 8, kind := 3, len := 0, addr := 0, mask := 0
                       ctag := (s.core core).theJob.ctag, data := [], nmv := some (core, c.seq, b) }] }) s
                  .go (c.run 0 (2, 2) {}) s

/-! ## One attempt -/

/-- Whether a command reads or writes virtual memory as its core sees it (R203, R291). -/
def MxCmd.virtual (c : MxCmd) : Bool :=
  match c.o with
  | 0x200 | 0x201 | 0x206 | 0x207 => bit c.t.mod 3
  | 0x211 | 0x212 => true
  | _ => false

/-- Try to start a command whose stamp and registers are checked here (R201). -/
def State.mxTry (s : State) (core : Nat) (c : MxCmd) : MxTry :=
  let k := s.core core
  let x := k.mx
  if c.o = 0x208 ∧ !katFits s core then .drop (s.updCore core fun k => k.katCount 31)
  else if !x.registersFree c then .wait false s
  else if !(c.o == 0x200 && field c.t.mod 0 2 != 0 && field c.t.mod 0 2 != 3) && !x.landsLater c
      (if c.o = 0x206 ∨ c.o = 0x207 then (c.times x 0).1 - 1 else (c.times x 0).2) then .wait false s
  else if !k.rangeReady .mx c.seq || (c.virtual && s.storesAhead core c.ord) then .wait false s
  else
    match c.o with
    | 0x200 => if field c.t.mod 0 2 = 0 ∨ field c.t.mod 0 2 = 3 then tryLoadRaw s core c else tryLoadCv s core c
    | 0x201 => tryMstore s core c
    | 0x202 | 0x203 | 0x204 => tryMove s core c
    | 0x205 => tryMma s core c
    | 0x206 => tryDrain s core c
    | 0x207 => tryDrainX s core c
    | 0x208 => tryKat s core c
    | 0x209 =>
      if !stampDue s c then .wait false s
      else
        let stop := if field c.t.imm 0 16 = 0 then none else some (4 * ((c.stamp.getD 0) + field c.t.imm 0 16))
        .go (c.run 0 (0, 0) {}) (s.updCore core fun k => { k with mx := { k.mx with kat := stop } })
    | 0x20A =>
      if !x.quiet then .wait false s
      else .go (c.run 0 (0, 0) { scalar := some (c.t.dst.toNat, k.counterRead c.t) }) s
    | 0x20B =>
      if x.countsOpen (k.counterKeys 0x20B c.t) then .wait false s
      else .go (c.run 0 (0, 0) {}) (s.updCore core fun k => k.clearCounters c.t)
    | 0x20C =>
      if x.countsOpen (k.counterKeys 0x20C c.t) then .wait false s
      else .go (c.run 0 (0, 0) {}) (s.updCore core fun k => k.setThreshold c.t c.opa.toNat)
    | 0x20D => tryPair s core c
    | 0x20F => .go (c.run 0 (0, 0) { ts := [(accNumOf c.t.dst, some (c.opa.setWidth 32, c.opb.setWidth 32))] }) s
    | 0x211 | 0x212 => tryNmv s core c
    | _ => tryWait s core c

end Sys2Proof.Machine
end

