-- ==== Sys2Proof/Machine/MxEvents.lean ====
section
/-! DEFINITION. The events of the matrix engine (R201, R202, R208, R222, R226, R228-R232). -/

namespace Sys2Proof.Machine

/-! ## Alarms -/

/-- A silent-error alarm of a core (R453): it becomes suspect, its node rolls back, the alarm is logged and counted. A core that is
already suspect logs again and changes nothing further. -/
def State.silentError (s : State) (core : Nat) : State :=
  let j := (s.core core).theJob
  let s := s.logEvent 5 (coreSource core 4) (some j.ctag) core 0 (j.node.setWidth 64)
  if (s.core core).suspect then s
  else (s.updCore core fun k => { k with suspect := true, errors := k.errors + 1 }).rollbackCore core .silentError

/-! ## Charges (R429, R438) -/

/-- Class and width code a starting command is charged under (R429). -/
def MxCmd.energy (c : MxCmd) (k : Core) : Nat × Nat :=
  let byWidth := fun w => if w = 4 then 11 else if w = 16 then 12 else 10
  let width := fun w => if w ≤ 8 then 0 else if w = 16 then 1 else 2
  let w := k.fmtq.headD 0
  match c.o with
  | 0x205 | 0x20D => (byWidth (fmtOf (fwAfmt w)).width, 0)
  | 0x208 => (byWidth (katFmt (field c.t.mod 0 2)).width, 0)
  | 0x200 =>
    match field c.t.mod 0 2 with
    | 1 => (13, width (fmtOf (fwAfmt w)).width)
    | 2 => (13, width (fmtOf (fwBfmt w)).width)
    | _ => (15, 0)
  | 0x206 | 0x207 => (14, width (k.mx.drainWidth (accNumOf c.t.sb)))
  | 0x203 => if bit c.t.mod 0 then (14, 0) else (15, 0)
  | _ => (15, 0)

/-! ## Pairs (R228, R229) -/

/-- The partial of a pair joins the owner's half (R228). -/
def joinSums (int : Bool) (own p : List Nat) : List Nat × Nat × Nat :=
  let cells := (own.zip p).map fun e =>
    if int then
      let y := sx 32 e.1 + sx 32 e.2
      (narrow 32 (clamp32 y), (if clamp32 y = y then 0 else 1), 0)
    else
      let y := (fp32Val e.1).add false (fp32Val e.2)
      (fp32Code y, 0, if y.isNaN && !(fp32Val e.1).isNaN && !(fp32Val e.2).isNaN then 1 else 0)
  (cells.map (·.1), (cells.map (·.2.1)).foldl (· + ·) 0, (cells.map (·.2.2)).foldl (· + ·) 0)

/-- The owner takes the partial in its buffer, if a started pair waits for it: words that differ are the format-invalid fault, stamps
that differ the schedule-miss fault on both sides (R228). -/
def State.takePartial (s : State) (core : Nat) : State :=
  let k := s.core core
  match k.mx.pairBuf, k.mx.running.find? fun r => r.pair == 1 && r.joined.isNone with
  | some p, some r =>
    if s.pairCore core (field r.cmd.t.mod 0 2) ≠ some p.core then s
    else if p.ctag ≠ k.theJob.ctag then
      (s.updCore core fun k => { k with mx := { k.mx with pairBuf := none } }).updMem fun m => m.countOrphan (unitCore core) (ctagCtx p.ctag)
    else
      let clear := fun (k : Core) => { k with mx := { k.mx with pairBuf := none } }
      let miss : FaultInfo := { code := .scheduleMiss, det1 := BitVec.ofNat 64 (r.cmd.stamp.getD 0), det2 := BitVec.ofNat 64 s.gtc }
      if p.stamp ≠ r.cmd.stamp.getD 0 then
        ((s.updCore core clear).stopStrm core .mx (.bad miss) r.cmd.pc 0).stopStrm p.core .mx
          (.bad { miss with det1 := BitVec.ofNat 64 p.stamp }) (s.core p.core).mxs.pc 0
      else if p.word ≠ r.word then
        (s.updCore core clear).stopStrm core .mx (.bad { code := .formatInvalid, det1 := r.word }) r.cmd.pc 0
      else
        let a := accNumOf r.cmd.t.dst
        let own := match r.out.accs with
          | (_, l) :: _ => l
          | [] => zeroElems
        let (sum, sat, nan) := joinSums (fwInt r.word) own p.sums
        let out := { r.out with
          accs := [(a, sum)], counts := r.out.counts ++ countsOf a (sat + p.sat) (nan + p.nan) p.bso }
        let r' := { r with out := out, joined := some r.age, land := Nat.max 11 (r.age + 4) }
        s.updCore core fun k => { clear k with mx := { (clear k).mx with
          running := mapIf (fun q => q.cmd.seq == r.cmd.seq) (fun _ => r') k.mx.running } }
  | _, _ => s

/-- PAIR_PARTIAL_ARRIVE (R228): the oldest partial on its way enters the buffer; a full buffer leaves it with its supplier. -/
def execPairPartialArrive (core : Nat) (s : State) : Out :=
  let x := (s.core core).mx
  match x.partials, x.pairBuf with
  | p :: rest, none =>
    .next ((s.updCore core fun k => { k with mx := { k.mx with partials := rest, pairBuf := some p } }).takePartial core)
  | _, _ => .next s

/-- PAIR_ACK_ARRIVE (R228): the supplier's command completes. -/
def execPairAckArrive (core : Nat) (s : State) : Out :=
  match (s.core core).mx.acks with
  | [] => .next s
  | n :: rest =>
    .next (s.updCore core fun k => { k with mx := { k.mx with
      acks := rest
      running := mapIf (fun r => r.pair == 2 && r.sent && r.cmd.stamp == some n) (fun r => { r with landed := true }) k.mx.running } })

/-! ## Deadlines (R208, R229) -/

/-- The GTC that a deadline edge does not precede (R208). The deadline of a pair counts from its readiness while SSUS is set (R229). -/
def MxCmd.deadline (c : MxCmd) (slack : Nat) (ssus : Bool) : Option Nat :=
  match c.stamp with
  | some n =>
    if c.o = 0x20D ∧ (c.susp ∨ ssus) then c.ready.map fun r => 4 * (r + slack) + c.slip
    else if c.susp then none
    else some (4 * (n + slack) + c.slip)
  | none => c.ready.map fun r => 4 * (r + slack) + c.slip

/-- Whether a stamped command's deadline edge came before the edge of now: it can only start later than that (R235). -/
def State.mxPast (s : State) (core : Nat) (c : MxCmd) : Bool :=
  match c.stamp, c.deadline (s.ctx (s.core core).theJob.ctx).mxslack.toNat (s.core core).mx.ssus with
  | some _, some d => decide (d + (s.cluster (clusterOf core)).divisor ≤ s.gtc)
  | _, _ => false

/-! ## Start (R201) -/

/-- Whether MX runs: no halt, not parked (R234). -/
def State.mxRuns (s : State) (core : Nat) : Bool :=
  let k := s.core core
  k.job.isSome && !s.enginesHeld core && !k.mxs.parked

/-- Whether MX may start commands: it runs, and no threshold trap stops it (R222). -/
def State.mxMayStart (s : State) (core : Nat) : Bool :=
  s.mxRuns core && !(s.core core).mx.stopped && (s.core core).mx.crossed.isEmpty

/-- Whether tile work that core `core` took before the command of stamp `gtc` waits to start in its matrix engine (R195). -/
def State.tileAhead (s : State) (core gtc : Nat) : Bool :=
  s.tiles.any fun t => (decide (t.kind ≤ 1) || t.kind == 6) && t.nodes.any fun x =>
    x.level == 1 && x.unit == core && x.accepted && !x.started && !x.complete && decide (x.stamp < gtc)

/-- No attempt until the next edge. -/
def State.mxIdle (s : State) (core : Nat) : State := s.updCore core fun k => { k with mx := { k.mx with idle := true } }

/-- A command leaves the queue. -/
def Core.mxPop (k : Core) (seq : Nat) : Core :=
  { k with mx := { k.mx with queue := k.mx.queue.filter fun c => c.seq != seq } }

/-- The head keeps a new record. -/
def Core.mxSetHead (k : Core) (c : MxCmd) : Core :=
  { k with mx := { k.mx with queue := mapIf (fun d => d.seq == c.seq) (fun d => { c with rel := d.rel }) k.mx.queue } }

/-- MX_COMMAND_START (R201): the head of the queue starts, if it can at this edge and does not start later than its deadline edge
(R235). A command issued in this engine cycle starts at a later edge. -/
def execMxCommandStart (core : Nat) (s : State) : Out :=
  let k := s.core core
  match k.mx.queue with
  | [] => .next s
  | c :: _ =>
    if !s.mxMayStart core || s.gtc ≤ c.gtc || s.mxPast core c || s.tileAhead core c.gtc then .next (s.mxIdle core)
    else
      let s := if c.o = 0x208 then s else s.updCore core fun k => { k with mx := { k.mx with kat := none } }
      match s.mxTry core c with
      | .wait soft s' =>
        let c' := if soft && c.stamp.isNone && c.ready.isNone then { c with ready := some (s.gtc / 4) } else c
        .next ((s'.updCore core fun k => k.mxSetHead c').mxIdle core)
      | .drop s' => .next (s'.updCore core fun k => (k.mxPop c.seq).rangeDone .mx c.seq)
      | .fault f => .next ((s.stopStrm core .mx (.bad f) c.pc 0).mxIdle core)
      | .go r s' =>
        let e := c.energy k
        if !s.admits core (some e) then
          let c' := { c with slip := c.slip + (s.cluster (clusterOf core)).divisor }
          .next ((s.updCore core fun k => { k.mxSetHead c' with refused := true }).mxIdle core)
        else
          let s' := (s'.charge core (some e)).updCore core fun k =>
            { k.mxPop c.seq with mx := { (k.mxPop c.seq).mx with running := k.mx.running ++ [r] } }
          .next (if r.pair = 1 then s'.takePartial core else s')

/-! ## Completion (R202) -/

/-- Rows of a virtual store reach memory: in the phase of its issue (R280), or by a releasing store straight into the node's version
(R205, R302). -/
def State.mxWriteRows (s : State) (core : Nat) (r : MxRun) : Acc State :=
  let p := s.engineParty core .mx
  if bit (BitVec.ofNat 2 (ordOf r.cmd.o r.cmd.t)) 1 then
    r.out.rows.foldlM (fun (s : State) e => (s.writeVirt p permW e.1 e.2).map (·.1)) s
  else if r.cmd.phase = (s.core core).phase.toNat then r.out.rows.foldlM (fun (s : State) e => s.writePhased p core e.1 e.2) s
  else r.out.rows.foldlM (fun (s : State) e => s.writeClosed p core r.cmd.phase r.cmd.seq e.1 e.2) s

/-- Whether a command's range entry outlives it: an `nmv` holds its ranges until its last block (R232). -/
def MxRun.lasting (r : MxRun) : Bool := r.cmd.o == 0x211 || r.cmd.o == 0x212

/-- The registers, lines and counters that a completed command writes (R202, R219). -/
def State.mxLand (s : State) (core : Nat) (r : MxRun) : State :=
  let o := r.out
  let s := s.updCore core fun k =>
    let add := fun (k : Core) (d : Dst) (v : Val) => { k with pend := k.pend ++ [{ strm := .mx, ord := k.issueOrd, dst := d, due := k.now, val := v }] }
    let k := o.tiles.foldl (fun k p => add k (.tileAll p.1) (.elems p.2)) k
    let k := if r.pair = 2 then k else o.accs.foldl (fun k p => add k (.accAll p.1) (.elems p.2)) k
    let k := match o.scalar with
      | some (n, v) =>
        match bindDst (k.strm .mx) .mx n with
        | some d => add k d (.word v)
        | none => k
      | none => k
    let k := k.fillBuf 1 o.buf
    let x := k.mx
    let x := { x with
      zs := o.zs.foldl (fun m p => sreplace 0 m p.1 (p.2.map fun b => BitVec.ofNat 8 b)) x.zs
      arec := o.arec.foldl (fun m p => sset none m p.1 p.2) x.arec
      ts := o.ts.foldl (fun m p => sset none m p.1 p.2) x.ts
      running := mapIf (fun q => q.cmd.seq == r.cmd.seq) (fun q => { q with landed := true }) x.running }
    let k := { k with mx := x }
    let k := if r.pair = 2 then k else o.counts.foldl (fun k p => if p.2.2 = 0 then k else k.bump p.1 p.2.1 p.2.2) k
    if r.lasting then k else k.rangeDone .mx r.cmd.seq
  if o.mismatch then s.silentError core else s

/-- MX_COMMAND_COMPLETE (R202): the results of a command land at the end of this engine cycle. The supplier of a pair sends its partial
and completes with the acknowledgement (R228). -/
def execMxCommandComplete (core seq : Nat) (s : State) : Out :=
  match (s.core core).mx.running.find? fun r => r.cmd.seq == seq with
  | none => .next s
  | some r =>
    if r.landed || r.age < r.land || (r.pair == 1 && r.joined.isNone) then .next s
    else if r.pair = 2 then
      if r.sent then .next s
      else
        match s.pairCore core (field r.cmd.t.mod 0 2) with
        | none => .next s
        | some d =>
          let count := fun i => ((r.out.counts.find? fun p => p.2.1 == i).map (·.2.2)).getD 0
          let p : Partial :=
            { core := core, word := r.word, stamp := r.cmd.stamp.getD 0, ctag := (s.core core).theJob.ctag
              sums := (r.out.accs.map (·.2)).headD zeroElems, sat := count 0, nan := count 1, bso := count 2 }
          let s := s.updCore core fun k => { k with mx := { k.mx with
            running := mapIf (fun q => q.cmd.seq == seq) (fun q => { q with sent := true }) k.mx.running } }
          .next (s.updCore d fun k => { k with mx := { k.mx with partials := k.mx.partials ++ [p] } })
    else
      match s.mxWriteRows core r with
      | .ok s =>
        let s := s.mxLand core r
        match (if r.pair = 1 then s.pairCore core (field r.cmd.t.mod 0 2) else none) with
        | some d => .next (s.updCore d fun k => { k with mx := { k.mx with acks := k.mx.acks ++ [r.cmd.stamp.getD 0] } })
        | none => .next s
      | .error x => .next (s.stopStrm core .mx x r.cmd.pc 0)

/-- The end of an engine cycle of the matrix engine: a drain that zeroes does so at the end of its occupancy, and every started
command is one cycle older (R202, R217). -/
def Core.mxAge (k : Core) : Core :=
  let k := k.mx.running.foldl (fun (k : Core) r =>
    match r.zero with
    | some a =>
      if r.age + 1 = r.occ then
        { k with pend := k.pend ++ [{ strm := .mx, ord := k.issueOrd, dst := .accAll a, due := k.now, val := .elems zeroElems }] }
      else k
    | none => k) k
  let older := k.mx.running.map fun r => { r with age := r.age + 1 }
  { k with mx := { k.mx with idle := false, running := older.filter fun r => !(r.landed && decide (r.occ ≤ r.age)) } }

/-- The commands whose results land at the end of this engine cycle. -/
def Mx.landing (x : Mx) : List Nat :=
  (x.running.filter fun r => !r.landed && decide (r.land ≤ r.age) && !(r.pair == 1 && r.joined.isNone) && !(r.pair == 2 && r.sent)).map (·.cmd.seq)

/-- The commands whose deadline edge has come: unstarted ones, an owner without its partial, a supplier without its acknowledgement. -/
def State.mxLate (s : State) (core : Nat) : Option MxCmd :=
  let k := s.core core
  let slack := (s.ctx k.theJob.ctx).mxslack.toNat
  let late := fun (c : MxCmd) => match c.deadline slack k.mx.ssus with
    | some d => decide (d ≤ s.gtc)
    | none => false
  let open_ := k.mx.running.filter fun r => (r.pair == 1 && r.joined.isNone) || (r.pair == 2 && !r.landed)
  (open_.map (·.cmd) ++ k.mx.queue).find? late

/-- The deadline edge of a command that is late now: the edge of now, or an earlier one where the command was issued past it (R208). -/
def State.mxEdge (s : State) (core : Nat) (c : MxCmd) : Nat :=
  let div := (s.cluster (clusterOf core)).divisor
  match c.deadline (s.ctx (s.core core).theJob.ctx).mxslack.toNat (s.core core).mx.ssus with
  | some d => if d + div ≤ s.gtc then ceilDiv d div * div else s.gtc
  | none => s.gtc

/-- SCHEDULE_MISS (R208, R229, R212): a converting load whose format queue is empty raises the format-underflow fault instead. -/
def execScheduleMiss (core : Nat) (s : State) : Out :=
  if !s.mxRuns core then .next s
  else
    match s.mxLate core with
    | none => .next s
    | some c =>
      let cv := c.o == 0x200 && field c.t.mod 0 2 != 0 && field c.t.mod 0 2 != 3
      let f : FaultInfo := if cv && (s.core core).fmtq.isEmpty then { code := .formatUnderflow }
        else { code := .scheduleMiss, det1 := BitVec.ofNat 64 (c.stamp.getD (c.ready.getD 0)), det2 := BitVec.ofNat 64 (s.mxEdge core c) }
      .next (s.stopStrm core .mx (.bad f) c.pc 0)

/-! ## Counters and windows (R222, R226) -/

/-- COUNTER_THRESHOLD_TRAP (R222, R404): the crossing becomes a pending cause, and MX starts no later command until `eret`. -/
def execCounterThresholdTrap (core : Nat) (s : State) : Out :=
  match (s.core core).mx.crossed with
  | [] => .next s
  | (set, kind) :: rest =>
    .next ((s.asyncCause core .counter (if set = 9 then 3 else 4) (BitVec.ofNat 32 (set + kind * 256))).updCore core fun k =>
      { k with mx := { k.mx with crossed := rest, stopped := true } })

/-- Whether the KAT window closes now (R226): at its end, or when a command other than `mkat` is at the head. -/
def Mx.katCloses (x : Mx) (gtc : Nat) : Bool :=
  match x.kat with
  | none => false
  | some e => decide (e ≤ gtc) || match x.queue with
    | c :: _ => c.o != 0x208
    | [] => false

/-- KAT_WINDOW_CLOSE (R226). -/
def execKatWindowClose (core : Nat) (s : State) : Out :=
  if (s.core core).mx.katCloses s.gtc then .next (s.updCore core fun k => { k with mx := { k.mx with kat := none } }) else .next s

/-! ## Near-memory products (R231, R232) -/

/-- One row of a block: its result code and where it read poison, or the stop of a read. -/
def State.nmvResult (s : State) (core : Nat) (n : Nmv) (m : Nat) : Acc (Nat × Option Nat) := do
  let p := { s.engineParty core .mx with die := true }
  let row ← s.readVirt p false permR ((n.a + m * n.lda) % 2 ^ 64) (nmvRowBytes n.fmt n.k)
  let ns := nmvScales n.fmt n.k
  let sc ← s.readVirt p false permR ((n.asb + m * ns) % 2 ^ 64) ns
  let f := fmtOf (fwAfmt n.fmt)
  let a := ((codesOf f.width (row.map fun b => b.1.toNat)).take n.k).map fun c => decodeFmt f c (fwAinf n.fmt)
  let x := n.x.map fun c => decodeFmt .bf16 c true
  let y := nmvRow n.fmt (fp32Val (n.add.getD m 0)) a x (sc.map fun b => decodeScale (fwAsc n.fmt) b.1.toNat)
  let at_ := if poisonedP row then some (s.poisonPa p ((n.a + m * n.lda) % 2 ^ 64) row)
    else if poisonedP sc then some (s.poisonPa p ((n.asb + m * ns) % 2 ^ 64) sc) else none
  pure (fp32Code (y.mul (fp32Val n.scl)), at_)

/-- NMV_BLOCK_COMPLETE (R231, R232): a block of 256 rows writes its part of Y and marks its lines full; with the last block the tag is
set. -/
def execNmvBlockComplete (core seq block : Nat) (s : State) : Out :=
  match (s.core core).mx.nmvs.find? fun n => n.seq == seq with
  | none => .next s
  | some n =>
    if n.m ≤ 256 * block || n.done.contains block
        || !(s.mem.bd.any fun b => b.nmv == some (core, seq, block) && b.replied) then .next s
    else
      let rows := Nat.min 256 (n.m - 256 * block)
      match (List.range rows).mapM fun i => s.nmvResult core n (256 * block + i) with
      | .error x => .next (s.stopStrm core .mx x n.pc 0)
      | .ok ys =>
        let s := s.updMem fun m => { m with bd := m.bd.filter fun b => b.nmv != some (core, seq, block) }
        match ys.findSome? (·.2) with
        | some pa => .next ((s.consumePoison core pa).updCore core fun k =>
            { k.rangeDone .mx seq with mx := { k.mx with nmvs := k.mx.nmvs.filter fun n => n.seq != seq } })
        | none =>
          let bytes := (ys.flatMap fun y => leBytes y.1 4).map fun b => (b, false)
          let done := n.done ++ [block]
          let last := decide (done.length = ceilDiv n.m 256)
          .next (s.updCore core fun k =>
            let k := k.fillBuf 3 (bufRange [] (n.y + 1024 * block) bytes)
            let k := { k with mx := { k.mx with
              nmvs := if last then k.mx.nmvs.filter (fun n => n.seq != seq)
                else mapIf (fun n => n.seq == seq) (fun n => { n with done := done }) k.mx.nmvs } }
            if last then (k.rangeDone .mx seq).setTag n.tag 0 else k)

end Sys2Proof.Machine
end

