-- ==== Sys2Proof/Machine/Tile.lean ====
section
/-! DEFINITION. The shared tile set: descriptors and their checks, issue, decomposition over the levels, and the ten kinds
(R174-R198). -/

namespace Sys2Proof.Machine

/-! ## Descriptors (R176-R179) -/

/-- Whether an address field marks a scratchpad address (R176). -/
def tileSp (a : Nat) : Bool := a.testBit 63 && !a.testBit 56

/-- An address field with bit 63 set and bit 56 clear that is no scratchpad form, or a scratchpad form above core level (R176). -/
def tileAddrBad (a lvl : Nat) : Bool := tileSp a && (nbits a 28 35 != 0 || 1 < lvl)

/-- The tile-invalid fault with its offset (R401). -/
def tileInvalid (off : Nat) : FaultInfo := { code := .tileInvalid, det1 := BitVec.ofNat 64 off }

def tdM (d : BitVec 512) : Nat := pf d 4 4
def tdN (d : BitVec 512) : Nat := pf d 8 4
def tdK (d : BitVec 512) : Nat := pf d 0xC 4
def tdFmt (d : BitVec 512) : W64 := BitVec.ofNat 64 (pf d 0x10 8)
def tdSfmt (d : BitVec 512) : Nat := pf d 0x3E 1
def tdFlag (d : BitVec 512) (i : Nat) : Bool := (pf d 1 1).testBit i

/-- Whether a kind is a matrix product of R182. -/
def isMatrix (kind : Nat) : Bool := kind ≤ 1

/-- Whether a kind reads B (R182-R186). -/
def readsB (kind : Nat) (d : BitVec 512) : Bool :=
  kind ≤ 2 || (kind == 3 && ((1 ≤ tdK d % 256 && tdK d % 256 ≤ 4) || tdK d % 256 == 8))

/-- Whether a tcopy writes its transpose (R186). -/
def tdTr (kind : Nat) (d : BitVec 512) : Bool := kind == 5 && tdK d % 2 == 1

/-- Element widths of A, B and D. -/
def tdWidths (kind : Nat) (d : BitVec 512) : Nat × Nat × Nat :=
  let w := tdFmt d
  let df := (fmtOf (fwDfmt w)).width
  if isMatrix kind then ((fmtOf (fwAfmt w)).width, (fmtOf (fwBfmt w)).width, df)
  else if kind = 2 then ((fmtOf (fwAfmt w)).width, 16, 32)
  else ((fmtOf (tdSfmt d)).width, (fmtOf (tdSfmt d)).width, df)

/-- Elements of a row of A, B and D (R176, R182-R186). -/
def tdRowLens (kind : Nat) (d aux : BitVec 512) : Nat × Nat × Nat :=
  let a := if kind = 1 then pf aux 0x34 2 else if kind ≤ 2 then tdK d else tdN d
  let dn := if kind = 4 then (if (tdK d).testBit 8 then tdN d else 1) else if tdTr kind d then tdM d else tdN d
  (a, tdN d, dn)

/-- Dense row bytes, rounded up to a multiple of 16 (R176). -/
def denseRow (elems width : Nat) : Nat := ceilDiv (elems * width) 128 * 16

/-- Strides of A, B and D. -/
def tdStrides (kind : Nat) (d aux : BitVec 512) : Nat × Nat × Nat :=
  let (wa, wb, wd) := tdWidths kind d
  let (na, nb, nd) := tdRowLens kind d aux
  let st := fun off n w => if pf d off 2 = 0 then denseRow n w else 16 * pf d off 2
  (st 0x38 na wa, st 0x3A nb wb, st 0x3C nd wd)

/-- Whether the auxiliary record is required (R177). -/
def auxNeeded (kind : Nat) (d : BitVec 512) : Bool :=
  kind == 1 || (kind ≤ 2 && fwBlk (tdFmt d) != 0) || (isMatrix kind && (fwXform (tdFmt d) == 2 || tdFlag d 3))

/-- The first limit of R176 that a merged descriptor fails; `tbar` and `tsync` read only their first four bytes (R188), `tdesc` is
checked as R178 states. -/
def descCheck (kind lvl : Nat) (d : BitVec 512) : Option FaultInfo :=
  let k := tdK d
  let (wa, wb, wd) := tdWidths kind d
  let (na, nb, nd) := tdRowLens kind d 0
  let short := fun off n w => pf d off 2 != 0 && 16 * pf d off 2 < denseRow n w
  let addr := fun off => pf d off 8 % 16 != 0 || tileAddrBad (pf d off 8) lvl
  if pf d 0 1 != kind then some (tileInvalid 0)
  else if 32 ≤ pf d 1 1 then some (tileInvalid 1)
  else if 64 ≤ pf d 2 1 then some (tileInvalid 2)
  else if 16 ≤ pf d 3 1 then some (tileInvalid 3)
  else if 7 ≤ kind then none
  else if tdM d = 0 ∨ 2 ^ 24 < tdM d then some (tileInvalid 4)
  else if tdN d = 0 ∨ 2 ^ 24 < tdN d then some (tileInvalid 8)
  else if kind ≤ 2 ∧ (k = 0 ∨ 2 ^ 24 < k) ∨ kind = 3 ∧ 8 < k ∨ kind = 4 ∧ (2 < k % 256 ∨ 512 ≤ k) ∨ kind = 5 ∧ 2 ≤ k then
    some (tileInvalid 0xC)
  else if addr 0x18 then some (tileInvalid 0x18)
  else if addr 0x20 || (!readsB kind d && pf d 0x20 8 != 0) then some (tileInvalid 0x20)
  else if addr 0x28 then some (tileInvalid 0x28)
  else if pf d 0x30 8 % 64 != 0 || tileAddrBad (pf d 0x30 8) lvl || (auxNeeded kind d && pf d 0x30 8 == 0) then some (tileInvalid 0x30)
  else if kind ≠ 6 ∧ kind ≠ 1 ∧ short 0x38 na wa then some (tileInvalid 0x38)
  else if kind ≠ 6 ∧ readsB kind d ∧ short 0x3A nb wb then some (tileInvalid 0x3A)
  else if kind ≠ 6 ∧ short 0x3C nd wd then some (tileInvalid 0x3C)
  else if (if 3 ≤ kind ∧ kind ≤ 5 then (Fmt.ofCode? (tdSfmt d)).isNone || 32 ≤ tdSfmt d else tdSfmt d != 0) then some (tileInvalid 0x3E)
  else if pf d 0x3F 1 != 0 then some (tileInvalid 0x3F)
  else none

/-- The first limit of R177 that an auxiliary record fails. -/
def auxCheck (kind : Nat) (d aux : BitVec 512) : Option FaultInfo :=
  let w := tdFmt d
  let blk := blockSize (fwBlk w) 1
  if !(isMatrix kind && fwTens w) && pf aux 0x12 2 != 0 then some (tileInvalid 0x10)
  else if !(isMatrix kind && fwTens w) && pf aux 0x16 2 != 0 then some (tileInvalid 0x14)
  else if kind = 1 ∧ pf aux 0x30 2 = 0 then some (tileInvalid 0x30)
  else if kind = 1 ∧ pf aux 0x32 2 = 0 then some (tileInvalid 0x32)
  else if kind = 1 ∧ pf aux 0x34 2 % blk ≠ 0 then some (tileInvalid 0x34)
  else if kind = 1 ∧ (pf aux 0x36 1 = 0 ∨ 15 < pf aux 0x36 1) then some (tileInvalid 0x36)
  else if kind = 1 ∧ (pf aux 0x37 1 = 0 ∨ 15 < pf aux 0x37 1) then some (tileInvalid 0x37)
  else if kind = 1 ∧ (pf aux 0x38 1 = 0 ∨ 4 < pf aux 0x38 1) then some (tileInvalid 0x38)
  else if kind = 1 ∧ 7 < pf aux 0x39 1 then some (tileInvalid 0x39)
  else if pf aux 0x3A 6 != 0 then some (tileInvalid 0x3A)
  else if kind = 1 ∧ pf d 0x38 2 ≠ 0 ∧ 16 * pf d 0x38 2 < denseRow (pf aux 0x34 2) (fmtOf (fwAfmt w)).width then some (tileInvalid 0x38)
  else none

/-- Whether a level accepts a kind (R180). -/
def levelAccepts (kind lvl : Nat) : Bool :=
  if kind = 2 then 3 ≤ lvl else if kind = 7 ∨ kind = 9 then lvl ≤ 4 else true

/-- Output size of a convolution along one axis (R179). -/
def convOut (size pad k str : Nat) : Nat := if size + 2 * pad < k then 0 else (size + 2 * pad - k) / str + 1

/-- The checks of R179 after the limits: level, format word, flags, and the shapes of tconv and tnmv. -/
def shapeCheck (kind lvl : Nat) (d aux : BitVec 512) : Option FaultInfo :=
  let w := tdFmt d
  let bad : FaultInfo := { code := .formatInvalid, det1 := w }
  let drainOnly := BitVec.ofNat 64 (0x3FF * 2 ^ 34)
  let ho := convOut (pf aux 0x30 2) (pf aux 0x39 1) (pf aux 0x36 1) (pf aux 0x38 1)
  let wo := convOut (pf aux 0x32 2) (pf aux 0x39 1) (pf aux 0x37 1) (pf aux 0x38 1)
  if !levelAccepts kind lvl then some (tileInvalid 0)
  else if 6 ≤ kind ∧ tdFlag d 2 = false ∧ tdFlag d 3 = false ∧ tdFlag d 1 = false then none
  else if isMatrix kind ∧ formatWordBad w then some bad
  else if kind = 2 ∧ !nmvFmtOk w then some bad
  else if 3 ≤ kind ∧ kind ≤ 5 ∧ (w &&& ~~~ drainOnly != 0 ∨ !asDrain (fwDfmt w) ∨ 5 ≤ fwDrnd w) then some bad
  else if !isMatrix kind && (tdFlag d 2 || tdFlag d 3 || tdFlag d 1) then some (tileInvalid 1)
  else if kind = 1 ∧ tdM d ≠ ho * wo then some (tileInvalid 4)
  else if kind = 1 ∧ tdK d ≠ pf aux 0x36 1 * pf aux 0x37 1 * pf aux 0x34 2 then some (tileInvalid 0xC)
  else if kind = 2 ∧ tdN d ≠ 1 then some (tileInvalid 8)
  else none

/-- A descriptor merged with a base slot: its zero bytes from offset 4 take the slot's (R178). -/
def mergeSlot (d slot : BitVec 512) : BitVec 512 :=
  if !tdFlag d 4 then d
  else packElems 512 8 (fun i => if i < 4 ∨ elem d 8 i ≠ 0 then elem d 8 i else elem slot 8 i) 64

/-! ## Issue (R174, R175) -/

/-- The clusters of a partition's rectangle (R322). -/
def Part.clusters (p : Part) : List Nat :=
  (List.range (p.hm1 + 1)).flatMap fun j => (List.range (p.wm1 + 1)).map fun i => 16 * (p.oy + j) + p.ox + i

/-- Read 64 bytes as one load of stream `e` of core `c`, issued at place `ord` (R131, R175). -/
def State.tileLoad (s : State) (c : Nat) (e : StreamId) (ord : Nat) (sp : Bool) (a : Nat) : Acc (List PByte) :=
  if sp then
    match s.spRangeTarget c a 64 false with
    | none => .error (.bad (spFault s c a))
    | some (d, off) =>
      match (s.core d).spBytes off 64 with
      | some bs => .ok bs
      | none => .error (.wait s)
  else if s.storesAhead c ord then .error (.wait s)
  else s.readVirt (s.engineParty c e) true permR a 64

/-- Whether a link that is up reaches a device (R181, R460). -/
def State.reachable (s : State) (dev : Nat) : Bool := s.links.any fun l => l.2.up && l.2.reaches.contains dev

/-- Child path of an instruction that enters at a level (R196). -/
def rootPath (fromPeer : Bool) : Nat := if fromPeer then 0x1FFFFF else 0xFFFFFF

/-- The root of a tile instruction's tree: the acceptor of its level (R180). -/
def rootNode (kind lvl unit : Nat) (d : BitVec 512) (fromPeer : Bool) : TileNode :=
  { id := 0, parent := none, level := lvl, unit := unit, path := rootPath fromPeer
    reg := { m0 := 0, m1 := tdM d, n0 := 0, n1 := tdN d, k0 := 0, k1 := if isMatrix kind then tdK d else 1 } }

/-- Unit that accepts at a level, for an issuing core. -/
def acceptorOf (core lvl : Nat) : Nat :=
  match lvl with
  | 1 => core
  | 2 => clusterOf core
  | 3 => dieOf (clusterOf core)
  | _ => 0

/-- Hand a tile instruction of core `c` to its acceptor (R175, R181). -/
def startTile (c : Nat) (e : StreamId) (pc : W64) (kind lvl : Nat) (d aux : BitVec 512) (remote : Option Nat) (s : State) : State :=
  let j := (s.core c).theJob
  let s := match remote with
    | some d => s.joinFabric j.ctx d
    | none => s
  let ins : TileIns :=
    { id := s.nextTile, core := some c, strm := e, pc := pc, ctx := j.ctx, ctag := j.ctag, part := j.part
      slot := j.slot, node := j.node, kind := kind, level := lvl, desc := d, aux := aux, clusters := (s.part j.part).clusters
      ord := (s.core c).issueOrd, waits := if kind = 7 ∨ kind = 9 then (s.core c).tilesOut else []
      nodes := if remote.isSome then [] else [rootNode kind (Nat.min lvl 4) (acceptorOf c (Nat.min lvl 4)) d false], remote := remote }
  { s with tiles := s.tiles ++ [ins], nextTile := s.nextTile + 1 }.updCore c fun k => { k with tilesOut := k.tilesOut ++ [ins.id] }

/-- What a tile word comes to when it reads its descriptor (R175). -/
inductive TileTry where
  /-- The descriptor or its AUX record is not there yet. -/
  | wait (s : State)
  | fault (f : FaultInfo)
  | poison (a : Nat) (bs : List PByte)
  | stale (unit : Nat)
  /-- The merged descriptor, its AUX record, the level, and the device it goes to. -/
  | go (d aux : BitVec 512) (lvl : Nat) (remote : Option Nat)
  deriving Repr

/-- A load of a tile word that did not go on. -/
def tileStop (x : Stop) : TileTry :=
  match x with
  | .wait s => .wait s
  | .bad f => .fault f
  | .stale u => .stale u
  | .poison a => .poison a []

/-- The steps of a tile word up to its acceptor: the descriptor and its AUX record are read, merged and checked (R175-R179, R181). -/
def State.tileTry (s : State) (c : Nat) (e : StreamId) (ord kind code : Nat) (sp : Bool) (ea : Nat) (opb : W64) : TileTry :=
  match s.tileLoad c e ord sp ea with
  | .error x => tileStop x
  | .ok bs =>
    if poisonedP bs then .poison ea bs
    else
      let raw := recordOf bs
      let d := mergeSlot raw (sget 0 ((s.core c).strm e).slots (pf raw 3 1 % 16))
      let dev := field opb 0 10
      let own := dev == s.mem.devId
      let lvl := if kind = 8 then 1 else if code = 5 ∧ own then 4 else code
      let axp := pf d 0x30 8
      match descCheck kind lvl d with
      | some f => .fault f
      | none =>
        if kind = 8 then .go d 0 lvl none
        else
          match (if kind = 7 ∨ kind = 9 ∨ axp = 0 then .ok []
              else s.tileLoad c e ord (tileSp axp) (if tileSp axp then axp % 2 ^ 28 else axp)) with
          | .error x => tileStop x
          | .ok ab =>
            if poisonedP ab then .poison axp ab
            else
              let aux := recordOf ab
              match ((if ab.isEmpty then none else auxCheck kind d aux).or (shapeCheck kind lvl d aux)) with
              | some f => .fault f
              | none =>
                if code = 5 ∧ !own ∧ (s.mem.domain ≤ dev ∨ !s.reachable dev) then .fault (tileInvalid 0xFFFF)
                else .go d aux lvl (if kind ≠ 8 ∧ code = 5 ∧ !own then some dev else none)

/-- A tile word whose descriptor has been checked takes effect: `tdesc` fills its slot, every other kind goes to its acceptor, and
`tsync` holds its stream (R178, R188). -/
def State.tileGo (s : State) (c : Nat) (e : StreamId) (pc : W64) (kind : Nat) (d aux : BitVec 512) (lvl : Nat) (remote : Option Nat) :
    State :=
  if kind = 8 then
    let s := s.updStrm c e fun st => { st with slots := sset 0 st.slots (pf d 3 1) d }
    if tdFlag d 0 then s.updCore c fun k => k.setTag (pf d 2 1) 0 else s
  else
    let id := s.nextTile
    let s := startTile c e pc kind lvl d aux remote s
    if kind = 9 then
      s.updStrm c e fun st => { st with
        hold := some { strm := e, ord := (s.core c).issueOrd, pc := pc, kind := .none, hold := some (.tiles [id]), stage := 2 } }
    else s

/-- Tile instructions of a core that are outstanding, and words that are to hand over another (R175). -/
def Core.tilesHeld (k : Core) : Nat := k.tilesOut.length + ((k.memq ++ k.savedOps).filter fun o => o.kind.isTile).length

/-- A tile word read a poisoned descriptor: its node rolls back (R449). -/
def State.tilePoison (s : State) (c : Nat) (e : StreamId) (a : Nat) (bs : List PByte) : State :=
  (s.consumePoison c (s.poisonPa (s.engineParty c e) a bs)).updStrm c e fun st => { st with trapped := true }

/-- Issue a tile word of kind `kind` (R174, R175). A descriptor that is not there freezes the core as a load does: the word issues, and
the instruction is handed over when it comes (R58). -/
def issueTile (o : Nat) (t : Tpl) (s : State) : Out :=
  let kind := o - 0x280
  let code := field t.mod 0 3
  let ea := s.ea t
  let c := s.cur.core
  let e := s.cur.strm
  if !s.guard0 t then issue o t id s
  else if kind ≠ 8 ∧ (code = 0 ∨ 6 ≤ code) then .next (s.faultCur (tileInvalid 0))
  else if ea.toNat % 64 != 0 then .next (s.faultCur (misaligned ea 64))
  else if s.curCore.carving && bit t.mod 3 then .next s.blockWord
  else if kind ≠ 8 && !s.curCore.roomFor 5 s.curCore.tilesHeld then .next (s.holdFull 5 s.curCore.tilesHeld)
  else
    match s.tileTry c e s.curCore.issueOrd kind code (bit t.mod 3) ea.toNat (s.opb t) with
    | .fault f => .next (s.faultCur f)
    | .poison a bs => .next (s.tilePoison c e a bs)
    | .stale u => .next (s.stopStrm c e (.stale u) s.curStrm.pc 0)
    | .wait s' =>
      issue o t (fun s => (s.updMem fun m => { m with walks := s'.mem.walks }).pushOp
        { s.newOp (.tile kind code (s.opb t)) 0 1 with
          sp := bit t.mod 3, lanes := [{ lane := 0, va := (s.ea t).toNat, size := 64, data := 0 }], stage := 2 }) s
    | .go d aux lvl remote => issue o t (fun s => s.tileGo c e s.curStrm.pc kind d aux lvl remote) s

/-- The tile word that freezes core `c`, if its oldest frozen word is one, tries again; then the words behind it go on (R58, R175). -/
def State.pumpTile (s : State) (c : Nat) : State :=
  match (s.core c).memq with
  | [] => s
  | op :: _ =>
    match op.kind with
    | .tile kind code opb =>
      match s.tileTry c op.strm op.ord kind code op.sp ((op.lanes.map (·.va)).headD 0) opb with
      | .wait s => s
      | .fault f =>
        (s.raiseRecord (s.core c).theJob.part { faultRecord s c op.strm f with pc := op.pc }).updStrm c op.strm fun st => { st with trapped := true }
      | .poison a bs => (s.tilePoison c op.strm a bs).updCore c fun k => { k with memq := k.memq.drop 1 }
      | .stale u => s.stopStrm c op.strm (.stale u) op.pc 0
      | .go d aux lvl remote =>
        ((s.tileGo c op.strm op.pc kind d aux lvl remote).updCore c fun k => { k with memq := k.memq.drop 1 }).pump c
    | _ => s

/-- The frozen words of a core taken as far as they go, tile words among them. -/
def State.pumpAll (s : State) (c : Nat) : State := foldUpTo 9 (fun s _ => s.pumpTile c) (s.pump c)

/-- TMMA (R182). -/
def execTmma (t : Tpl) (s : State) : Out := issueTile 0x280 t s
/-- TCONV (R182). -/
def execTconv (t : Tpl) (s : State) : Out := issueTile 0x281 t s
/-- TNMV (R183). -/
def execTnmv (t : Tpl) (s : State) : Out := issueTile 0x282 t s
/-- TMAP (R184). -/
def execTmap (t : Tpl) (s : State) : Out := issueTile 0x283 t s
/-- TRED (R185). -/
def execTred (t : Tpl) (s : State) : Out := issueTile 0x284 t s
/-- TCOPY (R186). -/
def execTcopy (t : Tpl) (s : State) : Out := issueTile 0x285 t s
/-- TKAT (R187). -/
def execTkat (t : Tpl) (s : State) : Out := issueTile 0x286 t s
/-- TBAR (R188). -/
def execTbar (t : Tpl) (s : State) : Out := issueTile 0x287 t s
/-- TDESC (R178). -/
def execTdesc (t : Tpl) (s : State) : Out := issueTile 0x288 t s
/-- TSYNC (R188). -/
def execTsync (t : Tpl) (s : State) : Out := issueTile 0x289 t s

end Sys2Proof.Machine
end

