-- ==== Sys2Proof/Machine/TileEvents.lean ====
section
/-! DEFINITION. How tile instructions are decomposed, computed and completed (R180-R198). -/

namespace Sys2Proof.Machine

/-! ## Reaching tile instructions -/

/-- Tile instruction `i`. -/
def State.tile (s : State) (i : Nat) : Option TileIns := s.tiles.find? fun t => t.id == i

/-- Change tile instruction `i`. -/
def State.updTile (s : State) (i : Nat) (f : TileIns → TileIns) : State := { s with tiles := mapIf (fun t => t.id == i) f s.tiles }

/-- Node `n` of a tile instruction. -/
def TileIns.find (t : TileIns) (n : Nat) : Option TileNode := t.nodes.find? fun x => x.id == n

/-- Replace a node. -/
def TileIns.setNode (t : TileIns) (x : TileNode) : TileIns := { t with nodes := mapIf (fun y => y.id == x.id) (fun _ => x) t.nodes }

/-- Whether a core is in the scheduling pool (R393, R446). -/
def State.poolCore (s : State) (c : Nat) : Bool := !(s.core c).suspect && !(s.cluster (clusterOf c)).gated

/-- Whether work of a partition may go on: its halt line is down (R397). -/
def State.partRuns (s : State) (p : Nat) : Bool := !(s.halt p).stops

/-- The number under which the Cuff knows a unit that accepts tile work: core, cluster, chiplet, the Crown (R406). -/
def tileUnit (level unit : Nat) : Nat :=
  match level with
  | 1 => unit | 2 => 512 + unit | 3 => 576 + unit | _ => 584

/-- Whether a unit takes on tile work of a partition: no halt, no pre-emption request received (R397, R405). -/
def State.tileRuns (s : State) (p level unit : Nat) : Bool := s.partRuns p && !s.unitPreempted p (tileUnit level unit)

/-! ## Decomposition (R180, R190, R191) -/

/-- The children of a unit at a level, in ascending physical order (R180). -/
def State.tileKids (s : State) (t : TileIns) (level unit : Nat) : List Nat :=
  match level with
  | 4 => (List.range 8).filter fun d => t.clusters.any fun c => dieOf c == d
  | 3 => (List.range 8).filterMap fun i => t.clusters.find? fun c => dieOf c == unit && localCluster c == i
  | 2 => (List.range 8).filterMap fun i => if s.poolCore (8 * unit + i) then some (8 * unit + i) else none
  | _ => []

/-- The path of a child of a unit at a level (R196). -/
def childPath (path level kid : Nat) : Nat :=
  let (sh, n) := match level with
    | 4 => (16, kid)
    | 3 => (12, localCluster kid)
    | _ => (8, kid % 8)
  path - nbits path sh 4 * 2 ^ sh + n * 2 ^ sh

/-- Pool cores under a child of a unit at a level. -/
def State.poolUnder (s : State) (t : TileIns) (level kid : Nat) : Nat :=
  match level with
  | 4 => (((s.tileKids t 3 kid).map fun c => (s.tileKids t 2 c).length)).foldl (· + ·) 0
  | 3 => (s.tileKids t 2 kid).length
  | _ => 1

/-- K step of a format (R190). -/
def kStep (kind : Nat) (d : BitVec 512) : Nat := if isMatrix kind then 512 / (tdWidths kind d).1 else 1

/-- The cut of a region among `C` children: cm, cn, ck and the parts in ordinal order (R190). -/
def cutRegion (tm tn ks C : Nat) (ksplit : Bool) (r : Region) : Nat × Nat × Nat × List (Nat × Nat × Nat × Region) :=
  let mt := ceilDiv (r.m1 - r.m0) tm
  let nt := ceilDiv (r.n1 - r.n0) tn
  let kt := ceilDiv (r.k1 - r.k0) ks
  let cm := Nat.min C mt
  let cn := Nat.min (C / cm) nt
  let ck := if ksplit && decide (cm * cn < C) && decide (2 ≤ kt) then Nat.min (C / (cm * cn)) kt else 1
  (cm, cn, ck, (List.range cm).flatMap fun im => (List.range cn).flatMap fun jn => (List.range ck).map fun ik =>
    (im, jn, ik,
      { m0 := r.m0 + tm * (im * mt / cm), m1 := Nat.min r.m1 (r.m0 + tm * ((im + 1) * mt / cm))
        n0 := r.n0 + tn * (jn * nt / cn), n1 := Nat.min r.n1 (r.n0 + tn * ((jn + 1) * nt / cn))
        k0 := r.k0 + ks * (ik * kt / ck), k1 := Nat.min r.k1 (r.k0 + ks * ((ik + 1) * kt / ck)) }))

/-- Path digits of a core-level child: its engine, 0 MX, 1 VX, 2 CX, 3 a reduction on VX, and its lane cluster, 15 for none (R196). -/
def corePath (path e lane : Nat) : Nat := path / 256 * 256 + e * 16 + lane

/-- The children of a node that its unit accepts (R190, R191). -/
def State.tileSplit (s : State) (t : TileIns) (x : TileNode) : List TileNode :=
  let kids := s.tileKids t x.level x.unit
  let C := kids.length
  let base := t.nodes.length
  if C = 0 then []
  else if t.kind = 6 then
    -- a run of `tkat` is known by the number of pool cores before its own (R198): its region begins there
    (kids.zipIdx).map fun p =>
      { id := base + p.2, parent := some x.id, level := x.level - 1, unit := p.1, path := childPath x.path x.level p.1
        reg := { x.reg with m0 := x.reg.m0 + ((kids.take p.2).map (s.poolUnder t x.level)).foldl (· + ·) 0 } }
  else
    let tm := if x.level = 2 then 64 else 512
    let (_, cn, ck, parts) := cutRegion tm 64 (kStep t.kind t.desc) C (isMatrix t.kind && !tdFlag t.desc 1) x.reg
    let work : List TileNode := (parts.zipIdx).map fun p =>
      let kid := kids.getD p.2 0
      { id := base + p.2, parent := some x.id, level := x.level - 1, unit := kid, reg := p.1.2.2.2, path := childPath x.path x.level kid
        first := x.first && p.1.2.2.1 == 0, part := x.part || decide (1 < ck) }
    if ck ≤ 1 then work
    else
      let heads := (parts.zipIdx).filter fun p => p.1.2.2.1 == 0
      work ++ (heads.zipIdx).map fun q =>
        let ord := q.1.2
        let kid := kids.getD ord 0
        let _ := cn
        { id := base + parts.length + q.2, parent := some x.id, level := x.level - 1, unit := kid
          reg := { q.1.1.2.2.2 with k0 := x.reg.k0, k1 := x.reg.k1 }, path := corePath (childPath x.path x.level kid) 3 15, part := x.part
          reduces := (List.range ck).map fun j => base + ord + j }

/-- The core that performs a reduction for row block `m` of a reduction child: it splits its region by M over its own children
(R191). -/
def State.reduceCore (s : State) (t : TileIns) (m : Nat) : Nat → Nat → Nat → Region → Nat
  | 0, _, unit, _ => unit
  | fuel + 1, level, unit, r =>
    if level ≤ 1 then unit
    else
      let kids := s.tileKids t level unit
      let tm := if level = 2 then 64 else 512
      let (_, _, _, parts) := cutRegion tm (r.n1 - r.n0 + 1) (r.k1 - r.k0 + 1) kids.length false r
      match (parts.zipIdx).find? fun p => p.1.2.2.2.m0 ≤ m && m < p.1.2.2.2.m1 with
      | some p => State.reduceCore s t m fuel (level - 1) (kids.getD p.2 unit) p.1.2.2.2
      | none => unit

/-! ## Reaching operands (R176, R180, R194, R196) -/

/-- Source number of a unit that does tile work: a core's matrix engine, a cluster, a die, the Crown; at level 0 a stack (R17). -/
def nodeSource (level unit : Nat) : Nat :=
  match level with
  | 0 => (10 + unit / 4) * 4096 + unit % 4 * 64 + 1
  | 1 => coreSource unit 4
  | 2 => clusterSource unit
  | 3 => unit * 4096 + 18 * 64
  | _ => 8 * 4096 + 3 * 64

/-- The units above a node, nearest first (R197). -/
def TileIns.above (t : TileIns) : Nat → TileNode → List Nat
  | 0, _ => []
  | fuel + 1, x =>
    match x.parent.bind t.find with
    | some y => nodeSource y.level y.unit :: t.above fuel y
    | none => []

/-- Who makes an access of tile work: the party that is checked, its source number and child path, the units above it, and what its
cluster has fetched for it (R180, R194, R196, R197). -/
structure TileBy where
  p : Party
  src : Nat
  path : Nat
  above : List Nat := []
  staged : List (Nat × List PByte) := []
  deriving DecidableEq, Repr

/-- An access of tile work that did not go on. -/
structure TileStop where
  stop : Stop
  src : Nat
  path : Nat
  above : List Nat
  deriving Repr

/-- What tile work gives. -/
abbrev TileAcc (α : Type) := Except TileStop α

/-- An access as one of tile work. -/
def TileBy.lift {α : Type} (b : TileBy) (x : Acc α) : TileAcc α := x.mapError fun e => ⟨e, b.src, b.path, b.above⟩

/-- The party of tile work that `master` makes through the cache of `unit`. -/
def tileParty (t : TileIns) (master unit src path : Nat) (above : List Nat) : Party :=
  { master := master, unit := unit, ctag := t.ctag, part := t.part, slot := t.slot, node := t.node, core := t.core
    waiter := .tile t.id src path above, who := 2 ^ 42 + t.id }

/-- Stream code of the engine of a path digit (R17). -/
def engineCode (e : Nat) : Nat :=
  match e with
  | 0 => 4 | 2 => 5 | _ => 3

/-- A core at work on a child of path `path`, by engine `e` and lane cluster `lane`: fetches, drains and reductions are checked under
the core's own master ID (R180; log entry 23). -/
def coreBy (t : TileIns) (x : TileNode) (core path e lane : Nat) : TileBy :=
  let src := coreSource core (engineCode e)
  let up := t.above 4 x
  { p := tileParty t core (clusterOf core) src (corePath path e lane) up, src := src, path := corePath path e lane, above := up
    staged := ((x.parent.bind t.find).map (·.staged)).getD [] }

/-- The path of the core that reduces for a reduction child, below the level that the child stands at (R191, R196). -/
def reducePath (x : TileNode) (core : Nat) : Nat :=
  let p := if 3 ≤ x.level then childPath x.path 3 (clusterOf core) else x.path
  if 2 ≤ x.level then childPath p 2 core else p

/-- A level's own unit at work: cluster and chiplet sequencers, the Crown (R180). -/
def unitBy (t : TileIns) (x : TileNode) : TileBy :=
  let k := t.clusters.headD 0
  let (master, unit) := match x.level with
    | 2 => (512 + x.unit, x.unit)
    | 3 => (576 + x.unit, (t.clusters.find? fun c => dieOf c == x.unit).getD k)
    | _ => (584, 66)
  let src := nodeSource x.level x.unit
  let up := t.above 4 x
  { p := tileParty t master unit src x.path up, src := src, path := x.path, above := up }

/-- A base-die multiplier at work for the level that accepted a `tnmv`: its fetches and the writes of its results are made under that
level's master ID (R180, R183). -/
def stackBy (t : TileIns) (x : TileNode) : TileBy :=
  match x.parent.bind t.find with
  | some y =>
    let b := unitBy t y
    let src := nodeSource 0 x.unit
    let up := t.above 4 x
    { p := { b.p with waiter := .tile t.id src x.path up }, src := src, path := x.path, above := up }
  | none => unitBy t x

/-- Read operand bytes: from what the cluster has staged, from the issuer's scratchpad where a descriptor field of core level names it
(`own`), or from virtual memory (R176, R194). -/
def State.tileRead (s : State) (t : TileIns) (b : TileBy) (own : Bool) (a n : Nat) : TileAcc (List PByte) :=
  match b.staged.find? fun e => decide (e.1 ≤ a ∧ a + n ≤ e.1 + e.2.length) with
  | some e => .ok ((e.2.drop (a - e.1)).take n)
  | none => b.lift <|
    if own && tileSp a && t.level == 1 then
      let c := t.core.getD 0
      match s.spRangeTarget c (a % 2 ^ 28) n false with
      | none => .error (.bad (spFault s c (a % 2 ^ 28)))
      | some (d, off) =>
        match (s.core d).spBytes off n with
        | some bs => .ok bs
        | none => .error (.wait s)
    else s.readVirt b.p false permR a n

/-- The stop of a poisoned operand read at `a`: the event then consumes it. -/
def State.poisonStop {α : Type} (s : State) (b : TileBy) (a : Nat) (bs : List PByte) : TileAcc α :=
  .error ⟨.poison (s.poisonPa b.p a bs), b.src, b.path, b.above⟩

/-- The bytes that hold elements `[c0, c0 + n)` of width `w` of a row at `a`: first address and number. -/
def elemSpan (a w c0 n : Nat) : Nat × Nat := ((a + c0 * w / 8) % 2 ^ 64, ceilDiv ((c0 + n) * w) 8 - c0 * w / 8)

/-- Element codes `[c0, c0 + n)` of width `w` of a row at `a`. -/
def State.tileElems (s : State) (t : TileIns) (b : TileBy) (own : Bool) (a w c0 n : Nat) : TileAcc (List Nat) := do
  let (lo, len) := elemSpan a w c0 n
  let bs ← s.tileRead t b own lo len
  if poisonedP bs then s.poisonStop b lo bs
  else pure (((codesOf w (bs.map fun b => b.1.toNat)).drop ((c0 * w - 8 * (c0 * w / 8)) / w)).take n)

/-! ## Products (R182) -/

/-- The rows, columns and K range of one 64 by 64 tile of a leaf. -/
structure TilePart where
  mb : Nat
  nb : Nat
  rows : Nat
  cols : Nat
  deriving DecidableEq, Repr

/-- The tiles of a region, in ascending row block and then column block (R190). -/
def Region.tiles (r : Region) : List TilePart :=
  (List.range (ceilDiv (r.m1 - r.m0) 64)).flatMap fun i => (List.range (ceilDiv (r.n1 - r.n0) 64)).map fun j =>
    { mb := r.m0 + 64 * i, nb := r.n0 + 64 * j, rows := Nat.min 64 (r.m1 - (r.m0 + 64 * i)), cols := Nat.min 64 (r.n1 - (r.n0 + 64 * j)) }

/-- The input pixel of position `k` of output pixel `m`, if it lies inside (R182): pixel number. -/
def convPixel (aux : BitVec 512) (m ky kx : Nat) : Option Nat :=
  let cw := pf aux 0x32 2
  let wo := convOut cw (pf aux 0x39 1) (pf aux 0x37 1) (pf aux 0x38 1)
  let y := m / wo * pf aux 0x38 1 + ky
  let x := m % wo * pf aux 0x38 1 + kx
  let pad := pf aux 0x39 1
  if y < pad ∨ x < pad ∨ pf aux 0x30 2 ≤ y - pad ∨ cw ≤ x - pad then none else some ((y - pad) * cw + (x - pad))

/-- The runs of equal kernel position among K positions `[k0, k0 + n)`: kernel row, kernel column, first channel, length. -/
def convRuns (aux : BitVec 512) (k0 n : Nat) : List (Nat × Nat × Nat × Nat) :=
  (segmentsOf (pf aux 0x34 2) (n + 1) k0 n).map fun g => (g.1 / pf aux 0x37 1, g.1 % pf aux 0x37 1, g.2.1, g.2.2)

/-- Where row `m` of A lies at K positions `[k0, k0 + n)`: address of a row, first element and number of elements, in order; no address
for positions outside a convolution's input. -/
def TileIns.spansA (t : TileIns) (m k0 n : Nat) : List (Option Nat × Nat × Nat) :=
  let a := pf t.desc 0x18 8
  let st := (tdStrides t.kind t.desc t.aux).1
  if t.kind = 1 then (convRuns t.aux k0 n).map fun g => ((convPixel t.aux m g.1 g.2.1).map fun px => (a + px * st) % 2 ^ 64, g.2.2.1, g.2.2.2)
  else [(some ((a + m * st) % 2 ^ 64), k0, n)]

/-- The codes of row `m` of A at K positions `[k0, k0 + n)`; positions outside a convolution's input read as zero. -/
def State.rowA (s : State) (t : TileIns) (b : TileBy) (m k0 n : Nat) : TileAcc (List Nat) := do
  let l ← (t.spansA m k0 n).mapM fun g =>
    match g.1 with
    | none => pure (List.replicate g.2.2 0)
    | some a => s.tileElems t b true a (tdWidths t.kind t.desc).1 g.2.1 g.2.2
  pure l.flatten

/-- Scale 1, for groups that read none. -/
def oneScale : Num := .fin false 1 0 false

/-- Where the scale of A for the group at `k` of row `m` lies, if it reads one (R177). -/
def TileIns.scaleAt (t : TileIns) (m k : Nat) : Option Nat :=
  let w := tdFmt t.desc
  let blk := blockSize (fwBlk w) 8
  let asb := pf t.aux 0 8
  if fwBlk w = 0 then none
  else if t.kind = 1 then
    match convRuns t.aux k 1 with
    | (ky, kx, c, _) :: _ =>
      if k < tdK t.desc then (convPixel t.aux m ky kx).map fun px => (asb + px * (pf t.aux 0x34 2 / blk) + c / blk) % 2 ^ 64 else none
    | [] => none
  else if k / blk < ceilDiv (tdK t.desc) blk then some ((asb + m * ceilDiv (tdK t.desc) blk + k / blk) % 2 ^ 64)
  else none

/-- The scales of A for the groups of eight of row `m` from `k0`: one for each of `g` groups (R177). -/
def State.scalesA (s : State) (t : TileIns) (b : TileBy) (m k0 g : Nat) : TileAcc (List Num) :=
  (List.range g).mapM fun i =>
    match t.scaleAt m (k0 + 8 * i) with
    | none => pure oneScale
    | some a => do
      let bs ← s.tileRead t b false a 1
      if poisonedP bs then s.poisonStop b a bs else pure (decodeScale (fwAsc (tdFmt t.desc)) (natOfP bs))

/-- Where the scales of B for a group at `k` lie, from column `nb` on, if it reads any (R177). -/
def TileIns.scaleRow (t : TileIns) (nb k : Nat) : Option Nat :=
  let w := tdFmt t.desc
  let blk := blockSize (fwBlk w) 8
  if fwBlk w = 0 ∨ ceilDiv (tdK t.desc) blk ≤ k / blk then none else some ((pf t.aux 8 8 + k / blk * tdN t.desc + nb) % 2 ^ 64)

/-- The scales of B for a group at `k`, one for each of the columns. -/
def State.scalesB (s : State) (t : TileIns) (b : TileBy) (nb cols k : Nat) : TileAcc (List Num) :=
  match t.scaleRow nb k with
  | none => pure (List.replicate cols oneScale)
  | some a => do
    let bs ← s.tileRead t b false a cols
    if poisonedP bs then s.poisonStop b a bs else pure (bs.map fun b => decodeScale (fwBsc (tdFmt t.desc)) b.1.toNat)

/-- What a cluster fetches once for several of its cores (R194): B where M is split, A where N is split, with their scales. -/
def State.stageCluster (s : State) (t : TileIns) (x : TileNode) : TileAcc (List (Nat × List PByte)) := do
  let b := unitBy t x
  let r := x.reg
  let (wa, wb, _) := tdWidths t.kind t.desc
  let (_, sb, _) := tdStrides t.kind t.desc t.aux
  let (cm, cn, _, _) := cutRegion 64 64 (kStep t.kind t.desc) (s.tileKids t 2 x.unit).length (!tdFlag t.desc 1) r
  let blocks := (List.range (ceilDiv (r.k1 - r.k0) 8)).map fun i => r.k0 + 8 * i
  let rows := (List.range (r.m1 - r.m0)).map fun i => r.m0 + i
  let fromA := if cn < 2 then [] else
    (rows.flatMap fun m => (t.spansA m r.k0 (r.k1 - r.k0)).filterMap fun g => g.1.map fun a => elemSpan a wa g.2.1 g.2.2)
      ++ rows.flatMap fun m => (blocks.filterMap fun k => t.scaleAt m k).eraseDups.map fun a => (a, 1)
  let fromB := if cm < 2 then [] else
    ((List.range (r.k1 - r.k0)).map fun i => elemSpan ((pf t.desc 0x20 8 + (r.k0 + i) * sb) % 2 ^ 64) wb r.n0 (r.n1 - r.n0))
      ++ (blocks.filterMap fun k => t.scaleRow r.n0 k).eraseDups.map fun a => (a, r.n1 - r.n0)
  (fromA ++ fromB).mapM fun e => (s.tileRead t b false e.1 e.2).map fun bs => (e.1, bs)

/-- A row of A or column of B from its K edge on, with the scales of its groups of `g` elements, transformed as the converting loads
transform it (R112, R113, R182, R212; log entry 24): the values of its blocks are transformed, and each block is quantised again under a
scale taken anew. `sm`: the smoothing channels, none beyond the edge. Answers the elements, the scales, and the block-scale events. -/
def xformRow (w : W64) (wt : Bool) (sm : List Num) (g : Nat) (row scales : List Num) : List Num × List Num × Nat :=
  if fwXform w = 0 then (row, scales, 0)
  else
    let f := fmtOf (if wt then fwBfmt w else fwAfmt w)
    let inf := if wt then fwBinf w else fwAinf w
    let p3 := if wt then fwBsc w else fwAsc w
    let n := row.length
    let x := if fwBlk w = 0 then row else (row.zipIdx).map fun e => e.1.mul (scales.getD (e.2 / g) .nan)
    let x := if fwXform w = 1 then ((segments (fwHsz w) (n / fwHsz w) x).map hadamardBlock).flatten
      else (x.zipIdx).map fun e =>
        match sm[e.2]? with
        | some k => fp32 (smoothProduct wt e.1 k)
        | none => e.1
    let b := blockSize (fwBlk w) n
    let sc := if fwBlk w = 0 then [] else (segments b (n / b) x).map fun l => blockScale l f inf p3
    let one : BlockScale := ⟨0, oneScale, false, false⟩
    let q := (x.zipIdx).map fun e =>
      let z := sc.getD (e.2 / b) one
      decodeFmt f (if z.bad then zeroCode f false else (roundTo (e.1.div z.value) f .rne false inf 0).code) inf
    (q, if fwBlk w = 0 then scales else (List.range (n / g)).map fun i => decodeScale p3 (sc.getD (i * g / b) one).code, (sc.filter (·.event)).length)

/-- Codes padded to a whole number of K steps. -/
def padTo (n : Nat) (l : List Num) : List Num := l ++ List.replicate (n - l.length) (.fin false 0 0 false)

/-- The initial accumulator of an element (R182): the value of D under ACC. -/
def accStart (t : TileIns) (code : Nat) : Nat :=
  let w := tdFmt t.desc
  let v := decodeFmt (fmtOf (fwDfmt w)) code (fwDinf w)
  if fwInt w then narrow 32 v.toInt else fp32Code v

/-- The sums of one tile of a leaf over its K range, and its counter events (R107, R182, R192). The input rows of `tconv` come by the
copy engine. -/
def State.tileSums (s : State) (t : TileIns) (core : Nat) (x : TileNode) (q : TilePart) : TileAcc (List Nat × Nat × Nat × Nat) := do
  let b := coreBy t x core x.path 0 15
  let ba := if t.kind = 1 then coreBy t x core x.path 2 15 else b
  let w := tdFmt t.desc
  let (_, wb, wd) := tdWidths t.kind t.desc
  let (_, sb, sd) := tdStrides t.kind t.desc t.aux
  let fa := fmtOf (fwAfmt w)
  let fb := fmtOf (fwBfmt w)
  let g := groupLen fa
  let r := x.reg
  let n := r.k1 - r.k0
  let full := ceilDiv n (kStep t.kind t.desc) * kStep t.kind t.desc
  let smv := (pf t.aux 0x18 8 + 4 * r.k0) % 2 ^ 64
  let sm ← if fwXform w = 2 then
      (do
        let bs ← s.tileRead t b false smv (4 * n)
        if poisonedP bs then s.poisonStop b smv bs else pure ((codesOf 32 (bs.map fun b => b.1.toNat)).map fp32Val))
    else pure []
  let as ← (List.range q.rows).mapM fun i => do
    let codes ← s.rowA t ba (q.mb + i) r.k0 n
    let sc ← s.scalesA t b (q.mb + i) r.k0 (full / g)
    pure (xformRow w false sm g (padTo full (codes.map fun c => decodeFmt fa c (fwAinf w))) sc)
  let bk ← (List.range n).mapM fun i => s.tileElems t b true ((pf t.desc 0x20 8 + (r.k0 + i) * sb) % 2 ^ 64) wb q.nb q.cols
  let sbk ← (List.range (full / g)).mapM fun i => s.scalesB t b q.nb q.cols (r.k0 + 8 * i)
  let bs := (List.range q.cols).map fun j =>
    xformRow w true sm g (padTo full (bk.map fun l => decodeFmt fb (l.getD j 0) (fwBinf w))) (sbk.map fun l => l.getD j oneScale)
  let init ← (List.range q.rows).mapM fun i =>
    if x.first && tdFlag t.desc 2 then do
      let codes ← s.tileElems t { b with staged := [] } true ((pf t.desc 0x28 8 + (q.mb + i) * sd) % 2 ^ 64) wd q.nb q.cols
      pure (codes.map (accStart t))
    else pure (List.replicate q.cols 0)
  let per := if fwBlk w = 0 then 0 else 1
  let cut := fun (l : List Num) => segments g (full / g) l
  let bcut := bs.map fun b => (cut b.1, b.2.1)
  let cells := (as.zip init).flatMap fun a =>
    let row := cut a.1.1
    (bcut.zip a.2).map fun b =>
      if fwInt w then
        let r := mmaInt (sx 32 b.2) row b.1.1
        (narrow 32 r.1, r.2, 0, 0)
      else
        let r := mmaFloat per (fp32Val b.2) 0 row b.1.1 a.1.2.1 b.1.2
        (fp32Code r.1, 0, (if r.1.isNaN && !(fp32Val b.2).isNaN then 1 else 0), r.2)
  pure (cells.map (·.1), (cells.map (·.2.1)).foldl (· + ·) 0, (cells.map (·.2.2.1)).foldl (· + ·) 0,
    (cells.map (·.2.2.2) ++ as.map (·.2.2) ++ bs.map (·.2.2)).foldl (· + ·) 0)

/-! ## Writing D (R110, R182, R192) -/

/-- Write bytes: of D in the issuer's scratchpad where a descriptor field of core level names it (`own`), otherwise in virtual memory. -/
def State.tileWrite (s : State) (t : TileIns) (b : TileBy) (own : Bool) (a : Nat) (bs : List PByte) : TileAcc (State × List Nat) :=
  b.lift <|
    if own && tileSp a && t.level == 1 then
      let c := t.core.getD 0
      match s.spRangeTarget c (a % 2 ^ 28) bs.length true with
      | none => .error (.bad (spFault s c (a % 2 ^ 28)))
      | some (_, off) => .ok (s.updCore c fun k => k.fillBuf 1 (bufRange [] off bs), [])
    else s.writeVirt b.p permW a bs

/-- Write several byte ranges; `own` as in `tileWrite`. -/
def State.tileWrites (s : State) (t : TileIns) (b : TileBy) (own : Bool) (l : List (Nat × List Nat)) : TileAcc (State × List Nat) :=
  l.foldlM (fun (acc : State × List Nat) e => do
    let (s, pas) ← acc.1.tileWrite t b own (e.1 % 2 ^ 64) (e.2.map fun b => (BitVec.ofNat 8 b, false))
    pure (s, acc.2 ++ pas)) (s, [])

/-- The drain of one tile and its transposed copy: the rows of D with their addresses, the rows of the copy and its scales, the
saturations, the block-scale events, and the generator bank (R110, R182, R192, R218). -/
def tileDrain (t : TileIns) (q : TilePart) (acc : List Nat) (bank : Sparse W32) :
    List (Nat × List Nat) × List (Nat × List Nat) × Nat × Nat × Sparse W32 :=
  let w := tdFmt t.desc
  let ts := if pf t.desc 0x30 8 = 0 then none else some (BitVec.ofNat 32 (pf t.aux 0x10 4), BitVec.ofNat 32 (pf t.aux 0x14 4))
  let p := drainFmt (some w) ts
  let xcopy := tdFlag t.desc 3
  let tf := fmtOf (fwTfmt w)
  let tmd := Rnd.ofCode (fwTrnd w)
  let tb := blockSize (fwTblk w) 64
  let xs := acc.map p.x
  let scales := (List.range q.cols).map fun n =>
    let col := (List.range q.rows).map fun m => xs.getD (q.cols * m + n) .nan
    (segments tb (ceilDiv q.rows tb) col).map fun l => blockScale l tf (fwTinf w) (fwTscf w)
  let one : BlockScale := ⟨0, oneScale, false, false⟩
  let r := ((acc.zip xs).zipIdx).foldl (fun (a : List Nat × List Nat × Nat × Sparse W32) c =>
    let n := c.2 % q.cols
    let m := c.2 / q.cols
    let g := (q.nb + n) % 64
    let (d, bank) := drawIf p.md a.2.2.2 g
    let e := p.elem c.1.1 d
    if xcopy then
      let (d', bank) := drawIf tmd bank g
      let sc := if fwTblk w = 0 then one else (scales.getD n []).getD (m / tb) one
      let e' : Rounded := if sc.bad then ⟨zeroCode tf false, false⟩ else roundTo (c.1.2.div sc.value) tf tmd (fwTsat w) (fwTinf w) d'
      (e.code :: a.1, e'.code :: a.2.1, a.2.2.1 + (if e.sat then 1 else 0) + (if e'.sat then 1 else 0), bank)
    else (e.code :: a.1, a.2.1, a.2.2.1 + (if e.sat then 1 else 0), bank)) ([], [], 0, bank)
  let wd := p.f.width
  let (_, _, sd) := tdStrides t.kind t.desc t.aux
  let rows := segments q.cols q.rows r.1.reverse
  let dw := (rows.zipIdx).map fun e => (pf t.desc 0x28 8 + (q.mb + e.2) * sd + q.nb * wd / 8, bytesOf wd e.1)
  if !xcopy then (dw, [], r.2.2.1, 0, r.2.2.2)
  else
    let tw := tf.width
    let cols := transposed q.cols (segments q.cols q.rows r.2.1.reverse)
    let evened := fun (l : List Nat) => if l.length * tw % 8 = 0 then l else l ++ [0]
    let td := (cols.zipIdx).map fun e =>
      (pf t.aux 0x20 8 + (q.nb + e.2) * denseRow (tdM t.desc) tw + q.mb * tw / 8, bytesOf tw (evened e.1))
    let tds := if fwTblk w = 0 then [] else (scales.zipIdx).map fun e =>
      (pf t.aux 0x28 8 + (q.nb + e.2) * ceilDiv (tdM t.desc) tb + q.mb / tb, e.1.map (·.code))
    let evs := if fwTblk w = 0 then 0 else ((scales.map fun l => (l.filter (·.event)).length).foldl (· + ·) 0)
    (dw, td ++ tds, r.2.2.1, evs, r.2.2.2)

/-- Count events in the set of the accumulator that tile work uses (R194, R219). -/
def Core.countTile (k : Core) (sat nan bso : Nat) : Core :=
  let set := if k.theJob.regsl = 2 then 7 else 3
  (countsOf set sat nan bso).foldl (fun k p => if p.2.2 = 0 then k else k.bump p.1 p.2.1 p.2.2) k

/-- Drain a tile on a core and write it. -/
def State.tileOut (s : State) (t : TileIns) (b : TileBy) (core : Nat) (q : TilePart) (acc : List Nat) : TileAcc (State × List Nat) := do
  let (d, x, sat, bso, bank) := tileDrain t q acc (s.core core).sr
  let (s, pas) ← s.tileWrites t b true d
  let (s, pas') ← s.tileWrites t b false x
  pure (s.updCore core fun k => { k with sr := bank }.countTile sat 0 bso, pas ++ pas')

/-- The strip of 16 columns of a tile that lane cluster `l` works on, if it has any (R190, R191). -/
def TilePart.strip (q : TilePart) (l : Nat) : Option TilePart :=
  if 16 * l < q.cols then some { q with nb := q.nb + 16 * l, cols := Nat.min 16 (q.cols - 16 * l) } else none

/-! ## Element kinds (R184-R186) -/

/-- One element of `tmap` or `tcopy` from decoded a and b, with the draw `d`. -/
def mapElem (kind : Nat) (desc aux : BitVec 512) (a b : Num) (d : Nat) : Nat :=
  let w := tdFmt desc
  let f := fmtOf (fwDfmt w)
  let md := Rnd.ofCode (fwDrnd w)
  let op := if kind = 3 then tdK desc % 256 else 0
  let rdn := md == .rdn
  let tsa := if pf desc 0x30 8 = 0 then oneScale else tensorScale w (BitVec.ofNat 32 (pf aux 0x10 4))
  let pick := fun (isMax : Bool) =>
    if a.isNaN || b.isNaN then Num.nan
    else
      let less := a.lt b || (!b.lt a && a.neg? && !b.neg?)
      if less != isMax then a else b
  let v := match op with
    | 0 => some a
    | 1 => some (a.add rdn b)
    | 2 => some (a.mul b)
    | 3 => some (pick true)
    | 4 => some (pick false)
    | 5 => transNum 0x10E a b
    | 6 => transNum 0x110 a b
    | 7 => transNum 0x10A a b
    | _ => some ((a.mul tsa).add rdn b)
  match v with
  | some x => (roundTo x f md (fwDsat w) (fwDinf w) d).code
  | none => Config.undecided (((0x280 + op) * 2 ^ 64 + w.toNat) * 2 ^ 64 + fp32Code a * 2 ^ 32 + d) % 2 ^ f.width

/-- The draws of the elements of one row block of tiles, `tiles` across: generator n mod 64 for each, in ascending n within ascending m (R184).
None unless the rounding is stochastic. -/
def rowBlockDraws (md : Rnd) (tiles : List TilePart) (bank : Sparse W32) : List Nat × Sparse W32 :=
  if md != .sr then ([], bank)
  else
    let columns := tiles.flatMap fun q => (List.range q.cols).map fun e => (q.nb + e) % 64
    let r := ((List.range ((tiles.head?.map (·.rows)).getD 0)).flatMap fun _ => columns).foldl (fun (acc : List Nat × Sparse W32) g =>
      let (d, bank) := drawIf md acc.2 g
      (d :: acc.1, bank)) ([], bank)
    (r.1.reverse, r.2)

/-- `tmap` and `tcopy` over tile `q` of a leaf, each lane cluster on its strip; `draws` are those of its row block of tiles (R184, R186,
R190). -/
def State.mapTile (s : State) (t : TileIns) (core : Nat) (x : TileNode) (q : TilePart) (tiles : List TilePart) (draws : List Nat) :
    TileAcc (State × List Nat) :=
  let total := (tiles.map (·.cols)).sum
  let before := ((tiles.filter fun z => decide (z.nb < q.nb)).map (·.cols)).sum
  let (wa, wb, wd) := tdWidths t.kind t.desc
  let (sa, sb, sd) := tdStrides t.kind t.desc t.aux
  let f := fmtOf (tdSfmt t.desc)
  (List.range 4).foldlM (fun (acc : State × List Nat) l =>
    match q.strip l with
    | none => pure acc
    | some z => do
      let s := acc.1
      let b := coreBy t x core x.path 1 l
      let rows ← (List.range z.rows).mapM fun i => do
        let a ← s.tileElems t b true ((pf t.desc 0x18 8 + (z.mb + i) * sa) % 2 ^ 64) wa z.nb z.cols
        let c ← if readsB t.kind t.desc then s.tileElems t b true ((pf t.desc 0x20 8 + (z.mb + i) * sb) % 2 ^ 64) wb z.nb z.cols
          else pure (a.map fun _ => 0)
        pure (a.zip c)
      let out := (rows.zipIdx).map fun row => (row.1.zipIdx).map fun e =>
        mapElem t.kind t.desc t.aux (decodeFmt f e.1.1 true) (decodeFmt f e.1.2 true)
          (draws.getD (row.2 * total + before + 16 * l + e.2) 0)
      let w := if tdTr t.kind t.desc then
          ((transposed z.cols out).zipIdx).map fun e => (pf t.desc 0x28 8 + (z.nb + e.2) * sd + z.mb * wd / 8, bytesOf wd e.1)
        else (out.zipIdx).map fun e => (pf t.desc 0x28 8 + (z.mb + e.2) * sd + z.nb * wd / 8, bytesOf wd e.1)
      let (s, pas) ← s.tileWrites t b true w
      pure (s, acc.2 ++ pas)) (s, [])

/-- One step of a reduction: fp32 of the exact pair (R185). -/
def redStep (op : Nat) (a b : Num) : Num :=
  if op = 0 then fp32 (a.add false b)
  else if a.isNaN || b.isNaN then .nan
  else
    let less := a.lt b || (!b.lt a && a.neg? && !b.neg?)
    fp32 (if less != (op == 1) then a else b)

/-- Values folded from the first (R185). -/
def redList (op : Nat) : List Num → Num
  | [] => .fin false 0 0 false
  | a :: l => l.foldl (redStep op) a

/-- The lines a leaf reduces: line, value, core. A row is reduced in the strips of its lane clusters (R185, R190). -/
def State.redLeaf (s : State) (t : TileIns) (core : Nat) (x : TileNode) : TileAcc (List (Nat × Num × Nat)) := do
  let (wa, _, _) := tdWidths t.kind t.desc
  let (sa, _, _) := tdStrides t.kind t.desc t.aux
  let r := x.reg
  let f := fmtOf (tdSfmt t.desc)
  let op := tdK t.desc % 256
  let strips := (List.range (ceilDiv (r.n1 - r.n0) 16)).map fun j => (r.n0 + 16 * j, Nat.min 16 (r.n1 - r.n0 - 16 * j), j % 4)
  let rows ← (List.range (r.m1 - r.m0)).mapM fun i => strips.mapM fun z => do
    let a ← s.tileElems t (coreBy t x core x.path 1 z.2.2) true ((pf t.desc 0x18 8 + (r.m0 + i) * sa) % 2 ^ 64) wa z.1 z.2.1
    pure (a.map fun c => decodeFmt f c true)
  if (tdK t.desc).testBit 8 then
    let rows := rows.map List.flatten
    pure ((List.range (r.n1 - r.n0)).map fun j => (r.n0 + j, redList op (rows.map fun l => l.getD j .nan), core))
  else pure ((rows.zipIdx).map fun e => (r.m0 + e.2, redList op (e.1.map (redList op)), core))

/-- Lines of several parts, combined in ascending part order (R185). -/
def combineLines (op : Nat) (l : List (Nat × Num × Nat)) : List (Nat × Num × Nat) :=
  l.foldl (fun (acc : List (Nat × Num × Nat)) e =>
    if acc.any fun a => a.1 == e.1 then mapIf (fun a => a.1 == e.1) (fun a => (a.1, redStep op a.2.1 e.2.1, a.2.2)) acc
    else acc ++ [e]) []

/-- The reduced lines rounded by the cores that hold their first parts, and written (R185). -/
def State.redOut (s : State) (t : TileIns) (lines : List (Nat × Num × Nat)) : TileAcc (State × List Nat) :=
  let w := tdFmt t.desc
  let f := fmtOf (fwDfmt w)
  let md := Rnd.ofCode (fwDrnd w)
  let (_, _, sd) := tdStrides t.kind t.desc t.aux
  lines.foldlM (fun (acc : State × List Nat) e => do
    let c := e.2.2
    let leaf := (t.nodes.find? fun y => y.level == 1 && y.unit == c).getD
      { id := 0, parent := none, level := 1, unit := c, reg := ⟨0, 0, 0, 0, 0, 0⟩, path := rootPath t.back.isSome }
    let (d, bank) := drawIf md (acc.1.core c).sr (e.1 % 64)
    let a := if (tdK t.desc).testBit 8 then pf t.desc 0x28 8 + e.1 * f.width / 8 else pf t.desc 0x28 8 + e.1 * sd
    let (s, pas) ← (acc.1.updCore c fun k => { k with sr := bank }).tileWrites t (coreBy t leaf c leaf.path 1 15) true
      [(a, bytesOf f.width [(roundTo e.2.1 f md (fwDsat w) (fwDinf w) d).code])]
    pure (s, acc.2 ++ pas)) (s, [])

/-! ## tnmv and tkat (R183, R187) -/

/-- A block of 256 rows of `tnmv`, made by the multipliers of a stack. -/
def State.nmvLeaf (s : State) (t : TileIns) (x : TileNode) : TileAcc (State × List Nat) := do
  let (sa, sb, sd) := tdStrides t.kind t.desc t.aux
  let b := stackBy t x
  let w := tdFmt t.desc
  let k := tdK t.desc
  let xs ← (List.range k).mapM fun i => do
    let l ← s.tileElems t b true ((pf t.desc 0x20 8 + i * sb) % 2 ^ 64) 16 0 1
    pure (decodeFmt .bf16 (l.headD 0) true)
  let ns := nmvScales w k
  let ys ← (List.range (x.reg.m1 - x.reg.m0)).mapM fun i => do
    let m := x.reg.m0 + i
    let g ← b.lift (s.stackOf b.p m ((pf t.desc 0x18 8 + m * sa) % 2 ^ 64) (nmvRowBytes w k))
    let g' ← if ns = 0 then pure g else b.lift (s.stackOf b.p m ((pf t.aux 0 8 + m * ns) % 2 ^ 64) ns)
    if g ≠ g' then
      b.lift (.error (.bad { code := .nmvPlacement, addr := BitVec.ofNat 64 (pf t.aux 0 8 + m * ns), det1 := BitVec.ofNat 64 m }))
    else do
      let a ← s.tileElems t b true ((pf t.desc 0x18 8 + m * sa) % 2 ^ 64) (fmtOf (fwAfmt w)).width 0 k
      let sc ← if ns = 0 then pure [] else s.tileElems t b false ((pf t.aux 0 8 + m * ns) % 2 ^ 64) 8 0 ns
      let y := nmvRow w (.fin false 0 0 false) (a.map fun c => decodeFmt (fmtOf (fwAfmt w)) c (fwAinf w)) xs (sc.map (decodeScale (fwAsc w)))
      pure (pf t.desc 0x28 8 + m * sd, bytesOf 32 [fp32Code y])
  s.tileWrites t b true ys

/-- The known-answer tile of one core (R187): whether it differs from the constant. -/
def State.katLeaf (s : State) (t : TileIns) (x : TileNode) (core : Nat) : TileAcc Bool := do
  let b := coreBy t x core x.path 0 15
  let bs ← s.tileRead t b true (pf t.desc 0x18 8) 8200
  if poisonedP bs then s.poisonStop b (pf t.desc 0x18 8) bs
  else
    let l := bs.map fun b => b.1.toNat
    let w := BitVec.ofNat 64 (leNat ((l.drop 8192).map fun b => BitVec.ofNat 8 b))
    if formatWordBad w then b.lift (.error (.bad { code := .formatInvalid, det1 := w }))
    else
      let fa := fmtOf (fwAfmt w)
      let z := List.replicate 1024 0
      let acc := (mmaAll (fwInt w) (groupLen fa) 0 (operandOf fa (fwAinf w) false (l.take 4096) z)
        (operandOf (fmtOf (fwBfmt w)) (fwBinf w) false ((l.drop 4096).take 4096) z) zeroElems).1
      pure (katSig acc != tdFmt t.desc)

/-! ## Acceptance (R189, R190, R195) -/

/-- Whether a tile instruction waits behind a `tbar` or `tsync` of its core (R188). -/
def State.tileBehind (s : State) (t : TileIns) : Bool :=
  t.core.isSome && s.tiles.any fun u => u.core == t.core && decide (u.id < t.id) && !u.done && (u.kind == 7 || u.kind == 9)

/-- Whether unit `b` of level `lb` is unit `a` of level `la` or stands under it. -/
def unitCovers (la a lb b : Nat) : Bool :=
  let cluster := if lb = 1 then clusterOf b else b
  match la with
  | 4 => true
  | 3 => if lb = 3 then a == b else decide (lb < 3) && a == dieOf cluster
  | 2 => decide (lb ≤ 2) && a == cluster
  | _ => lb == la && a == b

/-- Whether an earlier tile instruction of the same core has work that may yet start at the acceptor of a node (R189). -/
def State.startsBehind (s : State) (t : TileIns) (x : TileNode) : Bool :=
  t.core.isSome && s.tiles.any fun u => u.core == t.core && decide (u.id < t.id) && !u.done && u.nodes.any fun y =>
    !y.accepted && y.reduces.isEmpty && decide (x.level ≤ y.level) && unitCovers y.level y.unit x.level x.unit

/-- Whether a tile instruction rounds stochastically (R104, R184-R186). -/
def TileIns.draws (t : TileIns) : Bool :=
  t.kind ≤ 5 && t.kind != 2 &&
    (Rnd.ofCode (fwDrnd (tdFmt t.desc)) == .sr || (tdFlag t.desc 3 && Rnd.ofCode (fwTrnd (tdFmt t.desc)) == .sr))

/-- Whether a tile instruction that draws stands behind an earlier one of its core that draws: then each draws in its turn, so that timing
does not change a result (R193). -/
def State.drawsBehind (s : State) (t : TileIns) : Bool :=
  t.draws && t.core.isSome && s.tiles.any fun u => u.core == t.core && decide (u.id < t.id) && !u.done && u.draws

/-- The blocks of 256 rows of a `tnmv`, each at the stack of its first row (R183, R190, R196). -/
def State.nmvSplit (s : State) (t : TileIns) (x : TileNode) : TileAcc (List TileNode) :=
  let sa := (tdStrides t.kind t.desc t.aux).1
  let b := unitBy t x
  ((List.range (ceilDiv (tdM t.desc) 256)).zipIdx).mapM fun r => do
    let g ← b.lift (s.stackOf b.p (256 * r.1) ((pf t.desc 0x18 8 + 256 * r.1 * sa) % 2 ^ 64) 1)
    let path := x.path - nbits x.path 12 8 * 2 ^ 12 + (if x.level = 4 then g / 2 else 15) * 2 ^ 16 + g % 2 * 2 ^ 12
    pure { id := t.nodes.length + r.2, parent := some x.id, level := 0, unit := g, path := path, accepted := true
           reg := { x.reg with m0 := 256 * r.1, m1 := Nat.min (tdM t.desc) (256 * r.1 + 256) } }

/-- An access of tile work that did not go on: it waits, faults with its child path, or consumes poison (R196, R197, R449). -/
def State.stopTile (s : State) (t : TileIns) (e : TileStop) : State :=
  match e.stop with
  | .wait s => s
  | .bad f => s.raiseRecord t.part (t.stopRec s.gtc e.src e.path e.above f)
  | .stale u => s.updMem fun m => m.countDrop u t.ctx
  | .poison pa =>
    let rolls := ((s.nodes.find? fun n => n.ctx == t.ctx && n.r.nodeid == t.node).map (·.rolls)).getD 0
    (s.logEvent 3 e.src (some t.ctag) rolls (BitVec.ofNat 64 pa) (t.node.setWidth 64)).rollback t.ctx t.node .poison

/-- The weight table of a cluster: that of the node its team runs (R438). -/
def State.clusterTable (s : State) (k : Nat) : Nat :=
  (((List.range 8).findSome? fun i => (s.core (8 * k + i)).job).map (·.eclass)).getD 0

/-- Charge a child of a sequencer to the cluster that it lies in (R429, R438): none while the bucket refuses it. Chiplets and the package
have no bucket. -/
def State.chargeChild (s : State) (x : TileNode) : Option State :=
  let k := if x.level = 2 then x.unit else clusterOf x.unit
  let w := sget 0 s.power.weights (32 * s.clusterTable k + 22)
  if x.parent.isNone || x.level == 0 || 3 ≤ x.level then some s
  else if (s.cluster k).bucket < w then none
  else some ((s.updCluster k fun u => { u with bucket := u.bucket - w }).chargeEnergy k 22 0 1)

/-- Whether the work of a core-level child is the matrix engine's: otherwise VX does it (R180). -/
def TileIns.onMx (t : TileIns) : Bool := isMatrix t.kind || t.kind == 6

/-- Number of a core-level child's command among those of its engine (R195). -/
def TileNode.seq (x : TileNode) : Nat := 2 ^ 40 + x.ord

/-- The engine whose queue a core-level child's command stands in. -/
def TileIns.engine (t : TileIns) : StreamId := if t.onMx then .mx else .vx

/-- First and last byte of `rows` rows of `n` bytes at stride `st`, where a core-level descriptor field names the core's own scratchpad. -/
def spSpan (c a rows st n : Nat) : List (Nat × Nat) :=
  if tileSp a && ownAddr c (a % 2 ^ 28) && decide (0 < rows) then [(a % 2 ^ 24, a % 2 ^ 24 + (rows - 1) * st + n - 1)] else []

/-- The scratchpad bytes that a core-level child reads and writes: its operands where they lie there, and for work from above the staging
window, the highest 256 KiB (R194, R195, R269). -/
def State.leafRanges (s : State) (t : TileIns) (core : Nat) : List (Nat × Nat) × List (Nat × Nat) :=
  if (s.core core).job.isNone then ([], [])
  else if 2 ≤ t.level then
    let size := spSize (s.core core).theJob
    ([], [(size - 0x40000, size - 1)])
  else if t.kind = 6 then (spSpan core (pf t.desc 0x18 8) 1 0 8200, [])
  else
    let (wa, wb, wd) := tdWidths t.kind t.desc
    let (na, nb, nd) := tdRowLens t.kind t.desc t.aux
    let (sa, sb, sd) := tdStrides t.kind t.desc t.aux
    let rowsA := if t.kind = 1 then pf t.aux 0x30 2 * pf t.aux 0x32 2 else tdM t.desc
    let rowsB := if isMatrix t.kind then tdK t.desc else tdM t.desc
    let rowsD := if t.kind = 4 then (if (tdK t.desc).testBit 8 then 1 else tdM t.desc) else if tdTr t.kind t.desc then tdN t.desc else tdM t.desc
    let d := spSpan core (pf t.desc 0x28 8) rowsD sd (ceilDiv (nd * wd) 8)
    (spSpan core (pf t.desc 0x18 8) rowsA sa (ceilDiv (na * wa) 8)
        ++ (if readsB t.kind t.desc then spSpan core (pf t.desc 0x20 8) rowsB sb (ceilDiv (nb * wb) 8) else [])
        ++ (if tdFlag t.desc 2 then d else []), d)

/-- Whether a core's range checker has no room for a child's command, which then stays out (R195, R269). -/
def State.leafFull (s : State) (t : TileIns) (x : TileNode) : Bool :=
  (s.core x.unit).rangeFull && !((s.leafRanges t x.unit).1.isEmpty && (s.leafRanges t x.unit).2.isEmpty)

/-- A core takes a child: its command enters the core's queue and range checker under the GTC of now; the first `mma` gets a stamp of the
sequencer's own (R195; log entry 100). -/
def State.acceptLeaf (s : State) (t : TileIns) (x : TileNode) : State :=
  let (rd, wr) := s.leafRanges t x.unit
  let x := { x with accepted := true, stamp := s.gtc, ord := s.tileOrd
                    mma := if isMatrix t.kind then some (s.gtc / 4 + Config.tileStamp s.free) else none }
  let s := { s.drawn with tileOrd := s.tileOrd + 1 }.updTile t.id fun t => t.setNode x
  if rd.isEmpty && wr.isEmpty then s
  else s.updCore x.unit fun k => { k with ranges := k.ranges ++ [{ stamp := x.stamp, engine := t.engine, seq := x.seq, reads := rd, writes := wr }] }

/-- TILE_CHILD_ACCEPT (R180, R190): a unit accepts a node and cuts it for its children; a core-level child is accepted whole. A child is
charged to its cluster when it is accepted, not while it waits. -/
def execTileChildAccept (tile node : Nat) (s : State) : Out :=
  match s.tile tile with
  | none => .next s
  | some t =>
    match t.find node with
    | none => .next s
    | some x =>
      let charged := s.chargeChild x
      let waits := t.kind == 7 || t.kind == 9
      if x.accepted || !s.tileRuns t.part x.level x.unit || charged.isNone then .next s
      else if !waits && (s.tileBehind t || s.startsBehind t x) then .next s
      else if x.parent.isNone && t.core.any fun c => s.storesAhead c t.ord then .next s
      else
        let up := match x.parent with
          | some p => ((t.find p).map (·.accepted)).getD false
          | none => true
        if !up || !x.reduces.isEmpty then .next s
        else
          let paid := charged.getD s
          let take := fun (y : TileNode) (kids : List TileNode) => paid.updTile tile fun t =>
            let t := t.setNode { y with accepted := true }
            { t with nodes := t.nodes ++ kids }
          if t.kind = 2 then
            match s.nmvSplit t x with
            | .ok kids => .next (take x kids)
            | .error e => .next (s.stopTile t e)
          else if waits then .next (take x [])
          else if x.level ≤ 1 then .next (if s.leafFull t x then s else paid.acceptLeaf t x)
          else
            let kids := s.tileSplit t x
            if kids.isEmpty then .next s
            else if x.level = 2 && isMatrix t.kind then
              match s.stageCluster t x with
              | .ok st => .next (take { x with staged := st } kids)
              | .error e => .next (s.stopTile t e)
            else .next (take x kids)

/-- TILE_REDUCTION_START (R191): every K part of the output region has written its partial. -/
def execTileReductionStart (tile node : Nat) (s : State) : Out :=
  match s.tile tile with
  | none => .next s
  | some t =>
    match t.find node with
    | none => .next s
    | some x =>
      if x.accepted || x.reduces.isEmpty || !s.tileRuns t.part x.level x.unit then .next s
      else if x.reduces.all fun i => ((t.find i).map (·.complete)).getD false then
        .next (s.updTile tile fun t => t.setNode { x with accepted := true })
      else .next s

/-! ## Starting on a core (R195, R208) -/

/-- The core-level children that one engine of a core has taken and not completed, with their instructions; `tbar` and `tsync` give no engine
work. -/
def State.leavesOf (s : State) (core : Nat) (mx : Bool) : List (TileIns × TileNode) :=
  s.tiles.flatMap fun t => if t.onMx != mx || t.kind == 7 || t.kind == 9 then [] else
    (t.nodes.filter fun x => x.level == 1 && x.unit == core && x.reduces.isEmpty && x.accepted && !x.complete).map fun x => (t, x)

/-- The one among them that starts next: the first taken, once no earlier one is at work. -/
def State.leafNext (s : State) (core : Nat) (mx : Bool) : Option (TileIns × TileNode) :=
  let l := s.leavesOf core mx
  if l.any fun p => p.2.started then none else l.find? fun p => l.all fun q => decide (p.2.ord ≤ q.2.ord)

/-- The GTC that the deadline edge of decomposed tile work does not precede (R208); none while its core's lateness check is suspended. -/
def State.leafDeadline (s : State) (t : TileIns) (x : TileNode) : Option Nat :=
  if (s.core x.unit).mx.ssus then none else x.mma.map fun n => 4 * (n + (s.ctx t.ctx).mxslack.toNat) + x.slip

/-- The tile command of an engine of a core that is next starts, once its stamp has come, the job's own matrix commands of earlier stamps have
started, and the range checker lets it; a deadline edge that passes first is the schedule miss of its `mma` (R195, R197, R208). -/
def State.startLeaf (s : State) (core : Nat) (mx : Bool) : State :=
  match s.leafNext core mx with
  | none => s
  | some (t, x) =>
    let edge := (s.cluster (clusterOf core)).divisor
    let past := (s.leafDeadline t x).any fun d => decide (d + edge ≤ s.gtc)
    if !s.tileRuns t.part 1 core then s
    else if !past && x.stamp < s.gtc && !(x.mma.any fun n => decide (s.gtc < 4 * n)) && (s.core core).rangeReady t.engine x.seq
        && !(mx && (s.core core).mx.queue.any fun c => decide (c.gtc ≤ x.stamp)) then
      s.updTile t.id fun t => t.setNode { x with started := true }
    else if (s.leafDeadline t x).any fun d => decide (d ≤ s.gtc) then
      s.stopTile t
        { stop := .bad { code := .scheduleMiss, det1 := BitVec.ofNat 64 (x.mma.getD 0), det2 := BitVec.ofNat 64 s.gtc }
          src := coreSource core 4, path := corePath x.path 0 15, above := t.above 4 x }
    else s

/-- Tile commands of the cores whose clusters have an edge now start (R195). -/
def State.startLeaves (s : State) (edge : Nat → Bool) : State :=
  let cores := ((s.tiles.flatMap fun t => t.nodes).filter fun x => x.level == 1 && x.accepted && !x.started && !x.complete).map (·.unit)
  (cores.eraseDups.filter fun c => edge (clusterOf c)).foldl (fun s c => (s.startLeaf c true).startLeaf c false) s

/-! ## Completion (R188, R191) -/

/-- The registers and the window that decomposed work uses on a core hold free values after it (R194). -/
def State.scribble (s : State) (core : Nat) (elements window : Bool) : State :=
  let b := s.free * 2 ^ 32
  let j := (s.core core).theJob
  let hi := if j.regsl = 2 then 14 else 6
  let ha := if j.regsl = 2 then 7 else 3
  let s := s.drawn
  s.updCore core fun k =>
    let k := if elements then
        { k with vec := foldUpTo 4 (fun m i => sset 0 m (28 + i) (BitVec.ofNat 2048 (packElems 2048 64 (fun l => (Config.freeWord (b + 32 * i + l)).toNat) 32).toNat)) k.vec }
      else
        { k with
          tile := (sreplace 0 k.tile (4096 * hi) ((List.range 8192).map fun i => Config.freeByte (b + 1000 + i)))
          acc := sreplace 0 k.acc (4096 * ha) ((List.range 4096).map fun i => (Config.freeWord (b + 10000 + i)).setWidth 32) }
    let line := fun (i : Nat) =>
      ({ full := true, data := packElems 1024 64 (fun l => (Config.freeWord (b + 20000 + 16 * i + l)).toNat) 16, poison := 0 } : SpLine)
    if window then { k with sp := foldUpTo 2048 (fun m i => sset {} m (spSize j / 128 - 2048 + i) (line i)) k.sp }
    else k

/-- The tile instruction completes (R188): its signature is published at its level's scope, its tag set, its task node retired. -/
def State.finishTile (s : State) (t : TileIns) : State :=
  let lines := t.pas.eraseDups
  let c := t.core.getD (8 * t.clusters.headD 0)
  let s := if lines.isEmpty then s else s.publishSig t.ctx c (t.level - 1) (sigOf lines)
  match t.core with
  | none => s.updTile t.id fun t => { t with done := true }
  | some c =>
    let s := s.dropLines c fun l => lines.any fun pa => lineOf pa == l.loc
    let s := { s with tiles := s.tiles.filter fun u => u.id != t.id }
    s.updCore c fun k =>
      let k := { k with tilesOut := k.tilesOut.filter fun i => i != t.id }
      if tdFlag t.desc 0 then k.setTag (pf t.desc 2 1) (t.level - 1) else k

/-- A node is complete; with the root, the instruction. -/
def State.nodeDone (s : State) (t : TileIns) (x : TileNode) (pas : List Nat) : State :=
  let s := s.updTile t.id fun t => { t.setNode { x with complete := true } with pas := t.pas ++ pas }
  if x.parent.isSome then s
  else
    match s.tile t.id with
    | some t => s.finishTile t
    | none => s

/-- The ordinal of the output tile at a row and column: tiles in row-major order; blocks of 256 rows of `tnmv` (R198). -/
def TileIns.ordinal (t : TileIns) (mb nb : Nat) : Nat :=
  if t.kind = 2 then mb / 256 else mb / 64 * ceilDiv (tdN t.desc) 64 + nb / 64

/-- Whether an image has recorded an output tile as complete: it is not made again (R198). -/
def TileIns.skips (t : TileIns) (mb nb : Nat) : Bool :=
  t.skip.any fun r => decide (r.1 ≤ t.ordinal mb nb ∧ t.ordinal mb nb ≤ r.2)

/-- What one step of a child has done: the state, the node, physical lines written, and whether the child is complete. -/
abbrev LeafStep := State × TileNode × List Nat × Bool

/-- The output tiles of a region that are still to be made when its child starts: those that no image records (R198). -/
def TileIns.todo (t : TileIns) (r : Region) : List TilePart := r.tiles.filter fun q => !t.skips q.mb q.nb

/-- A core-level child makes its next output tile (R182-R187, R190): a tile that faults leaves the earlier ones made. -/
def State.runLeaf (s : State) (t : TileIns) (x : TileNode) : TileAcc LeafStep :=
  let core := x.unit
  let staged : Bool := decide (2 ≤ t.level)
  let todo := t.todo x.reg
  let made := { x with made := x.made + 1 }
  let last := decide (todo.length ≤ x.made + 1)
  match t.kind with
  | 0 | 1 =>
    match todo[x.made]? with
    | none => pure (s, x, [], true)
    | some q => do
      let r ← s.tileSums t core x q
      let s := s.updCore core fun k => k.countTile r.2.1 r.2.2.1 r.2.2.2
      if x.part then pure (s.scribble core false staged, { made with sums := x.sums ++ [(q.mb, q.nb, r.1)] }, [], last)
      else do
        let (s, pas) ← s.tileOut t (coreBy t x core x.path 0 15) core q r.1
        pure (s.scribble core false staged, made, pas, last)
  | 3 | 5 =>
    match todo[x.made]? with
    | none => pure (s, x, [], true)
    | some q => do
      let tiles := todo.filter fun z => z.mb == q.mb
      let fresh := tiles.head?.any fun z => z.nb == q.nb
      let (draws, bank) :=
        if fresh then rowBlockDraws (Rnd.ofCode (fwDrnd (tdFmt t.desc))) tiles (s.core core).sr else (x.draws, (s.core core).sr)
      let (s, pas) ← s.mapTile t core x q tiles draws
      let s := s.updCore core fun k => { k with sr := bank }
      pure (s.scribble core true staged, { made with draws := draws }, pas, last)
  | 4 => do
    let lines ← s.redLeaf t core x
    pure (s.scribble core true staged, { x with lines := lines }, [], true)
  | _ =>
    if t.skips x.reg.m0 0 then pure (s, x, [], true)
    else do
      let bad ← s.katLeaf t x core
      pure ((if bad then s.silentError core else s), x, [], true)

/-- The sums of tile `q` over the K parts of a reduction child, in ascending part order (R191). Clamps and new NaNs of these sums are not
counted: R117 names the `mma`, the drain and the copy (log entry 96). -/
def TileIns.joined (t : TileIns) (x : TileNode) (q : TilePart) : List Nat :=
  let int := fwInt (tdFmt t.desc)
  let sums := (x.reduces.filterMap t.find).map fun p => ((p.sums.find? fun e => e.1 == q.mb && e.2.1 == q.nb).map (·.2.2)).getD []
  match sums with
  | [] => []
  | a :: l => l.foldl (fun acc b => if b.isEmpty then acc else (joinSums int acc b).1) a

/-- A reduction child combines the K parts of its next output tile, and drains it strip by strip on the lane clusters of the core that its
rows fall to (R191). -/
def State.runReduction (s : State) (t : TileIns) (x : TileNode) : TileAcc LeafStep :=
  let todo := t.todo x.reg
  if x.part then pure (s, { x with sums := todo.map fun q => (q.mb, q.nb, t.joined x q) }, [], true)
  else
    match todo[x.made]? with
    | none => pure (s, x, [], true)
    | some q => do
      let core := s.reduceCore t q.mb 5 x.level x.unit x.reg
      let rows := segments q.cols q.rows (t.joined x q)
      let (s, pas) ← (List.range 4).foldlM (fun (acc : State × List Nat) l =>
        match q.strip l with
        | none => pure acc
        | some z => do
          let (s, pas) ← acc.1.tileOut t (coreBy t x core (reducePath x core) 3 l) core z
            (rows.flatMap fun r => (r.drop (16 * l)).take z.cols)
          pure (s, acc.2 ++ pas)) (s, [])
      pure (s.scribble core true false, { x with made := x.made + 1 }, pas, decide (todo.length ≤ x.made + 1))

/-- What an inner node passes up: the sums of its children, reductions in place of the parts they combine, and their lines. -/
def TileIns.gather (t : TileIns) (x : TileNode) : TileNode :=
  let kids := t.nodes.filter fun y => y.parent == some x.id
  let red := kids.filter fun y => !y.reduces.isEmpty
  let covered := red.flatMap (·.reduces)
  let up := kids.filter fun y => !covered.contains y.id
  { x with sums := if x.part then up.flatMap (·.sums) else [], lines := combineLines (tdK t.desc % 256) (up.flatMap (·.lines)) }

/-- What a step of a child comes to: it is complete, it has more to make, or it did not go on. -/
def State.stepTile (s : State) (t : TileIns) (r : TileAcc LeafStep) : State :=
  match r with
  | .error e => s.stopTile t e
  | .ok (s, x, pas, true) => s.nodeDone t x pas
  | .ok (s, x, pas, false) => s.updTile t.id fun t => { t.setNode x with pas := t.pas ++ pas }

/-- The command of a core-level child leaves the range checker when it completes (R269). -/
def State.leafDone (s : State) (t : TileIns) (x : TileNode) : State := s.updCore x.unit fun k => k.rangeDone t.engine x.seq

/-- Tile instructions that end without completing leave, with their commands on every core. -/
def State.dropTiles (s : State) (p : TileIns → Bool) : State :=
  let gone := s.tiles.filter p
  let s := gone.foldl (fun (s : State) t =>
    (t.nodes.filter fun x => x.level == 1 && x.accepted && !x.complete).foldl (fun (s : State) x => s.leafDone t x) s) s
  { s with tiles := s.tiles.filter fun t => !p t }

/-- Whether a root may complete: its issuing core has received no pre-emption request, so its tag can be set (R198, R405). -/
def State.mayFinish (s : State) (t : TileIns) (x : TileNode) : Bool :=
  x.parent.isSome || match t.core with
    | some c => !s.unitPreempted t.part c
    | none => true

/-- The lines of a `tred` reach memory when its root has all its parts (R185). -/
def State.finishLines (s : State) (t : TileIns) (x : TileNode) : TileAcc LeafStep :=
  if t.kind = 4 ∧ x.parent.isNone then (s.redOut t (combineLines (tdK t.desc % 256) x.lines)).map fun r => (r.1, x, r.2, true)
  else .ok (s, x, [], true)

/-- TILE_CHILD_COMPLETE (R188, R190, R191, R195, R198): a core-level child, a reduction or a stack makes its next output tile, and is complete
with its last; a level is complete with all its children. Work stops at an output tile when its unit has received a pre-emption
request. -/
def execTileChildComplete (tile node : Nat) (s : State) : Out :=
  match s.tile tile with
  | none => .next s
  | some t =>
    match t.find node with
    | none => .next s
    | some x =>
      let (level, unit) := if x.level = 0 then (match x.parent.bind t.find with
        | some y => (y.level, y.unit)
        | none => (4, 0)) else (x.level, x.unit)
      if !x.accepted || x.complete || !s.tileRuns t.part level unit || !s.mayFinish t x then .next s
      else if t.kind = 7 ∨ t.kind = 9 then
        if t.waits.any fun i => s.tiles.any fun u => u.id == i then .next s else .next (s.nodeDone t x [])
      else if !x.reduces.isEmpty then
        if s.drawsBehind t then .next s else .next (s.stepTile t (s.runReduction t x))
      else if x.level = 0 then
        .next (s.stepTile t ((if t.skips x.reg.m0 0 then .ok (s, []) else s.nmvLeaf t x).map fun r => (r.1, x, r.2, true)))
      else if x.level = 1 then
        if !x.started || s.drawsBehind t then .next s
        else
          match s.runLeaf t x with
          | .ok (s', x, pas, true) =>
            match s'.finishLines t x with
            | .ok (s', x, pas', _) => .next (s.stepTile t (.ok (s'.leafDone t x, x, pas ++ pas', true)))
            | .error e => .next (s.stopTile t e)
          | r => .next (s.stepTile t r)
      else
        let kids := t.nodes.filter fun y => y.parent == some x.id
        if kids.isEmpty || !kids.all (·.complete) then .next s
        else .next (s.stepTile t (s.finishLines t (t.gather x)))

/-! ## Fabric level (R181) -/

/-- An answer leaves over a link, for the unit of the peer that asked (R181). -/
def State.linkAnswer (s : State) (link status : Nat) (bs : List Byte) : State :=
  { s with fw := { s.fw with answers := s.fw.answers ++ [(856 + link, status, bs)] } }

/-- FABRIC_TILE_PACKET (R181, R264): a descriptor and its auxiliary record arrive from a peer for the Crown; the template permission is
checked, a violation is answered, and a stale CTAG drops the packet. -/
def execFabricTilePacket (link : Nat) (ctag : W16) (desc aux : BitVec 512) (ret : Nat) (s : State) : Out :=
  let ctx := ctagCtx ctag
  if s.mem.staleAt (unitIngress link) ctag then .next (s.updMem fun m => m.countDrop (unitIngress link) ctx)
  else
    match s.mem.check unitCrown (856 + link) ctag 0 permT with
    | .pass => .next { s with fabTiles := s.fabTiles ++ [{ link := link, ctag := ctag, desc := desc, aux := aux, ret := ret }] }
    | .stale u => .next (s.updMem fun m => m.countDrop u ctx)
    | .denied u => .next ((s.countDenied (some u)).linkAnswer link 1 [])

/-- The registered queues that the Crown serves for a CTAG (R264). -/
def Queue.crownOf (u : Queue) (ctag : W16) : Bool := u.server == 2 && u.ctag == ctag

/-- Whether the Crown may start another entry of a CTAG's tile queue: it serves one at a time (R264). -/
def State.crownFree (s : State) (ctag : W16) : Bool :=
  !(s.tiles.any fun t => t.ctag == ctag && t.back.isSome) && !(s.queues.any fun q => q.2.crownOf ctag && q.2.busy)

/-- The Crown takes the oldest descriptor that peers have sent for a CTAG, through the tile queue of its context (R181, R264): it is
package-level work here, checked as R179 says; what fails faults the context. The peer's issuer has merged its base slot and keeps its
tag, so BASE and TAGV are no errors here. -/
def State.crownFabric (s : State) (ctag : W16) : State :=
  match s.fabTiles.find? fun f => f.ctag == ctag with
  | none => s
  | some f =>
    let ctx := ctagCtx ctag
    if s.mem.staleAt unitCrown ctag then { s with fabTiles := s.fabTiles.erase f }.updMem fun m => m.countDrop unitCrown ctx
    else if !(s.ctx ctx).res || !s.tileRuns (s.ctx ctx).part 4 0 || !s.crownFree ctag then s
    else
      let s := { s with fabTiles := s.fabTiles.erase f }
      let kind := pf f.desc 0 1
      let aux := pf f.desc 0x30 8
      let bad := if kind = 8 ∨ 9 < kind then some (tileInvalid 0)
        else ((descCheck kind 4 f.desc).or (if aux = 0 then none else auxCheck kind f.desc f.aux)).or (shapeCheck kind 4 f.desc f.aux)
      match bad with
        | some e => s.unitFault ctx (nodeSource 4 0) e
        | none =>
          let part := (s.ctx ctx).part
          let ins : TileIns :=
            { id := s.nextTile, core := none, ctx := ctx, ctag := ctag, part := part, slot := none, node := 0xFFFFFFFF, kind := kind, level := 4
              desc := f.desc, aux := f.aux, clusters := (s.part part).clusters, nodes := [rootNode kind 4 0 f.desc true], back := some (f.link, f.ret) }
          let busy := fun (q : Nat × Queue) => (q.1, if q.2.crownOf ctag then { q.2 with busy := true } else q.2)
          { s with tiles := s.tiles ++ [ins], nextTile := s.nextTile + 1, queues := s.queues.map busy }

/-- FABRIC_TILE_RETURN (R181, R188): the completion packet of a peer sets the issuer's tag, unless a `tbar` stands before the instruction;
or the peer's access tables have refused it, which faults the issuing context: which of the two is free. A completed instruction of a peer
leaves this device with its own packet, and its tile queue is free for the next entry. -/
def execFabricTileReturn (tile : Nat) (s : State) : Out :=
  match s.tile tile with
  | none => .next s
  | some t =>
    match t.remote, t.back with
    | some _, _ =>
      let c := t.core.getD 0
      if s.tileBehind t || !s.tileRuns t.part 1 c then .next s
      else if Config.choice s.free % 2 = 1 then
        let s := s.drawn
        let s := { s with tiles := s.tiles.filter fun u => u.id != tile }.updCore c fun k => { k with tilesOut := k.tilesOut.filter fun i => i != tile }
        .next (s.raiseRecord t.part (t.stopRec s.gtc (coreSource c t.strm.code) 0xFFFFFF [] (violation 0 c permT)))
      else .next (s.drawn.finishTile { t with level := 5 })
    | none, some (link, ret) =>
      if t.done then
        let free := fun (q : Nat × Queue) => (q.1, if q.2.crownOf t.ctag then { q.2 with busy := false } else q.2)
        .next ({ s with tiles := s.tiles.filter fun u => u.id != tile, queues := s.queues.map free }.linkAnswer link 0 (leBytes ret 8))
      else .next s
    | none, none => .next s

end Sys2Proof.Machine
end

