-- ==== Sys2Proof/Machine/Holds.lean ====
section
/-! DEFINITION. `fence` (R300) and the words that hold their streams (R188, R295). -/

namespace Sys2Proof.Machine

/-- Outstanding MX commands, `nmv` among them (R300). -/
def Mx.outstanding (x : Mx) : List Nat :=
  x.queue.map (·.seq) ++ (x.running.filter fun r => !r.landed).map (·.cmd.seq) ++ x.nmvs.map (·.seq)

/-- Outstanding VX words with scratchpad ranges. -/
def Core.vxOutstanding (k : Core) : List Nat :=
  (k.ranges.filter fun a => a.engine == .vx && !k.rangesDone.contains (a.engine, a.seq)).map (·.seq)

/-- Whether a word performs an atomic (R303, R304, R170). -/
def MemKind.atomic : MemKind → Bool
  | .amo _ _ _ _ | .cas _ _ _ | .scatterAdd _ _ _ => true
  | _ => false

/-- Memory words of a core that have issued and are not finished: frozen, held, or set aside by a trap. -/
def Core.openOps (k : Core) : List MemOp :=
  k.memq ++ ([StreamId.cl, .cc, .cs, .vx].filterMap fun e => (k.strm e).hold) ++ k.savedHold.toList ++ k.savedOps

/-- Outstanding atomics of a core, by issue order and scope: requests that have left it, and words whose requests have not yet (R300). -/
def State.atomicsOut (s : State) (c : Nat) : List (Nat × Nat) :=
  ((s.mem.reqs.filter fun r => r.master == c &&
    (match r.kind with
      | .atomic _ => true
      | _ => false)).map fun r => (r.ord, r.scope))
  ++ (((s.core c).openOps.filter fun o => o.kind.atomic && !o.sp).map fun o => (o.ord, o.scope))

/-- The word of a fence (R300): what it waits for, and the acquire at the widest scope among it. -/
def fenceOp (t : Tpl) (s : State) : MemOp :=
  let c := s.cur.core
  let k := s.curCore
  let pick := fun (i : Nat) (l : List Nat) => if bit t.mod i then l else []
  let vx := pick 0 k.vxOutstanding
  let mx := pick 1 k.mx.outstanding
  let cx := pick 2 (k.cx.queue.map (·.seq))
  let tile := pick 3 k.tilesOut
  let amo := if bit t.mod 4 then s.atomicsOut c else []
  let scopes := ((k.cx.queue.filter fun q => cx.contains q.seq).map fun q => q.completion.2.2)
    ++ ((s.tiles.filter fun u => tile.contains u.id).map fun u => u.level - 1) ++ amo.map (·.2)
  let scope := scopes.foldl Nat.max 0
  { holdOp s (.fence vx mx cx tile (amo.map (·.1)).eraseDups) 0 with acq := if scope = 0 then none else some scope, stage := 2 }

/-- Whether everything that a fence waits for has completed. -/
def State.fenceDone (s : State) (c : Nat) (vx mx cx tile amo : List Nat) : Bool :=
  let k := s.core c
  !(vx.any fun i => k.vxOutstanding.contains i) && !(mx.any fun i => k.mx.outstanding.contains i)
    && !(cx.any fun i => k.cx.queue.any fun q => q.seq == i) && !(tile.any fun i => k.tilesOut.contains i)
    && !((s.atomicsOut c).any fun a => amo.contains a.1)

/-- Issue a fence: one that waits for nothing completes at once (R300). -/
def fenceWord (t : Tpl) (s : State) : State :=
  let op := fenceOp t s
  match op.hold with
  | some (.fence vx mx cx tile amo) =>
    if s.fenceDone s.cur.core vx mx cx tile amo then s else s.updCurStrm fun st => { st with hold := some op }
  | _ => s

/-- FENCE (R300): it holds its context. -/
def execFence (t : Tpl) (s : State) : Out := issue 0x094 t (fenceWord t) s

/-- FENCE_CX (R300): it holds the start of every later CX operation. -/
def execFenceCx (t : Tpl) (s : State) : Out := issue 0x318 t (fenceWord t) s

/-- A holding word other than a system instruction goes as far as it can in one step (R188, R295, R300, R305). -/
def State.advanceHold (s : State) (c : Nat) (op : MemOp) : State × MemOp :=
  if op.stage < 2 then s.advanceOp c op
  else
    match op.hold with
    | some (.barrier carve arrived gen) => s.advanceBarrier c op carve arrived gen
    | some (.fence vx mx cx tile amo) => if s.fenceDone c vx mx cx tile amo then s.finishOp c op else (s, op)
    | some (.tiles ids) => if ids.any fun i => s.tiles.any fun u => u.id == i then (s, op) else s.finishOp c op
    | some (.system _ _ _ _ _ _ _) => (s, op)
    | _ => s.advanceOp c op

end Sys2Proof.Machine
end

