-- ==== Sys2Proof/Machine/Fetch.lean ====
section
/-! DEFINITION. Fetching instruction words (R33, R259, R334, R449) and the three words that a stream would issue next (R63). -/

namespace Sys2Proof.Machine

/-- What fetching one word gives. -/
inductive Fetched where
  | ok (w : W32)
  /-- The translation is not there yet; the state has its walk. -/
  | wait (s : State)
  | bad (f : FaultInfo)
  | poison (pa : Nat)
  | stale (unit : Nat)
  deriving Repr

/-- Fetch the word at `va` for stream `e` of core `c`: as a job of the core reads it, with execute permission. -/
def State.fetchWord (s : State) (c : Nat) (e : StreamId) (va : W64) : Fetched :=
  if va.toNat % 4 != 0 then .bad { code := .fetchAlignment, addr := va }
  else
    let p := s.engineParty c e
    match s.reach p va permX with
    | .error (.wait s) => .wait s
    | .error (.bad f) => .bad f
    | .error (.stale u) => .stale u
    | .error (.poison pa) => .poison pa
    | .ok pa =>
      let l := s.engineLine p pa
      if poisonHit l.2 pa 4 then .poison pa
      else
        let w := BitVec.ofNat 32 (lineBytesAt l.1 pa 4)
        match sfind (((s.core c).strm e).fetchBuf) va.toNat with
        | some old => .ok (if old ≠ w ∧ Config.choice s.free % 2 = 1 then old else w)
        | none => .ok w

/-- The word that a stream would find at an address, if it can be seen now. -/
def State.peekWord (s : State) (c : Nat) (e : StreamId) (va : W64) : Option W32 :=
  match s.fetchWord c e va with
  | .ok w => some w
  | _ => none

/-- Words of the form at an address (R78); one where it cannot be seen. -/
def State.formWords (s : State) (c : Nat) (e : StreamId) (va : W64) : Nat :=
  ((s.peekWord c e va).map wordsOf).getD 1

/-- The next `n` words or forms that a control stream would issue, with their N bits (R60, R63). -/
def State.nextWords (s : State) (c : Nat) (e : StreamId) : Nat → W64 → List (W64 × Bool) → List (Nat × W64) → Nat → List W64
  | 0, _, _, _, _ => []
  | n + 1, pc, resume, reds, annul =>
    let pc := ((resume.head?).map (·.1)).getD pc
    let ann := annul != 0 || ((resume.head?).map (·.2)).getD false
    let next := pc + BitVec.ofNat 64 (4 * s.formWords c e pc)
    let (reds, next) := countRedirects reds next
    setBit (pc &&& ~~~ 3) 0 ann :: s.nextWords c e n next (resume.drop 1) reds (annul - 1)

/-- EPC0 to EPC2 of a control stream (R63). -/
def State.epcsOf (s : State) (c : Nat) (e : StreamId) : List W64 :=
  let st := (s.core c).strm e
  if st.started then s.nextWords c e 3 st.pc st.resume st.redirects st.annul else [0, 0, 0]

end Sys2Proof.Machine
end

