-- ==== Sys2Proof/Machine/Image.lean ====
section
/-! DEFINITION. Core and stream records (R416-R418), which are also trap frames (R328): the bytes a core writes, and the core that
bytes give. Where R416 leaves bytes of the Queues area unnamed, the model keeps there what the commands need besides. -/

namespace Sys2Proof.Machine

/-! ## Pieces -/

/-- A field of a record: offset, size in bytes, value. -/
abbrev Piece := Nat × Nat × Nat

/-- The bytes of a record of `n` bytes from position `pos`; its pieces stand in rising order, and bytes between them are zero. -/
def emitFrom (n pos : Nat) : List Piece → List Byte
  | [] => List.replicate (n - pos) 0
  | (off, size, v) :: fs => List.replicate (off - pos) 0 ++ leBytes v size ++ emitFrom n (off + size) fs

/-- The bytes of a record. -/
def emit (n : Nat) (fs : List Piece) : List Byte := emitFrom n 0 fs

/-- Pieces moved up by `b`. -/
def shiftPieces (b : Nat) (fs : List Piece) : List Piece := fs.map fun f => (b + f.1, f.2)

/-- Values of one size, one after another. -/
def pieceRow (off size : Nat) (vs : List Nat) : List Piece := vs.zipIdx.map fun p => (off + size * p.2, size, p.1)

/-- What stands at an offset of a record that has been read: offset, size. -/
abbrev Reader := Nat → Nat → Nat

/-- A reader of bytes. -/
def readerOf (b : Array Byte) : Reader := fun off n => leNat ((List.range n).map fun i => b.getD (off + i) 0)

/-- A reader of the part of a record from `base` on. -/
def Reader.at (r : Reader) (base : Nat) : Reader := fun off n => r (base + off) n

/-- A bit of a byte of a record. -/
def Reader.flag (r : Reader) (off i : Nat) : Bool := (r off 1).testBit i

/-- `n` values of one size. -/
def Reader.row (r : Reader) (off size n : Nat) : List Nat := (List.range n).map fun i => r (off + size * i) size

/-- The sparse table of a dense list. -/
def sparseOf {β : Type} [DecidableEq β] (d : β) (l : List β) : Sparse β := sreplace d [] 0 l

/-- Bits of flags, bit `i` set when the `i`-th holds. -/
def flagBits (l : List Bool) : Nat := natOfBits (fun i => l.getD i false) l.length

/-! ## Stream records (R418) -/

/-- The pieces of a stream record. `epcs`: EPC0 to EPC2, or the next word of an engine. -/
def Stream.record (st : Stream) (epcs : List W64) : List Piece :=
  let red : Nat → Nat × W64 := fun i => st.redirects.getD i (0, 0)
  pieceRow 0x000 8 ((sdense 0 st.s 0 64).map BitVec.toNat)
  ++ pieceRow 0x200 8 ((BitVec.allOnes 64 :: sdense 0 st.p 1 15).map BitVec.toNat)
  ++ pieceRow 0x280 8 ((List.range 3).map fun (i : Nat) => (epcs.getD i (0 : W64)).toNat)
  ++ pieceRow 0x298 8 [st.lnk.toNat, st.tcmp.toNat, st.warn.toNat]
  ++ pieceRow 0x2B0 1 [st.rvb.toNat, st.rpb.toNat,
      flagBits [st.started, st.ended, st.armed, st.ckptAt.isSome, st.stage.isSome],
      Nat.min 2 st.redirects.length + 4 * Nat.min 3 st.annul]
  ++ pieceRow 0x2B4 2 [st.ckptAt.getD 0, (st.stage.map (·.1)).getD 0]
  ++ [(0x2B8, 8, (red 0).2.toNat), (0x2C0, 8, (red 0).1 + 256 * st.rot.getD 0 0),
      (0x2C8, 8, (red 1).2.toNat), (0x2D0, 8, (red 1).1 + 256 * st.rot.getD 1 0),
      (0x2D8, 16, ((st.stage.map fun (p : Nat × W128) => p.2).getD 0).toNat)]
  ++ pieceRow 0x2E8 8 ((List.range 2).flatMap fun (i : Nat) =>
      match st.reps[i]? with
      | some r => [r.start.toNat, r.last.toNat, r.left.toNat]
      | none => ([0, 0, 0] : List Nat))
  ++ pieceRow 0x400 64 ((sdense 0 st.slots 0 16).map BitVec.toNat)
  ++ pieceRow 0x800 16 ((sdense 0 st.table 0 64).map BitVec.toNat)

/-- The words that resume a control stream: the address and N bit of each EPC (R63, R64). -/
def resumeOf (epcs : List W64) : List (W64 × Bool) := epcs.map fun w => (w &&& ~~~ 3, bit w 0)

/-- The stream that a record gives. A control stream resumes at its EPCs, which already hold its redirects and its annul count
(R63, R64). -/
def Stream.ofRecord (r : Reader) (e : StreamId) (fetching : Bool) : Stream :=
  let resume := if e.isControl && r.flag 0x2B2 0 then resumeOf ((r.row 0x280 8 3).map (BitVec.ofNat 64)) else []
  { started := r.flag 0x2B2 0
    fetching := fetching
    ended := r.flag 0x2B2 1
    pc := if e.isControl then (resume.map (·.1)).headD 0 else BitVec.ofNat 64 (r 0x280 8) &&& ~~~ 3
    s := sparseOf 0 (0 :: (r.row 8 8 63).map (BitVec.ofNat 64))
    p := sparseOf 0 (0 :: (r.row 0x208 8 15).map (BitVec.ofNat 64))
    lnk := BitVec.ofNat 64 (r 0x298 8)
    rvb := BitVec.ofNat 5 (r 0x2B0 1)
    rpb := BitVec.ofNat 3 (r 0x2B1 1)
    warn := BitVec.ofNat 64 (r 0x2A8 8 % 2 ^ 23)
    table := sparseOf 0 ((r.row 0x800 16 64).map (BitVec.ofNat 128))
    stage := if r.flag 0x2B2 4 then some (r 0x2B6 2 % 64, BitVec.ofNat 128 (r 0x2D8 16)) else none
    rot := [r 0x2C1 1, r 0x2D1 1].filter (· != 0)
    resume := resume
    reps := ((List.range 2).map fun i => ({ start := BitVec.ofNat 64 (r (0x2E8 + 24 * i) 8)
                                            last := BitVec.ofNat 64 (r (0x2F0 + 24 * i) 8)
                                            left := BitVec.ofNat 64 (r (0x2F8 + 24 * i) 8) } : Rep)).filter fun p => p.left != 0
    slots := sparseOf 0 ((r.row 0x400 64 16).map (BitVec.ofNat 512))
    epc0 := BitVec.ofNat 64 (r 0x280 8)
    epc1 := BitVec.ofNat 64 (r 0x288 8)
    epc2 := BitVec.ofNat 64 (r 0x290 8)
    tcmp := BitVec.ofNat 64 (r 0x2A0 8)
    armed := r.flag 0x2B2 2 }

/-! ## Pending results and replays (R62) -/

/-- Kind, register and value pieces of a pending result; a slice result takes one entry for each 64 bytes it writes. -/
def Pend.parts (p : Pend) : List (Nat × Nat × Nat × List Piece) :=
  let w := [(0x40, 8, p.val.toWord.toNat)]
  match p.dst with
  | .scalar _ n => [(0, n, 0, w)]
  | .pred _ n => [(1, n, 0, w)]
  | .vec n => [(2, n, 0, pieceRow 0x40 4 ((List.range 64).map fun i => elem p.val.toVec 32 i))]
  | .lnk _ => [(3, 0, 0, w)]
  | .rvb _ => [(4, 0, 0, w)]
  | .rpb _ => [(5, 0, 0, w)]
  | .fmask =>
    match p.val with
    | .orBits _ => [(6, 0, 0, w)]
    | _ => [(7, 0, 0, w)]
  | .wid => [(8, 0, 0, w)]
  | .count set kind => [(9, 3 * set + kind, 0, w)]
  | .tile z => (segments 64 (ceilDiv p.val.toBytes.length 64) p.val.toBytes).map fun l =>
      (10, z, l.length, pieceRow 0x40 4 (l.map fun b => b.1 + b.2.1.toNat * 2 ^ 16 + b.2.2.toNat * 2 ^ 24))
  | .accum a => (segments 64 (ceilDiv p.val.toBytes.length 64) p.val.toBytes).map fun l =>
      (11, a, l.length, pieceRow 0x40 4 (l.map fun b => b.1 + b.2.1.toNat * 2 ^ 16 + b.2.2.toNat * 2 ^ 24))
  | .tileAll _ | .accAll _ => []

/-- The entries of a pending result: 320 bytes each, the cycles it has left counted from `now`. -/
def Pend.entries (p : Pend) (now : Nat) : List (List Piece) :=
  p.parts.map fun q => pieceRow 0 1 [p.strm.code, q.2.1] ++ [(2, 2, p.due + 1 - now)] ++ pieceRow 4 1 [q.1, q.2.2.1] ++ q.2.2.2

/-- The kind of a frozen word in its replay entry. -/
def MemKind.replayCode : MemKind → Nat
  | .load false => 0 | .load true => 1 | .vload _ => 2 | .gather _ _ => 3 | .store => 4 | .scatterAdd _ _ _ => 5
  | .tile _ _ _ => 7
  | _ => 6

/-- The register a replay lands in: its number, or its code where it is a special register (R50). -/
def MemOp.replayReg (op : MemOp) : Nat :=
  match op.dst with
  | some (.scalar _ n) => n
  | some (.pred _ n) => n
  | some (.vec n) => n
  | some (.rvb _) => 176
  | some (.rpb _) => 177
  | some (.lnk _) => 178
  | some .fmask => 179
  | _ => 0

/-- The register that a replay or a held word of stream `e` lands in, by that number. -/
def replayDst (e : StreamId) (n : Nat) : Dst :=
  match n with
  | 176 => .rvb e | 177 => .rpb e | 178 => .lnk e | 179 => .fmask
  | n => .scalar e n

/-- Rounding codes as CTL.RND has them. -/
def Rnd.toCode : Rnd → Nat
  | .rne => 0 | .rtz => 1 | .rup => 2 | .rdn => 3 | .sr => 4

/-- The replay entries of a frozen word (R62): the word with its address and size and what its inactive lanes hold, then its lanes,
sixteen to an entry. `saved`: it was set aside by a trap. -/
def MemOp.entries (op : MemOp) (now : Nat) (saved : Bool) : List (List Piece) :=
  let l0 := op.lanes.headD { lane := 0, va := 0, size := 0, data := 0 }
  let (old, aux) := match op.kind with
    | .vload v => (v, 0)
    | .gather v fm => (v, fm.toNat)
    | .scatterAdd ty rnd sat => (0, ty + 8 * Rnd.toCode rnd + (if sat then 64 else 0))
    | .tile kind code opb => (opb.setWidth 2048, kind + 16 * code)
    | .store => (0, if op.lanes.length = 1 then l0.data else 0)
    | _ => (0, 0)
  let head := pieceRow 0 1 [op.strm.code, op.replayReg] ++ [(2, 2, op.due + 1 - now)]
    ++ pieceRow 4 1 [if saved then 20 else 12, op.kind.replayCode, flagBits [op.sp, op.dst.isSome], op.lanes.length]
    ++ pieceRow 8 8 [l0.va, op.lanes.length * l0.size, aux, op.ord, op.pc.toNat]
    ++ pieceRow 0x40 4 ((List.range 64).map fun i => elem old 32 i)
  head :: (segments 16 (ceilDiv op.lanes.length 16) op.lanes).map fun ls =>
    [(4, 1, 13)] ++ ls.zipIdx.flatMap fun p =>
      [(0x40 + 16 * p.2, 8, p.1.va), (0x48 + 16 * p.2, 4, p.1.data), (0x4C + 16 * p.2, 1, p.1.lane), (0x4D + 16 * p.2, 1, p.1.size)]

/-- A held word of a control context as an entry: what it waits for, by place among the saved commands (R295). `saved`: it was set
aside by a trap. -/
def MemOp.holdEntry (op : MemOp) (x : Core) (saved : Bool) : List Piece :=
  let places := fun (have_ ids : List Nat) => natOfBits (fun i => ids.contains (have_.getD i (2 ^ 64))) have_.length
  let mx := fun ids => places (x.mx.queue.map (·.seq)) ids + 2 ^ 16 * places (x.mx.nmvs.map (·.seq)) ids
  let head := fun k => pieceRow 0 1 [op.strm.code, op.replayReg] ++ [(4, 1, if saved then k + 8 else k), (6, 1, flagBits [false, op.dst.isSome])]
    ++ pieceRow 8 8 [(op.acq.map (· + 1)).getD 0, op.pc.toNat]
  match op.hold with
  | some (.barrier carve arrived gen) =>
    head 14 ++ pieceRow 0x40 8 [(carve.map (·.toNat + 1)).getD 0, if arrived then 1 else 0, gen]
  | some (.fence _ m c t _) =>
    head 15 ++ pieceRow 0x40 8 [mx m, places (x.cx.queue.map (·.seq)) c, places x.tilesOut t]
  | some (.tiles ids) => head 16 ++ pieceRow 0x40 8 [places x.tilesOut ids]
  | some (.system opc mod a b c step aux) =>
    head 17 ++ pieceRow 0x40 8 ([opc, mod, a.toNat, b.toNat, c.toNat, step, aux.length] ++ aux.take 24)
  | _ => head 18

/-- A pending result read back; `now`: the cycle count that its cycles are counted from. -/
def Pend.ofEntry (r : Reader) (now ord : Nat) : Option Pend :=
  match StreamId.ofCode? (r 0 1) with
  | none => none
  | some e =>
    let n := r 1 1
    let w := BitVec.ofNat 64 (r 0x40 8)
    let bytes := Val.bytes ((r.row 0x40 4 (r 5 1)).map fun v =>
      (v % 2 ^ 16, BitVec.ofNat 8 (v / 2 ^ 16), BitVec.ofNat 8 (v / 2 ^ 24)))
    let mk := fun (d : Dst) (v : Val) => some ({ strm := e, ord := ord, dst := d, due := now + r 2 2 - 1, val := v } : Pend)
    match r 4 1 with
    | 0 => mk (.scalar e n) (.word w)
    | 1 => mk (.pred e n) (.word w)
    | 2 => mk (.vec n) (.vector (vecOf fun i => r (0x40 + 4 * i) 4))
    | 3 => mk (.lnk e) (.word w)
    | 4 => mk (.rvb e) (.word w)
    | 5 => mk (.rpb e) (.word w)
    | 6 => mk .fmask (.orBits w)
    | 7 => mk .fmask (.word w)
    | 8 => mk .wid (.word w)
    | 9 => mk (.count (n / 3) (n % 3)) (.word w)
    | 10 => mk (.tile n) bytes
    | 11 => mk (.accum n) bytes
    | _ => none

/-- A replayed word read back from its entry and the lane entries after it. -/
def MemOp.ofEntry (r : Reader) (now : Nat) (lanes : List Reader) : Option MemOp :=
  match StreamId.ofCode? (r 0 1) with
  | none => none
  | some e =>
    let old := vecOf fun i => r (0x40 + 4 * i) 4
    let aux := r 0x18 8
    let kind : MemKind := match r 5 1 with
      | 0 => .load false
      | 1 => .load true
      | 2 => .vload old
      | 3 => .gather old (BitVec.ofNat 64 aux)
      | 4 => .store
      | 7 => .tile (aux % 16) (aux / 16 % 8) (BitVec.ofNat 64 (r 0x40 8))
      | _ => .scatterAdd (aux % 8) (Rnd.ofCode (aux / 8 % 8)) (aux.testBit 6)
    let n := r 7 1
    let wide := fun (l : Lane) => if r 5 1 = 4 ∧ n = 1 then { l with data := aux } else l
    let ls := (lanes.flatMap fun q => (List.range 16).map fun i =>
      ({ lane := q (0x4C + 16 * i) 1, va := q (0x40 + 16 * i) 8, size := q (0x4D + 16 * i) 1, data := q (0x48 + 16 * i) 4 } : Lane)).take n
    let ls := ls.map wide
    let dst : Option Dst := if !r.flag 6 1 then none else if e = .vx ∧ 2 ≤ r 5 1 then some (.vec (r 1 1)) else some (replayDst e (r 1 1))
    some { strm := e, ord := r 0x20 8, pc := BitVec.ofNat 64 (r 0x28 8), kind := kind, sp := r.flag 6 0, lanes := ls, dst := dst
           due := now + r 2 2 - 1, stage := 2 }

/-- A held word read back: `x` is the core with its commands restored. -/
def MemOp.ofHold (r : Reader) (x : Core) : Option MemOp :=
  match StreamId.ofCode? (r 0 1) with
  | none => none
  | some e =>
    let pick := fun (l : List Nat) (m : Nat) => (l.zipIdx.filter fun p => m.testBit p.2).map (·.1)
    let w := fun i => r (0x40 + 8 * i) 8
    let kind : HoldKind := match if 22 ≤ r 4 1 then r 4 1 - 8 else r 4 1 with
      | 14 => .barrier (if w 0 = 0 then none else some (BitVec.ofNat 64 (w 0 - 1))) (w 1 == 1) (w 2)
      | 15 => .fence [] (pick [0, 1, 2, 3] (w 0 / 2 ^ 16) ++ pick ((List.range 16).map (4 + ·)) (w 0)) (pick ((List.range 16).map (8 + ·)) (w 1))
          (pick x.tilesOut (w 2)) []
      | 16 => .tiles (pick x.tilesOut (w 0))
      | 17 => .system (w 0) (w 1) (BitVec.ofNat 64 (w 2)) (BitVec.ofNat 64 (w 3)) (BitVec.ofNat 64 (w 4)) (w 5)
          ((List.range (w 6)).map fun i => w (7 + i))
      | _ => .mem
    some { strm := e, ord := x.issueOrd, pc := BitVec.ofNat 64 (r 0x10 8), kind := .none
           dst := if r.flag 6 1 then some (replayDst e (r 1 1)) else none
           acq := if r 8 8 = 0 then none else some (r 8 8 - 1), hold := some kind, stage := 2 }

/-- What the pending entries of a record give. -/
structure Entries where
  pends : List Pend := []
  replays : List MemOp := []
  holds : List MemOp := []
  /-- Words that a trap had set aside. -/
  savedOps : List MemOp := []
  savedHolds : List MemOp := []

/-- Entries read back in order, from entry `i` on. -/
def readEntries (r : Reader) (now ord : Nat) (x : Core) : Nat → Nat → Entries
  | 0, _ => {}
  | n + 1, i =>
    let q := r.at (320 * i)
    let rest := readEntries r now ord x n (i + 1)
    let kind := q 4 1
    if kind = 12 ∨ kind = 20 then
      match MemOp.ofEntry q now ((List.range (ceilDiv (q 7 1) 16)).map fun j => r.at (320 * (i + 1 + j))) with
      | some op => if kind = 12 then { rest with replays := op :: rest.replays } else { rest with savedOps := op :: rest.savedOps }
      | none => rest
    else if 14 ≤ kind ∧ kind ≤ 18 ∨ 22 ≤ kind ∧ kind ≤ 26 then
      match MemOp.ofHold q x with
      | some op => if kind ≤ 18 then { rest with holds := op :: rest.holds } else { rest with savedHolds := op :: rest.savedHolds }
      | none => rest
    else
      match Pend.ofEntry q now (ord + i) with
      | some p => { rest with pends := p :: rest.pends }
      | none => rest

/-! ## Queues (R416) -/

/-- Fields of a copy command: the 64 bytes at its entry, its kind code, and one further word. -/
def CopyKind.fields : CopyKind → Nat × Nat × Nat
  | .copy p ov => (p.toNat, if ov then 1 else 0, 0)
  | .post p hdr _ => (p.toNat, 2, hdr.toNat)
  | .fe fill off n => (off + n * 2 ^ 32, if fill then 4 else 3, 0)
  | .lbset k rec_ => (rec_.toNat, 5 + k * 2 ^ 32, 0)
  | .advance k n tag tv => (n, 6 + k * 2 ^ 32, tag + (if tv then 256 else 0))
  | .halo dir lines dst src bar tag bv tv =>
    (dir + lines * 2 ^ 32 + dst * 2 ^ 64 + src * 2 ^ 96 + bar * 2 ^ 128 + tag * 2 ^ 136, 7, (if bv then 1 else 0) + (if tv then 2 else 0))

/-- What the "bytes done" field of a copy command holds: of a queue post, its claimed index (R261; log entry 48). -/
def CopyCmd.doneField (q : CopyCmd) : Nat :=
  match q.kind with
  | .post _ _ i => i
  | _ => q.done

/-- Whether a queue post has been written. -/
def CopyCmd.posted (q : CopyCmd) : Bool :=
  match q.kind with
  | .post _ _ _ => q.done != 0
  | _ => false

/-- The copy command of such fields; `done`: its "bytes done" field. -/
def CopyKind.ofFields (p flags aux done : Nat) : CopyKind :=
  let hi := nbits flags 32 32
  match flags % 16 with
  | 0 => .copy (BitVec.ofNat 512 p) false
  | 1 => .copy (BitVec.ofNat 512 p) true
  | 2 => .post (BitVec.ofNat 512 p) (BitVec.ofNat 64 aux) done
  | 3 => .fe false (nbits p 0 32) (nbits p 32 32)
  | 4 => .fe true (nbits p 0 32) (nbits p 32 32)
  | 5 => .lbset hi (BitVec.ofNat 512 p)
  | 6 => .advance hi (nbits p 0 32) (aux % 256) (aux.testBit 8)
  | _ => .halo (nbits p 0 32) (nbits p 32 32) (nbits p 64 32) (nbits p 96 32) (nbits p 128 8) (nbits p 136 8) (aux.testBit 0) (aux.testBit 1)

/-- Output tiles that a node has made, by ordinal (R198): those a core-level child or a reduction has drained, a block of `tnmv`, a run of
`tkat`. A `tred` writes its output only when it completes. -/
def TileIns.madeBy (t : TileIns) (x : TileNode) : List Nat :=
  match t.kind with
  | 2 => if x.level = 0 ∧ x.complete then [t.ordinal x.reg.m0 0] else []
  | 4 => []
  | 6 => if x.level = 1 ∧ x.complete then [x.reg.m0] else []
  | _ => if x.part then [] else ((t.todo x.reg).take x.made).map fun q => t.ordinal q.mb q.nb

/-- Runs of consecutive numbers of a rising list, first and last. -/
def runsOf : List Nat → List (Nat × Nat)
  | [] => []
  | n :: l =>
    match runsOf l with
    | (a, b) :: rs => if n + 1 = a then (n, b) :: rs else (n, n) :: (a, b) :: rs
    | [] => [(n, n)]

/-- The numbers below `n` that a list holds, in rising order. -/
def sortBelow (n : Nat) (l : List Nat) : List Nat := (List.range n).filter fun i => l.contains i

/-- The completed output tiles of a tile instruction, by ordinal. -/
def TileIns.doneTiles (t : TileIns) : List Nat :=
  t.nodes.flatMap t.madeBy ++ t.skip.flatMap fun r => (List.range (r.2 + 1 - r.1)).map (r.1 + ·)

/-- They as up to 15 ranges (R198, R416). -/
def TileIns.completed (t : TileIns) : List (Nat × Nat) :=
  (runsOf (sortBelow (t.doneTiles.foldl Nat.max 0 + 1) t.doneTiles)).take 15

/-- A 256-byte tile record: descriptor, AUX, completed ranges, then stream, kind, level, whether it is there, and the device it
runs on. -/
def TileIns.record (t : TileIns) : List Piece :=
  [(0, 64, t.desc.toNat), (0x40, 64, t.aux.toNat)]
  ++ (t.completed.zipIdx.flatMap fun r => pieceRow (0x80 + 8 * r.2) 4 [r.1.1 + 1, r.1.2 + 1])
  ++ pieceRow 0xF8 1 [t.strm.code, t.kind, t.level, 1] ++ [(0xFC, 2, (t.remote.map (· + 1)).getD 0)]

/-- The ranges of a tile record. -/
def tileRanges (r : Reader) : List (Nat × Nat) :=
  ((List.range 15).map fun i => (r (0x80 + 8 * i) 4, r (0x84 + 8 * i) 4)).filterMap fun p =>
    if p.1 = 0 then none else some (p.1 - 1, p.2 - 1)

/-- A near-memory product as the command that issues it again: `c` with its completed blocks. -/
def Nmv.blocks (n : Nmv) : Nat := natOfBits (fun i => n.done.contains i) 256

/-- Half-words of the barrier arms: barrier, tag, and the generation. -/
def armWord (a : Nat × Nat × Nat) : Nat := a.2.1 % 65536 + a.2.2 % 64 * 65536 + a.1 % 16 * 2 ^ 24 + 2 ^ 31

/-- Where MX command `i` lies in the Queues area: its entry of R416, and its operands. Pairs that have been discarded (R229) may stand before
sixteen queued commands: the commands beyond the sixteenth lie behind all else (log entry 48). -/
def mxPlace (i : Nat) : Nat × Nat := if i < 16 then (0x2C0 + 32 * i, 0x1640 + 40 * i) else (0x1A80 + 80 * (i - 16), 0x1AA0 + 80 * (i - 16))

/-- Where word `i` of the format queue lies, in the same way. -/
def fmtPlace (i : Nat) : Nat := if i < 16 then 0x240 + 8 * i else 0x1AC8 + 80 * (i - 16)

/-- The pieces of the Queues area of core `k`; `tiles` are its outstanding tile instructions. -/
def Core.queueRecord (k : Core) (tiles : List TileIns) : List Piece :=
  let x := k.mx
  pieceRow 0 8 (k.ring0.q.map BitVec.toNat) ++ pieceRow 0x100 8 (k.ring1.q.map BitVec.toNat)
  ++ pieceRow 0x200 1 [k.ring0.q.length, k.ring1.q.length, k.fmtq.length, x.queue.length, k.cx.queue.length]
  ++ (k.fmtq.zipIdx.map fun w => (fmtPlace w.2, 8, w.1.toNat))
  ++ (x.queue.zipIdx.flatMap fun p =>
      shiftPieces (mxPlace p.2).1
        [(0, 16, (packTpl p.1.o p.1.t).toNat), (0x10, 8, p.1.stamp.getD 0),
         (0x18, 4, flagBits [p.1.susp, p.1.stamp.isSome]), (0x1C, 4, p.1.phase)])
  ++ (k.cx.queue.zipIdx.flatMap fun p =>
      let f := p.1.kind.fields
      [(0x500 + 80 * p.2, 64, f.1), (0x540 + 80 * p.2, 8, p.1.doneField),
       (0x548 + 80 * p.2, 8, f.2.1 + flagBits [p.1.started, p.1.complete, p.1.posted] * 16)])
  ++ (tiles.zipIdx.flatMap fun p => shiftPieces (0xA00 + 256 * p.2) p.1.record)
  ++ (x.nmvs.zipIdx.flatMap fun p =>
      shiftPieces (0x1200 + 128 * p.2)
        ([(0, 16, (packTpl p.1.cmd.o p.1.cmd.t).toNat)] ++ pieceRow 0x10 8 [p.1.cmd.opa.toNat, p.1.cmd.opb.toNat, p.1.cmd.opc.toNat, p.1.pc.toNat, 1]
          ++ [(0x60, 32, p.1.blocks)]))
  ++ (k.cx.lbs.flatMap fun b => shiftPieces (0x1400 + 128 * (b.1 % 4))
      [(0, 64, b.2.record.toNat), (0x40, 8, narrow 64 b.2.top), (0x48, 1, flagBits [b.2.held, true])])
  ++ pieceRow 0x1600 4 ((k.cx.arms.take 16).map armWord)
  ++ (x.queue.zipIdx.flatMap fun p => pieceRow (mxPlace p.2).2 8 [p.1.opa.toNat, p.1.opb.toNat, p.1.opc.toNat, p.1.pc.toNat, p.1.gtc])
  ++ (k.cx.queue.zipIdx.flatMap fun p => pieceRow (0x18C0 + 16 * p.2) 8 [p.1.kind.fields.2.2, p.1.pc.toNat])
  ++ pieceRow 0x19C0 8 ((List.range 8).map fun i => ((tiles[i]?).map (·.pc.toNat)).getD 0)
  ++ pieceRow 0x1A00 8 [k.tvec.toNat, k.tframe.toNat, k.tdeleg.toNat, k.hcyc,
      k.trapBits + k.trapTmr * 256 + k.trapStrm * 2 ^ 16 + (if k.trapSync then 2 ^ 24 else 0) + k.trapCode.toNat * 2 ^ 32,
      flagBits [x.stopped] + (k.carveTo.map (· + 1)).getD 0 * 256]
  ++ pieceRow 0x1A30 1 (k.spilled ++ [0, 0])
  ++ [(0x1A38, 1, flagBits ([StreamId.cl, .cc, .cs, .vx, .mx, .cx].map fun e => (k.strm e).fetching))]
  ++ pieceRow 0x1A40 1 (sdense 0 k.tagScope 0 64)

/-- A template's opcode and fields. -/
def tplOf (v : Nat) : Nat × Tpl := (tplOpc (BitVec.ofNat 128 v), unpackTpl (BitVec.ofNat 128 v))

/-- The commands of the MX queue in a record, oldest first: outstanding products first, with their completed blocks (R232), then the
unstarted commands, numbered from `seq`. -/
def mxOfRecord (r : Reader) (seq : Nat) : List MxCmd :=
  let nmv := (List.range 4).filterMap fun i =>
    let q := r.at (0x1200 + 128 * i)
    if q 0x30 8 = 0 then none
    else
      some ({ seq := seq + i, pc := BitVec.ofNat 64 (q 0x28 8), o := (tplOf (q 0 16)).1, t := (tplOf (q 0 16)).2
              opa := BitVec.ofNat 64 (q 0x10 8), opb := BitVec.ofNat 64 (q 0x18 8), opc := BitVec.ofNat 64 (q 0x20 8), gtc := 0
              stamp := none, done := (List.range 256).filter fun b => (q 0x60 32).testBit b } : MxCmd)
  let cmds := (List.range (Nat.min 33 (r 0x203 1))).map fun i =>
    let q := r.at (mxPlace i).1
    let u := r.at (mxPlace i).2
    ({ seq := seq + 4 + i, pc := BitVec.ofNat 64 (u 24 8), o := (tplOf (q 0 16)).1, t := (tplOf (q 0 16)).2
       opa := BitVec.ofNat 64 (u 0 8), opb := BitVec.ofNat 64 (u 8 8), opc := BitVec.ofNat 64 (u 16 8), gtc := u 32 8
       stamp := if q.flag 0x18 1 then some (q 0x10 8) else none, susp := q.flag 0x18 0, phase := q 0x1C 4 } : MxCmd)
  nmv ++ cmds

/-- The copy queue of a record. -/
def cxOfRecord (r : Reader) (seq : Nat) : List CopyCmd :=
  (List.range (Nat.min 16 (r 0x204 1))).map fun i =>
    let q := r.at (0x500 + 80 * i)
    { seq := seq + i, pc := BitVec.ofNat 64 (r (0x18C8 + 16 * i) 8)
      kind := CopyKind.ofFields (q 0 64) (q 0x48 8) (r (0x18C0 + 16 * i) 8) (q 0x40 8)
      started := q.flag 0x48 4, done := if q 0x48 8 % 16 = 2 then (if q.flag 0x48 6 then 64 else 0) else q 0x40 8
      complete := q.flag 0x48 5 }

/-- The line buffers of a record. -/
def lbsOfRecord (r : Reader) : Sparse LineBuffer :=
  (List.range 4).filterMap fun i =>
    let q := r.at (0x1400 + 128 * i)
    if q.flag 0x48 1 then some (i, { record := BitVec.ofNat 512 (q 0 64), top := sx 64 (q 0x40 8), held := q.flag 0x48 0 }) else none

/-- Line buffers are fetched again on resume (R405): an advance in progress fetches its whole window, and any other window is fetched
by an advance of its own at the head of the queue. -/
def refetchWindows (q : List CopyCmd) (lbs : Sparse LineBuffer) (rowsOf : LineBuffer → List Int) (seq : Nat) : List CopyCmd :=
  lbs.foldl (fun q b =>
    let moving := fun (c : CopyCmd) =>
      match c.kind with
      | .advance k _ _ _ => k == b.1 && c.started
      | _ => false
    if !b.2.held then q
    else if q.any moving then mapIf moving (fun c => { c with rows := rowsOf b.2, done := 0, complete := false, again := true }) q
    else { seq := seq + b.1, pc := 0, kind := .advance b.1 0 0 false, started := true, rows := rowsOf b.2, again := true } :: q) q

/-- The barrier arms of a record. -/
def armsOfRecord (r : Reader) : List (Nat × Nat × Nat) :=
  (r.row 0x1600 4 16).filterMap fun v =>
    if v.testBit 31 then some (nbits v 24 4, nbits v 0 16, nbits v 16 6) else none

/-! ## The core header (R417) -/

/-- Which register file bits a save records: all of them, or those of the checkpoints' live ranges (R410). -/
structure Live where
  vmask : W64 := BitVec.allOnes 64
  /-- Live scalars and predicates of each stream with an entry. -/
  regs : List (StreamId × W64 × W16) := []
  /-- Scratchpad ranges, offset and length. -/
  ranges : List (Nat × Nat)
  deriving DecidableEq, Repr

/-- A stored `none` reads as all ones. -/
def optWord {w : Nat} (v : Option (BitVec w)) : Nat := (v.getD (BitVec.allOnes w)).toNat

/-- A core reference (R324). -/
def coreRef (p : Part) (c : Nat) : Nat :=
  let cl := clusterOf c
  ((cl % 16 - p.ox) * 4 + (cl / 16 - p.oy)) * 8 + c % 8

/-- The core that a reference names in a partition (R324). -/
def coreOfRef (p : Part) (r : Nat) : Nat := ((p.oy + r / 8 % 4) * 16 + (p.ox + r / 32 % 16)) * 8 + r % 8

/-- Bytes of a record with these scratchpad ranges. -/
def recordSize (ranges : List (Nat × Nat)) : Nat :=
  let n := (ranges.map fun r => 16 + (ceilDiv (r.2 / 128) 128) * 16 + r.2).foldl (· + ·) 0
  0x4F000 + ceilDiv n 4096 * 4096

/-- The pieces of the core header. `entries`: pending entries; `full`, `halted`: its flags. -/
def coreHeader (k : Core) (j : Job) (p : Part) (c entries : Nat) (full halted : Bool) (ranges : List (Nat × Nat)) : List Piece :=
  let x := k.mx
  pieceRow 0 8 [k.vcyc, k.tags.toNat, k.fmask.toNat]
  ++ [(0x18, 4, k.phase.toNat), (0x1C, 2, coreRef p c), (0x1E, 1, flagBits [full, j.regsl == 2, halted, k.hm, k.svcWait]), (0x1F, 1, j.l1sl)]
  ++ pieceRow 0x20 8 [j.header.toNat, k.range.lo.toNat, k.range.hi.toNat, k.range.grain.toNat, k.wid.toNat, k.tcause.toNat]
  ++ [(0x50, 4, j.node.toNat), (0x54, 2, j.slot.getD 0xFFFF), (0x56, 2, entries), (0x58, 4, ranges.length)]
  ++ [(0x5C, 4, recordSize ranges / 4096)]
  ++ pieceRow 0x60 8 (k.lastEp.map BitVec.toNat)
  ++ pieceRow 0x80 64 [k.sig1.toNat, k.sig2.toNat, k.sig3.toNat, k.sig4.toNat]
  ++ pieceRow 0x180 4 ((sdense 0 k.sr 0 64).map BitVec.toNat)
  ++ [(0x280, 8, x.sbase.toNat), (0x288, 1, if x.ssus then 1 else 0), (0x289, 1, if x.kat.isSome then 1 else 0), (0x290, 8, x.kat.getD 0)]
  ++ pieceRow 0x298 8 ((sdense none x.arec 0 8).map optWord)
  ++ pieceRow 0x2D8 8 ((sdense none x.ts 0 8).map fun v => optWord (v.map fun p => p.2 ++ p.1))
  ++ pieceRow 0x318 2 (sdense 0 x.counts 0 33)
  ++ pieceRow 0x360 2 (sdense 0 x.thresholds 0 30)

/-- The full/empty bits and the bytes of the scratchpad ranges of a record, from `off` on. -/
def Core.rangeRecord (k : Core) : Nat → List (Nat × Nat) → List Piece
  | _, [] => []
  | off, (o, n) :: rs =>
    let bits := ceilDiv (n / 128) 128 * 16
    [(off, 4, o), (off + 4, 4, n), (off + 16, bits, natOfBits (fun i => (k.spLine (o / 128 + i)).full) (n / 128))]
    ++ pieceRow (off + 16 + bits) 128 ((List.range (n / 128)).map fun i => (k.spLine (o / 128 + i)).data.toNat)
    ++ k.rangeRecord (off + 16 + bits + n) rs

/-- A table masked by the bits of a word. -/
def maskTable {β : Type} (t : Sparse β) (m : Nat) : Sparse β := t.filter fun e => m.testBit e.1

/-- The streams of a core with only their live registers (R410). -/
def Core.liveOnly (k : Core) (v : Live) : Core :=
  let k := v.regs.foldl (fun k r => k.updStrm r.1 fun st =>
    { st with s := maskTable st.s r.2.1.toNat, p := maskTable st.p r.2.2.toNat }) k
  { k with vec := maskTable k.vec v.vmask.toNat }

/-- The pending entries of a core: results, replays of frozen words, held words. -/
def Core.pendEntries (k : Core) (replays holds : List MemOp) : List (List Piece) :=
  let now := k.now
  let unsent := k.savedOps.filter fun o => o.reqs.isEmpty && o.stage ≤ 2
  k.pend.flatMap (fun p => p.entries now) ++ replays.flatMap (fun o => o.entries now false)
    ++ unsent.flatMap (fun o => o.entries now true) ++ holds.map (fun o => o.holdEntry k false)
    ++ k.savedHold.toList.map fun o => o.holdEntry k true

/-- The frame part of a core record: header, streams, queues and pending entries (R416). `epcs`: of each stream. -/
def frameRecord (k : Core) (j : Job) (p : Part) (c : Nat) (epcs : StreamId → List W64) (tiles : List TileIns)
    (replays holds : List MemOp) (full halted : Bool) (ranges : List (Nat × Nat)) : List Piece :=
  let es := k.pendEntries replays holds
  coreHeader k j p c es.length full halted ranges
  ++ ([StreamId.cl, .cc, .cs, .vx, .mx, .cx].flatMap fun e => shiftPieces (0x1000 + 4096 * e.code) ((k.strm e).record (epcs e)))
  ++ shiftPieces 0x7000 (k.queueRecord tiles)
  ++ ((es.take 128).zipIdx.flatMap fun e => shiftPieces (0x9000 + 320 * e.2) e.1)

/-- A whole core record (R416, R410). -/
def coreRecord (k : Core) (j : Job) (p : Part) (c : Nat) (epcs : StreamId → List W64) (tiles : List TileIns)
    (replays holds : List MemOp) (full halted : Bool) (v : Live) : List Byte :=
  let k := k.liveOnly v
  emit (recordSize v.ranges)
    (frameRecord k j p c epcs tiles replays holds full halted v.ranges
    ++ pieceRow 0x13000 1 ((sdense 0 k.mx.zs 0 0x4000).map BitVec.toNat)
    ++ pieceRow 0x17000 256 ((sdense 0 k.vec 0 64).map BitVec.toNat)
    ++ pieceRow 0x1B000 1 ((sdense 0 k.tile 0 0x10000).map BitVec.toNat)
    ++ pieceRow 0x2B000 4 ((sdense 0 k.acc 0 0x8000).map BitVec.toNat)
    ++ (match k.mx.pairBuf with
      | some b => pieceRow 0x4B000 4 b.sums
      | none => [])
    ++ k.rangeRecord 0x4F000 v.ranges)

/-! ## Reading a record back -/

/-- What the streams of a record hold. -/
def Core.withStreams (k : Core) (r : Reader) (es : List StreamId) : Core :=
  es.foldl (fun k e =>
    let old := k.strm e
    k.setStrm e { Stream.ofRecord (r.at (0x1000 + 4096 * e.code)) e old.fetching with fetchBuf := old.fetchBuf }) k

/-- The pending results, replays and held words of a record join the core (R64); the commands stand already. -/
def Core.withEntries (k : Core) (r : Reader) : Core :=
  let e := readEntries (r.at 0x9000) k.now k.issueOrd k (Nat.min 128 (r 0x56 2)) 0
  let k := { k with
    pend := k.pend ++ e.pends, memq := k.memq ++ e.replays, savedOps := k.savedOps ++ e.savedOps
    savedHold := k.savedHold.or e.savedHolds.head?, issueOrd := k.issueOrd + 128
    cycleOpen := !(k.memq ++ e.replays).isEmpty }
  e.holds.foldl (fun k o => k.updStrm o.strm fun st => { st with hold := some o }) k

/-- A stored all-ones word reads as `none`. -/
def wordOpt (v : Nat) : Option W64 := if v = 2 ^ 64 - 1 then none else some (BitVec.ofNat 64 v)

/-- The scratchpad that the ranges of a record give. -/
def spOfRecord (r : Reader) : Nat → Nat → Sparse SpLine → Sparse SpLine
  | 0, _, m => m
  | n + 1, off, m =>
    let o := r off 4
    let len := r (off + 4) 4
    let bits := ceilDiv (len / 128) 128 * 16
    let full := r (off + 16) bits
    let m := foldUpTo (len / 128) (fun m i =>
      sset {} m (o / 128 + i) { full := full.testBit i, data := BitVec.ofNat 1024 (r (off + 16 + bits + 128 * i) 128), poison := 0 }) m
    spOfRecord r n (off + 16 + bits + len) m

/-- The core that a record gives, for a job that has been made from its header (R416, R423). -/
def Core.ofRecord (r : Reader) (j : Job) (epochs : List W64) (rowsOf : LineBuffer → List Int) : Core :=
  let q := r.at 0x7000
  let sixteen := q 0x1A20 8
  let lbs := lbsOfRecord q
  let cxq := refetchWindows (cxOfRecord q 8) lbs rowsOf 0
  let mxq := mxOfRecord q 0
  let k : Core :=
    { job := some j
      vcyc := r 0 8, tags := BitVec.ofNat 64 (r 8 8), fmask := BitVec.ofNat 64 (r 0x10 8)
      phase := BitVec.ofNat 32 (r 0x18 4)
      hm := r.flag 0x1E 3, svcWait := r.flag 0x1E 4
      range := { lo := BitVec.ofNat 64 (r 0x28 8), hi := BitVec.ofNat 64 (r 0x30 8), grain := BitVec.ofNat 64 (r 0x38 8)
                 lo0 := BitVec.ofNat 64 (r 0x28 8), hi0 := BitVec.ofNat 64 (r 0x30 8) }
      wid := BitVec.ofNat 64 (r 0x40 8), tcause := BitVec.ofNat 64 (r 0x48 8)
      lastEp := epochs
      sig1 := BitVec.ofNat 512 (r 0x80 64), sig2 := BitVec.ofNat 512 (r 0xC0 64)
      sig3 := BitVec.ofNat 512 (r 0x100 64), sig4 := BitVec.ofNat 512 (r 0x140 64)
      sr := sparseOf 0 ((r.row 0x180 4 64).map (BitVec.ofNat 32))
      srSeed := sparseOf 0 ((r.row 0x180 4 64).map (BitVec.ofNat 32))
      vec := sparseOf 0 ((r.row 0x17000 256 64).map (BitVec.ofNat 2048))
      tile := sparseOf 0 ((r.row 0x1B000 1 0x10000).map (BitVec.ofNat 8))
      acc := sparseOf 0 ((r.row 0x2B000 4 0x8000).map (BitVec.ofNat 32))
      ring0 := { q := (q.row 0 8 (Nat.min 32 (q 0x200 1))).map (BitVec.ofNat 64), start := Nat.min 32 (q 0x200 1) }
      ring1 := { q := (q.row 0x100 8 (Nat.min 32 (q 0x201 1))).map (BitVec.ofNat 64), start := Nat.min 32 (q 0x201 1) }
      fmtq := (List.range (Nat.min 33 (q 0x202 1))).map fun i => BitVec.ofNat 64 (q (fmtPlace i) 8)
      tvec := BitVec.ofNat 64 (q 0x1A00 8), tframe := BitVec.ofNat 64 (q 0x1A08 8), tdeleg := BitVec.ofNat 64 (q 0x1A10 8)
      hcyc := q 0x1A18 8
      trapBits := sixteen % 256, trapTmr := nbits sixteen 8 8, trapStrm := nbits sixteen 16 8, trapSync := sixteen.testBit 24
      trapCode := BitVec.ofNat 32 (sixteen / 2 ^ 32)
      carveTo := if nbits (q 0x1A28 8) 8 16 = 0 then none else some (nbits (q 0x1A28 8) 8 16 - 1)
      spilled := q.row 0x1A30 1 6
      tagScope := sparseOf 0 (q.row 0x1A40 1 64)
      scrubbed := List.range j.regsl
      sp := spOfRecord r (r 0x58 4) 0x4F000 []
      mx :=
        { queue := mxq
          zs := sparseOf 0 ((r.row 0x13000 1 0x4000).map (BitVec.ofNat 8))
          arec := sparseOf none ((r.row 0x298 8 8).map wordOpt)
          ts := sparseOf none ((r.row 0x2D8 8 8).map fun v =>
            (wordOpt v).map fun w => (w.extractLsb' 0 32, w.extractLsb' 32 32))
          sbase := BitVec.ofNat 64 (r 0x280 8)
          ssus := true
          counts := sparseOf 0 (r.row 0x318 2 33)
          thresholds := sparseOf 0 (r.row 0x360 2 30)
          stopped := q.flag 0x1A28 0
          kat := if r.flag 0x289 0 then some (r 0x290 8) else none
          nextSeq := 32 }
      cx := { queue := cxq, nextSeq := 32, lbs := lbs, arms := armsOfRecord q } }
  [StreamId.cl, .cc, .cs, .vx, .mx, .cx].foldl (fun k e =>
    k.setStrm e (Stream.ofRecord (r.at (0x1000 + 4096 * e.code)) e (q.flag 0x1A38 e.code))) k

end Sys2Proof.Machine
end

