-- ==== Sys2Proof/Machine/Ops.lean ====
section
/-! DEFINITION. Taking a trap and returning from one (R62-R64, R79, R178, R326-R329). -/

namespace Sys2Proof.Machine

/-- Bytes of a trap frame (R416). -/
def frameBytes : Nat := 0x13000

/-- The wake register of a cluster is written: a gated cluster wakes, within 50 µs (R447). -/
def Cluster.wakeUp (u : Cluster) (gtc : Nat) : Cluster :=
  { u with waking := u.waking || u.gated, wakeBy := if u.gated && !u.waking then gtc + 350000 else u.wakeBy }

/-- TCAUSE for the causes that are pending (R326). -/
def Core.causeWord (k : Core) : W64 :=
  BitVec.ofNat 64 (k.trapCode.toNat * 2 ^ 32 + k.trapStrm * 2 ^ 24 + k.trapTmr * 2 ^ 21 + k.trapBits)

/-- A word that a trap turns into a replay entry: a frozen load whose request may be made again (R62, R295). -/
def MemOp.replays (op : MemOp) : Bool := op.hold.isNone && op.acq.isNone && op.kind.reads

/-- Whether some control or vector stream of a core stands inside an extended form, which is finished first (R78). -/
def Core.inForm (k : Core) : Bool := [StreamId.cl, .cc, .cs, .vx].any fun e => !(k.strm e).form.isEmpty && !(k.strm e).trapped

/-- What a stream's record names as next: EPC0 to EPC2, or the next word of an engine (R63, R418). -/
def State.epcsFor (s : State) (c : Nat) (e : StreamId) : List W64 :=
  if e.isControl then s.epcsOf c e else [((s.core c).strm e).pc]

/-- The bytes of the frame of core `c` (R328). -/
def State.frame (s : State) (c : Nat) : List Byte :=
  let k := s.core c
  let j := k.theJob
  let tiles := s.tiles.filter fun t => k.tilesOut.contains t.id
  emit frameBytes (frameRecord k j (s.part j.part) c (s.epcsFor c) tiles (k.memq.filter MemOp.replays) [] false false [])

/-- The core stops for a trap whose frame has been written (R62, R295): EPCs and TCAUSE are set; what was pending is in the frame, and
words whose requests are not made again are set aside. -/
def State.stopForTrap (s : State) (c : Nat) : State :=
  let epcs := fun e => s.epcsOf c e
  s.updCore c fun k =>
    let keep := fun (k : Core) (e : StreamId) => k.updStrm e fun st =>
      { st with
        epc0 := if e = .vx then 0 else (epcs e).getD 0 0
        epc1 := if e = .vx then 0 else (epcs e).getD 1 0
        epc2 := if e = .vx then 0 else (epcs e).getD 2 0
        hold := match k.memq.find? fun o => o.strm == e && o.hold.isSome with
          | some o => some o
          | none => st.hold }
    let k := keep (keep (keep (keep k .cl) .cc) .cs) .vx
    { k with
      pend := k.pend.filter fun p => p.strm == StreamId.mx || p.strm == StreamId.cx
      memq := [], savedOps := k.memq.filter fun o => o.hold.isNone && !o.replays
      savedHold := k.cc.hold, savedMx := !k.mx.queue.isEmpty
      cc := { k.cc with hold := none }
      tcause := k.causeWord
      trapBits := 0, trapTmr := 0, trapCode := 0, trapStrm := 0, trapSync := false
      cycleOpen := false }

/-- The handler begins: CC fetches at TVEC, and latencies count on the handler count (R328). -/
def Core.enterHandler (k : Core) : Core :=
  { k with
    hm := true, hcyc := 0
    cc := { k.cc with pc := k.tvec, redirects := [], annul := 0, rot := [], resume := [], reps := [], form := []
                      ended := false, trapped := false } }

/-- The service packet of an escalated `sysc` (R329). -/
def State.servicePacket (s : State) (c : Nat) (framePa : Nat) : BitVec 512 :=
  let k := s.core c
  slotOf ([(0, 1, 0x20), (2, 2, k.theJob.ctag.toNat), (4, 2, c), (8, 4, k.trapCode.toNat)]
    ++ (List.range 4).map (fun i => (0x10 + 8 * i, 8, (sget 0 k.cc.s (i + 1)).toNat))
    ++ [(0x30, 8, framePa), slotStamp s])

/-- Bytes of a virtual range that a core and its node hold apart from the committed version are discarded (R329). -/
def State.discardRange (s : State) (c lo n : Nat) : State :=
  let j := (s.core c).theJob
  let inside := fun (va : Nat) => decide (lo ≤ va ∧ va < lo + n)
  let mine := fun (v : Version) => v.ctag == j.ctag && inside v.va.toNat &&
    match v.owner with
    | .pending d _ => d == c
    | .staged p sl => p == j.part && some sl == j.slot
  (s.updCore c fun k => { k with l1 := k.l1.filter fun l => !(l.ctag == j.ctag && inside l.va) }).updMem fun m =>
    { m with vers := m.vers.filter fun v => !mine v }

/-- A frame access that did not go on: it waits for the next edge, faults, or is dropped as stale. -/
def State.frameStop (s : State) (c : Nat) (x : Stop) : State :=
  match x with
  | .wait s => s
  | .bad f => s.fault c .cc f
  | .stale u => s.updMem fun m => m.countDrop u (s.core c).theJob.ctx
  | .poison _ => s

/-- Take the trap that is pending on core `c` (R62, R327-R329): handled in the job, escalated for `sysc`, or the unhandled-trap fault;
a synchronous cause in handler mode is the double-trap fault. The frame may need translations that are not there yet: the trap is
then taken at a later edge. -/
def State.takeTrap (s : State) (c : Nat) : State :=
  let k := s.core c
  if k.hm then
    if k.trapSync then
      (s.fault c .cc { code := .doubleTrap, det1 := k.causeWord }).updCore c fun k => { k with trapBits := 0, trapSync := false }
    else s
  else
    let p := s.engineParty c .cc
    let base := k.tframe.toNat
    let bs := (s.frame c).map fun b => (b, false)
    if k.tvec != 0 && k.trapBits &&& k.tdeleg.toNat == k.trapBits then
      match s.writePhased p c base bs with
      | .ok t => (t.stopForTrap c).updCore c Core.enterHandler
      | .error x => s.frameStop c x
    else if k.trapBits.testBit TrapCause.sysc.bitPos then
      match s.writeVirt { p with slot := none } permW base bs with
      | .ok (t, pas) =>
        let t := (t.publishSig k.theJob.ctx c 3 (sigOf pas)).discardRange c base frameBytes
        let t := t.notifyManager k.theJob.ctx (s.servicePacket c (s.paOf p k.tframe))
        (t.stopForTrap c).updCore c fun k => { k with svcWait := true }
      | .error x => s.frameStop c x
    else
      (s.fault c .cc { code := .unhandledTrap, det1 := k.causeWord }).updCore c fun k => { k with trapBits := 0, trapSync := false }

/-- Whether core `c` takes a trap at this edge (R62, R65, R78, R329). -/
def State.trapDue (s : State) (c : Nat) : Bool :=
  let k := s.core c
  k.trapBits != 0 && k.job.isSome && !(s.halt k.theJob.part).stops && !s.coreParked c && !k.svcWait && !k.inForm && (!k.hm || k.trapSync)

/-- The core that a frame resumes (R64, R328): EPCs from the CSRs, every other item from the frame. MX starts commands again, unless a
counter crossing that came meanwhile has yet to trap (R222). -/
def Core.resumeFrom (k : Core) (r : Reader) : Core :=
  let base : Core := { k with
    hm := false, svcWait := false
    pend := k.pend.filter fun p => p.strm == StreamId.mx || p.strm == StreamId.cx
    memq := k.savedOps, savedOps := []
    vcyc := r 0 8, fmask := BitVec.ofNat 64 (r 0x10 8), wid := BitVec.ofNat 64 (r 0x40 8)
    cycleOpen := false
    mx := { k.mx with stopped := k.mx.stopped && k.trapBits.testBit TrapCause.counter.bitPos, ssus := k.mx.ssus || k.savedMx }, savedMx := false }
  let withEpc := fun (k' : Core) (e : StreamId) => k'.updStrm e fun st =>
    let old := k.strm e
    let resume := if st.started then resumeOf [old.epc0, old.epc1, old.epc2] else []
    { st with
      epc0 := old.epc0, epc1 := old.epc1, epc2 := old.epc2
      pc := (resume.map (·.1)).headD 0, resume := resume
      hold := if e = .cc then k.savedHold else old.hold, blocked := true }
  let k' := base.withStreams r [.cl, .cc, .cs, .vx]
  let k' := withEpc (withEpc (withEpc k' .cl) .cc) .cs
  let k' := { k' with vx := { k'.vx with hold := k.vx.hold, blocked := true }, mxs := { k'.mxs with trapped := false }
                      cxs := { k'.cxs with trapped := false }, savedHold := none }
  k'.withEntries r

/-- Return from a trap on core `c` whose frame holds `bs` (R64). -/
def State.returnFrom (s : State) (c : Nat) (bs : List PByte) : State :=
  s.updCore c fun k => k.resumeFrom (readerOf (bs.map (·.1)).toArray)

/-- Whether every request that was set aside by a trap has been answered (R295). -/
def State.savedAnswered (s : State) (c : Nat) : Bool := !((s.core c).savedOps.any fun o => s.mem.live o.reqs)

end Sys2Proof.Machine
end

