-- ==== Sys2Proof/Machine/Csr.lean ====
section
/-! DEFINITION. Traps raised by words (R144, R320, R337), the CSRs (R325, R326, R340, R363, R369, R371, R385, R402, R413),
checkpoints (R408), and the writes of context parameters as steps. -/

namespace Sys2Proof.Machine

/-! ## Traps -/

/-- TRAP (R144): the word issues, and the user trap follows between engine cycles. -/
def execTrap (t : Tpl) (s : State) : Out :=
  issue 0x048 t (fun s => s.syncCause s.cur.core s.cur.strm .user t.imm) s

/-- SYSC (R329, R337). -/
def execSysc (t : Tpl) (s : State) : Out :=
  issue 0x383 t (fun s => s.syncCause s.cur.core s.cur.strm .sysc t.imm) s

/-- ERET (R64, R295, R328, R338): it waits for the frame and for the answers to requests set aside; outside handler mode it is the
illegal-instruction trap. -/
def execEret (t : Tpl) (s : State) : Out :=
  let c := s.cur.core
  let k := s.curCore
  if !s.guard0 t then issue 0x382 t id s
  else if !k.hm then .next s.illegal
  else if !s.savedAnswered c then .next s.blockWord
  else
    match s.readVirt (s.engineParty c .cc) true permR k.tframe.toNat frameBytes with
    | .ok bs =>
      if poisonedP bs then .next ((s.consumePoison c (s.paOf (s.engineParty c .cc) k.tframe)).updCurStrm fun st => { st with trapped := true })
      else if s.admits c (energyClass 0x382 t) then
        .next ((s.warn (tplWarns 0x382 t ||| s.cur.patchWarn)).charge c (energyClass 0x382 t) |>.returnFrom c bs)
      else .next s.refuseCycle
    | .error (.wait t) => .next t.blockWord
    | .error x => .next (s.frameStop c x)

/-! ## Reading CSRs (R325, R326) -/

/-- CTXINFO and PARTINFO of a core (R325). -/
def ctxInfo (j : Job) : W64 := BitVec.ofNat 64 (j.level * 2 ^ 16 + j.ctag.toNat)
def partInfo (n : Nat) (p : Part) : W64 :=
  BitVec.ofNat 64 (n * 2 ^ 16 + p.ox * 2 ^ 12 + p.oy * 2 ^ 10 + (p.wm1 + 1) * 2 ^ 5 + (p.hm1 + 1))

/-- EPCj of stream s, for CSR number `0x008 + 3s + j` (R325). -/
def Core.epc (k : Core) (n : Nat) : W64 :=
  let st := k.strm ((StreamId.ofCode? (n / 3)).getD .cl)
  match n % 3 with
  | 0 => st.epc0
  | 1 => st.epc1
  | _ => st.epc2

/-- Whether a CSR number is listed (R325, R363, R385, R402, R413). -/
def csrListed (n : Nat) : Bool := n ≤ 4 || (8 ≤ n && n ≤ 0x10) || (0x18 ≤ n && n ≤ 0x24)

/-- Whether a CSR is a context parameter. -/
def csrIsParam (n : Nat) : Bool := (0x18 ≤ n && n ≤ 0x1F) || (0x22 ≤ n && n ≤ 0x24)

/-- Whether a CSR is read-only at every level. -/
def csrReadOnly (n : Nat) : Bool := n ≤ 1 || n == 0x20 || n == 0x21

/-- A context parameter. -/
def Ctx.param (x : Ctx) (n : Nat) : W64 :=
  match n with
  | 0x18 => x.mxslack | 0x19 => x.ckwd | 0x1A => x.qpmin | 0x1B => x.qpcap | 0x1C => x.ptroot | 0x1D => x.dlogbase
  | 0x1E => x.dlogidx | 0x1F => x.dlogep | 0x22 => x.tsegpool | 0x23 => x.stoplog | _ => x.savebase

/-- The value of a CSR for core `c`. -/
def State.csrValue (s : State) (c n : Nat) : W64 :=
  let k := s.core c
  let j := k.theJob
  match n with
  | 0 => BitVec.ofNat 64 ((if k.hm then 4 else 0) + j.level)
  | 1 => k.tcause
  | 2 => k.tvec
  | 3 => k.tframe
  | 4 => k.tdeleg
  | 0x20 => ctxInfo j
  | 0x21 => partInfo j.part (s.part j.part)
  | n => if n ≤ 0x10 then k.epc (n - 8) else (s.ctx j.ctx).param n

/-- CSRR (R325, R340, R370): a read of DLOGIDX acquires at device scope. -/
def execCsrr (t : Tpl) (s : State) : Out :=
  let n := field t.imm 0 12
  if s.guard0 t && !csrListed n then .next s.illegal
  else
    issue 0x380 t (fun s =>
      let v := s.csrValue s.cur.core n
      let s := if n = 0x1E then s.acquire s.cur.core 3 else s
      s.landWord t.dst 2 v) s

/-! ## Writing CSRs -/

/-- The bits of a job CSR that a write leaves, over the old value; U writes no TDELEG bit above 2 (R325). -/
def csrMasked (level n : Nat) (old v : W64) : W64 :=
  match n with
  | 2 => v &&& ~~~ 3
  | 3 => v &&& ~~~ 0xFFF
  | 4 => if level = 0 then (old &&& 0x38) ||| (v &&& 7) else v &&& 0x3F
  | _ => v &&& ~~~ 2

/-- Job CSRs written in an engine cycle take effect at its end (R340). -/
def Core.applyCsrs (k : Core) : Core :=
  k.csrNew.foldl (fun k p =>
    match p.1 with
    | 2 => { k with tvec := p.2 }
    | 3 => { k with tframe := p.2 }
    | 4 => { k with tdeleg := p.2 }
    | n => k.updStrm ((StreamId.ofCode? ((n - 8) / 3)).getD .cl) fun st =>
      match (n - 8) % 3 with
      | 0 => { st with epc0 := p.2 }
      | 1 => { st with epc1 := p.2 }
      | _ => { st with epc2 := p.2 }) { k with csrNew := [] }

/-- The word of a system instruction that holds its context (R337, R338): its release, if it acts on another context, comes first. -/
def systemOp (o : Nat) (t : Tpl) (release : Bool) (aux : List Nat) (s : State) : MemOp :=
  { holdOp s (.system o t.mod.toNat (s.opa t) (s.opb t) (s.opc t) 0 aux) t.dst with
    dst := if (opInfo o t).dst = .no then none else bindDst s.curStrm s.cur.strm t.dst.toNat
    commit := if release then some .all else none
    pub := if release then some 3 else none }

/-- Whether the issuer manages a context (R320, R338). -/
def State.manages (s : State) (issuer ctx : Nat) : Bool := (s.ctx ctx).valid && (s.ctx ctx).mgr == issuer && ctx != issuer

/-- The access-violation fault of a system word that names what the issuer does not manage (R338, R344). -/
def notManaged (v : W64) : FaultInfo := { code := .accessViolation, addr := v }

/-- A write of a job CSR or a parameter, the target context being `ctx` (R325, R340). -/
def csrwBody (t : Tpl) (ctx : Nat) (other : Bool) (s : State) : Out :=
  let n := field t.imm 0 12
  let c := s.cur.core
  let j := s.curCore.theJob
  let v := s.opa t
  if !s.guard0 t then issue 0x381 t id s
  else if !csrListed n then .next s.illegal
  else if csrReadOnly n then issue 0x381 t (fun s => (if other then s.warnBit .modrsv else s).warnBit .spwr) s
  else if csrIsParam n then
    if j.level = 0 then .next s.privileged
    else if other && !s.manages j.ctx ctx then .next (s.faultCur (notManaged (s.opb t)))
    else issue 0x381 t (fun s => s.pushOp (systemOp 0x381 t other [n, ctx] s)) s
  else if 8 ≤ n && j.level == 0 then .next s.privileged
  else
    issue 0x381 t (fun s =>
      let s := if n = 4 ∧ j.level = 0 ∧ v &&& 0x38 ≠ 0 then s.warnBit .spwr else s
      let s := if other then s.warnBit .modrsv else s
      s.updCur fun k => { k with csrNew := k.csrNew ++ [(n, csrMasked j.level n (s.csrValue c n) v)] }) s

/-- CSRW (R340). -/
def execCsrw (t : Tpl) (s : State) : Out := csrwBody t s.curCore.theJob.ctx false s

/-- CSRW_CTX (R340): on a job CSR the `.ctx` bit falls under row 17. -/
def execCsrwCtx (t : Tpl) (s : State) : Out := csrwBody t (field (s.opb t) 0 10) true s

/-! ## Context parameters -/

/-- Whether queue-pool minimums and caps may stand together (R330). -/
def poolLimitsOk (lo cap : W64) : Bool :=
  ((List.range 6).all fun q => 1 ≤ field lo (8 * q) 8 && field lo (8 * q) 8 ≤ field cap (8 * q) 8)
    && ((List.range 6).map fun q => field lo (8 * q) 8).foldl (· + ·) 0 ≤ 128

/-- A parameter write: the new context, or none where the write is not applied and sets SPWR. -/
def Ctx.setParam (x : Ctx) (n : Nat) (v : W64) : Option Ctx :=
  match n with
  | 0x18 => some { x with mxslack := v &&& 0xFFFF }
  | 0x19 => some { x with ckwd := v }
  | 0x1A => if poolLimitsOk v x.qpcap then some { x with qpmin := v &&& 0xFFFFFFFFFFFF } else none
  | 0x1B => if poolLimitsOk x.qpmin v then some { x with qpcap := v &&& 0xFFFFFFFFFFFF } else none
  | 0x1C => some { x with ptroot := v &&& 0x000FFFFFFFFFF001 }
  | 0x1D =>
    if bit v 0 && (field v 1 5 < 9 || 24 < field v 1 5) then none else some { x with dlogbase := v &&& 0x000FFFFFFFFFF03F }
  | 0x1E => some { x with dlogidx := v &&& 0xFFFFFFFF }
  | 0x1F => some { x with dlogep := v &&& 0xFFFF }
  | 0x22 => some { x with tsegpool := v &&& 0x000FFFFFFFFF0000 }
  | 0x23 => if field v 0 4 < 6 ∨ 12 < field v 0 4 then none else some { x with stoplog := v &&& 0x000FFFFFFFFFF00F }
  | _ => some { x with savebase := v &&& 0x000FFFFFFFFFF000 }

/-- A held parameter write of some core and stream: the core, the stream, the CSR, the context and the value. -/
def Core.paramHold (k : Core) (c : Nat) (e : StreamId) : Option (Nat × StreamId × Nat × Nat × W64) :=
  match (k.strm e).hold with
  | some op =>
    match op.hold with
    | some (.system 0x381 _ a _ _ 1 [n, ctx]) => some (c, e, n, ctx, a)
    | _ => none
  | none => none

/-- The held parameter writes that have come to their write, in core order. -/
def State.paramHolds (s : State) : List (Nat × StreamId × Nat × Nat × W64) :=
  s.cores.flatMap fun p => [StreamId.cl, .cc, .cs].filterMap fun e => p.2.paramHold p.1 e

/-- The requests of a context that write at their homes and were translated through what `invalidate` removes: `tlbi` waits until each has
been performed (R365). The writes of engines are performed as they are translated. -/
def Mem.writesThrough (m : Mem) (ctx : Nat) (va : Option W64) : List Nat :=
  (m.reqs.filter fun r => r.kind.writesHome && (r.stage == .home || r.stage == .dirty) && ctagCtx r.ctag == ctx &&
    match va with
    | some a => m.tcache.any fun e => e.ctag == r.ctag && [a, r.va].all fun x => decide (e.va ≤ x.toNat ∧ x.toNat < e.va + 2 ^ e.size)
    | none => true).map (·.id)

/-- Whether some of these requests are still to be performed. -/
def Mem.unperformed (m : Mem) (ids : List Nat) : Bool := m.reqs.any fun r => ids.contains r.id && (r.stage == .home || r.stage == .dirty)

/-- Move a held system word to a step; `more` joins what it keeps in view. -/
def State.setSystemStep (s : State) (c : Nat) (e : StreamId) (step : Nat) (more : List Nat) : State :=
  s.updStrm c e fun st => { st with hold := st.hold.map fun op =>
    match op.hold with
    | some (.system o m a b d _ aux) => { op with hold := some (.system o m a b d step (aux ++ more)) }
    | _ => op }

/-- Translations of a context leave every cache, and its walks are discarded (R341). `va`: only those that map the address. -/
def Mem.invalidate (m : Mem) (ctx : Nat) (va : Option W64) : Mem :=
  let hit := fun (t : W16) (lo size : Nat) => ctagCtx t == ctx &&
    match va with
    | some a => decide (lo ≤ a.toNat ∧ a.toNat < lo + 2 ^ size)
    | none => true
  { m with
    tcache := m.tcache.filter fun e => !hit e.ctag e.va e.size
    walks := m.walks.map fun w => if ctagCtx w.ctag == ctx then { w with discard := true } else w }

/-- One parameter write takes effect in every core of its context (R340, R363): the writer's word goes on. -/
def State.writeParam (s : State) (h : Nat × StreamId × Nat × Nat × W64) : State :=
  let (c, e, n, ctx, v) := h
  let s := s.setSystemStep c e 2 (if n = 0x1C then s.mem.writesThrough ctx none else [])
  match (s.ctx ctx).setParam n v with
  | some x =>
    let s := s.updCtx ctx fun _ => x
    if n = 0x1C then s.updMem fun m => m.invalidate ctx none else s
  | none => s.updStrm c e fun st => { st with warnSet := st.warnSet ||| warnIf true .spwr }

/-- The first held write of one of some CSRs of a context takes effect. -/
def paramEvent (ns : List Nat) (ctx : Nat) (s : State) : Out :=
  match s.paramHolds.find? fun h => ns.contains h.2.2.1 && h.2.2.2.1 == ctx with
  | some h => .next (s.writeParam h)
  | none => .next s

/-- PTROOT_WRITE (R363): with the translations of the context removed. -/
def execPtrootWrite (ctx : Nat) (s : State) : Out := paramEvent [0x1C] ctx s
/-- DLOGBASE_WRITE (R363). -/
def execDlogbaseWrite (ctx : Nat) (s : State) : Out := paramEvent [0x1D] ctx s
/-- DLOGIDX_WRITE (R371): waiting appends go on in the order of their walks once the index is below the capacity. -/
def execDlogidxWrite (ctx : Nat) (s : State) : Out := paramEvent [0x1E] ctx s
/-- DLOGEP_WRITE (R369). -/
def execDlogepWrite (ctx : Nat) (s : State) : Out := paramEvent [0x1F] ctx s
/-- STOPLOG_WRITE (R402). -/
def execStoplogWrite (ctx : Nat) (s : State) : Out := paramEvent [0x23] ctx s
/-- QUEUE_POOL_LIMITS_WRITE (R330). -/
def execQueuePoolLimitsWrite (ctx : Nat) (s : State) : Out := paramEvent [0x1A, 0x1B] ctx s

/-- TSEGPOOL_WRITE (R385): a non-zero head makes every server of the context that waits for a segment try again. -/
def execTsegpoolWrite (ctx : Nat) (s : State) : Out :=
  match s.paramHolds.find? fun h => h.2.2.1 == 0x22 && h.2.2.2.1 == ctx with
  | some h =>
    let s := s.writeParam h
    let retry := fun (q : Queue) => if ctagCtx q.ctag == ctx && (s.ctx ctx).tsegpool != 0 then { q with noPool := false } else q
    .next { s with queues := s.queues.map fun p => (p.1, retry p.2) }
  | none => .next s

/-! ## Checkpoints (R408) -/

/-- What a checkpoint entry names as live (R409). -/
def ckptLive (r : Reader) : CkptLive :=
  { smask := BitVec.ofNat 64 (r 8 8), vmask := BitVec.ofNat 64 (r 0x10 8), pmask := BitVec.ofNat 16 (r 0x18 2)
    ranges := (List.range (Nat.min 4 (r 0x1B 1))).map fun i => (r (0x20 + 8 * i) 4, r (0x24 + 8 * i) 4) }

/-- Whether entry `r` of a checkpoint table makes a `ckpt` at `pc` of stream `e` valid (R408, R409). -/
def ckptMatches (r : Reader) (e : StreamId) (pc : W64) : Bool := r 0x1A 1 == e.code && r 0 8 == pc.toNat

/-- A `ckpt` of opcode `o` (R408). -/
def ckptWord (o : Nat) (t : Tpl) (s : State) : Out :=
  let c := s.cur.core
  let e := s.cur.strm
  let j := s.curCore.theJob
  let n := field t.imm 0 16
  if !s.active o t || !s.preemptPending c || j.ckpt == 0 || j.ckptN ≤ n then issue o t id s
  else
    match s.readVirt (s.engineParty c e) true permR ((j.ckpt.toNat + 64 * n) % 2 ^ 64) 64 with
    | .ok bs =>
      if poisonedP bs then .next ((s.consumePoison c (s.paOf (s.engineParty c e) j.ckpt)).updCurStrm fun st => { st with trapped := true })
      else
        issue o t (fun s =>
          let r := readerOf (bs.map (·.1)).toArray
          if ckptMatches r e s.curStrm.pc then
            s.updCurStrm fun st => { st with parked := true, ckptAt := some n, live := ckptLive r }
          else s) s
    | .error (.wait t) => .next t.blockWord
    | .error (.bad f) => .next (s.faultCur f)
    | .error (.stale u) => .next ((s.updMem fun m => m.countDrop u j.ctx).blockWord)
    | .error (.poison pa) => .next ((s.consumePoison c pa).updCurStrm fun st => { st with trapped := true })

/-- CKPT (R408). -/
def execCkpt (t : Tpl) (s : State) : Out := ckptWord 0x392 t s

/-- CKPT_VX (R408). -/
def execCkptVx (t : Tpl) (s : State) : Out := ckptWord 0x1FD t s

end Sys2Proof.Machine
end

