-- ==== Sys2Proof/Machine/Units.lean ====
section
/-! DEFINITION. Accesses that a unit makes in one step, with the walk of each page taken in the same step: scheduler, servers, Crown,
endpoints (R334, R361, R364, R368). -/

namespace Sys2Proof.Machine

/-- A party that is no core, working for a context. -/
def State.unitParty (s : State) (master unit ctx src : Nat) : Party :=
  { master := master, unit := unit, ctag := s.ctagOf ctx, part := (s.ctx ctx).part, slot := none, node := 0xFFFFFFFF, core := none
    waiter := .unit ctx src, who := 2 ^ 42 + master }

/-- The scheduler that serves a context: that of H-die `ctx mod 2`. -/
def schedHalf (ctx : Nat) : Nat := ctx % 2

/-- Source number of a context's scheduler (R403). -/
def schedSource (ctx : Nat) : Nat := (8 + schedHalf ctx) * 4096 + 2 * 64

/-- The scheduler as a context (R379, R381). -/
def State.schedParty (s : State) (ctx : Nat) : Party :=
  s.unitParty (585 + schedHalf ctx) (64 + schedHalf ctx) ctx (schedSource ctx)

/-- What translates an address for a unit: the entry of its cache, else a walk of its own (R364); a request is stale where the unit originates it
(R347). -/
def State.leafNow (s : State) (p : Party) (va : W64) : WalkRes :=
  if s.mem.staleAt (walkerUnit p.unit) p.ctag then .stale (walkerUnit p.unit)
  else
    match s.mem.tfind p.unit p.ctag va with
    | some e => .leaf e.frame e.size e.perm e.epoch.isSome 0
    | none => s.walk (walkMaster p.unit) p.ctag va

/-- The translations of a range that a unit has used enter its cache (R364). -/
def State.keepNow (s : State) (p : Party) (va n : Nat) : State :=
  foldUpTo ((va % 4096 + n + 4095) / 4096) (fun s i =>
    let a := BitVec.ofNat 64 (va / 4096 * 4096 + 4096 * i)
    if (s.mem.tfind p.unit p.ctag a).isSome then s
    else
      match s.walk (walkMaster p.unit) p.ctag a with
      | .leaf frame size perm d _ =>
        s.cacheEntry { unit := p.unit, ctag := p.ctag, va := alignDown a.toNat (2 ^ size), size := size, frame := frame, perm := perm
                       epoch := if d then some (s.epochOf p.ctag) else none }
      | _ => s) s

/-- Translate one address and make the checks of its target. -/
def State.reachNow (s : State) (p : Party) (va : W64) (need : Nat) : Acc Nat :=
  match s.leafNow p va with
  | .bad code level => .error (.bad (translationFault va code level))
  | .refused u level => .error (.bad { translationFault va 6 level with target := some u })
  | .stale u => .error (.stale u)
  | .leaf frame size perm _ _ =>
    if need &&& 30 &&& perm != need &&& 30 then .error (.bad (translationFault va 5 ((size - 12) / 9)))
    else
      s.reachPa p va (frame + va.toNat % 2 ^ size) need

/-- Read virtual bytes in one step. -/
def State.readNow (s : State) (p : Party) (need va n : Nat) : Acc (List PByte) :=
  (linePieces va n).foldlM (fun acc q => do
    let pa ← s.reachNow p (BitVec.ofNat 64 q.1) need
    pure (acc ++ pieceBytes (s.engineLine p pa) (pa % 128) q.2)) []

/-- Write virtual bytes into the committed version in one step, with D of each page confirmed (R369). -/
def State.writeNow (s : State) (p : Party) (va : Nat) (bs : List Byte) : Acc State := do
  let (s, _) ← (linePieces va bs.length).foldlM (fun (acc : State × List Byte) q => do
    let va := BitVec.ofNat 64 q.1
    let pa ← acc.1.reachNow p va permW
    let s ← (acc.1.keepNow p q.1 1).confirmPage p va
    let (mask, data, poison) := pieceLine pa ((acc.2.take q.2).map fun b => (b, false))
    let s := if (locOf pa).isNone then s
      else s.writeNode p.part p.slot p.ctag p.master (va &&& ~~~ 127) (alignDown pa 128) mask data poison (some (s.epochOf p.ctag))
    pure (s, acc.2.drop q.2)) (s, bs)
  pure s

/-- Physical lines under a virtual range. -/
def State.linesNow (s : State) (p : Party) (va n : Nat) : List Nat :=
  (linePieces va n).filterMap fun q =>
    match s.reachNow p (BitVec.ofNat 64 q.1) permW with
    | .ok pa => some pa
    | .error _ => none

/-- Write virtual bytes as a release at device scope by a unit of the H-dies: the lines join the device board of the context (R287). -/
def State.releaseNow (s : State) (p : Party) (va : Nat) (bs : List Byte) : Acc State := do
  let t ← s.writeNow p va bs
  pure (t.publishOn (ctagCtx p.ctag) 0 3 (sigOf (s.linesNow p va bs.length)))

/-- Read physical bytes as `master` under a CTAG in one step: none where a check refuses them or they are poisoned (R334, R338).
`part`, `slot`: the node whose staged bytes are seen. -/
def State.readPhys (s : State) (master : Nat) (ctag : W16) (part : Nat) (slot : Option Nat) (pa n : Nat) : Option (List Byte) :=
  ((linePieces pa n).mapM fun (q : Nat × Nat) =>
    match s.unitRead master ctag part slot q.1 permR with
    | (.pass, d, p) => if poisonHit p q.1 q.2 then none else some ((pieceBytes (d, p) (q.1 % 128) q.2).map fun (b : PByte) => b.1)
    | _ => none).map List.flatten

/-- Whether `master` may write physical bytes under a CTAG (R334). -/
def State.mayWritePhys (s : State) (master : Nat) (ctag : W16) (pa n : Nat) : Bool :=
  (linePieces pa n).all fun q =>
    match destOf s.mem q.1 with
    | .dram loc => s.mem.checkAt loc master ctag q.1 permW == .pass
    | _ => false

/-- Numbers in rising order. -/
def insertNat (n : Nat) : List Nat → List Nat
  | [] => [n]
  | m :: l => if n ≤ m then n :: m :: l else m :: insertNat n l

/-- A list of numbers sorted, each once. -/
def sortNat (l : List Nat) : List Nat := l.eraseDups.foldl (fun a n => insertNat n a) []

end Sys2Proof.Machine
end

