-- ==== Sys2Proof/Machine/Sched.lean ====
section
/-! DEFINITION. The hardware scheduler: records and segments (R383-R385), successor signals (R377, R379), selection (R433-R435),
dispatch and placement (R24-R28, R39, R381, R390), retirement (R386, R392) and rollback (R388-R391). -/

namespace Sys2Proof.Machine

/-! ## Records and segments -/

/-- STATE codes of a record (R384). -/
def NodeState.code : NodeState → Nat
  | .waiting => 1 | .ready => 2 | .dispatched => 3 | .retiring => 4

/-- The 128 bytes of the fields of R375 as a record keeps them (R384). -/
def TaskRec.pieces (r : TaskRec) : List Piece :=
  [(0, 4, r.nodeid.toNat), (4, 4, r.graphid.toNat), (8, 8, r.attr.toNat), (0x10, 4, r.depcnt.toNat), (0x14, 4, r.nsucc.toNat)]
  ++ pieceRow 0x18 8 ([r.lo, r.hi, r.launch, r.opt, r.deadline, r.indesc, r.succ, r.done].map BitVec.toNat)

/-- A record read back (R384). -/
def TaskRec.ofReader (r : Reader) : TaskRec :=
  let w := fun off => BitVec.ofNat 64 (r off 8)
  { nodeid := BitVec.ofNat 32 (r 0 4), graphid := BitVec.ofNat 32 (r 4 4), attr := w 8, depcnt := BitVec.ofNat 32 (r 0x10 4)
    nsucc := BitVec.ofNat 32 (r 0x14 4), lo := w 0x18, hi := w 0x20, launch := w 0x28, opt := w 0x30, deadline := w 0x38
    indesc := w 0x40, succ := w 0x48, done := w 0x50 }

/-- The bytes of a live record (R384). -/
def Node.recordBytes (n : Node) : List Byte :=
  emit 128 (n.r.pieces ++ [(0x58, 4, n.remain), (0x5C, 1, n.st.code),
    (0x5D, 1, if n.st = .dispatched ∨ n.st = .retiring then (n.point.map (·.index)).getD 0xFF else 0xFF),
    (0x5E, 1, n.rolls), (0x5F, 1, flagBits [n.rb, n.rx, n.dar]), (0x60, 8, n.ready)])

/-- Nodes of a context, by NODEID. -/
def State.findNode (s : State) (ctx : Nat) (id : W32) : Option Node := s.nodes.find? fun n => n.ctx == ctx && n.r.nodeid == id

/-- Write machine-level bytes at a physical address. -/
def State.poke (s : State) (pa : Nat) (bs : List Byte) : State := s.writeBytes pa bs 0 0xFFFFFF

/-- The record of a node in its segment is brought up to date. -/
def State.mirror (s : State) (n : Node) : State := if n.seg = 0 then s else s.poke (n.seg + 128 + 128 * n.idx) n.recordBytes

/-- Change a node and its record. -/
def State.updNode (s : State) (ctx : Nat) (id : W32) (f : Node → Node) : State :=
  match s.findNode ctx id with
  | some n =>
    ({ s with nodes := mapIf (fun m => m.ctx == ctx && m.r.nodeid == id) f s.nodes } : State).mirror (f n)
  | none => s

/-- Queue `q`. -/
def State.queue (s : State) (q : Nat) : Queue := sget { hdr := 0, server := 0, ctag := 0 } s.queues q

/-- Change queue `q`. -/
def State.updQueue (s : State) (q : Nat) (f : Queue → Queue) : State := { s with queues := sinsert s.queues q (f (s.queue q)) }

/-- The header of a segment of queue `q` (R383). -/
def State.writeSegHeader (s : State) (q seg link : Nat) : State :=
  let live := s.nodes.filter fun n => n.seg == seg
  s.poke seg (emit 128 [(0, 8, link), (8, 8, (s.queue q).hdr.toNat), (0x10, 2, (s.queue q).ctag.toNat), (0x12, 2, live.length),
    (0x40, 64, natOfBits (fun i => live.any fun n => n.idx == i) 512)])

/-- The segments of a chain from `seg` on. -/
def State.chainFrom (s : State) : Nat → Nat → List Nat
  | 0, _ => []
  | n + 1, seg => if seg = 0 then [] else seg :: s.chainFrom n (s.mem.readNat seg 8)

/-- The segments of a queue, first to last. -/
def State.chain (s : State) (q : Nat) : List Nat := s.chainFrom 4096 (s.queue q).first

/-- Push a free segment on a context's pool (R385). -/
def State.pushSegment (s : State) (ctx seg : Nat) : State :=
  (s.poke seg (emit 128 [(0, 8, (s.ctx ctx).tsegpool.toNat)])).updCtx ctx fun x => { x with tsegpool := BitVec.ofNat 64 seg }

/-- Pop a segment and link it as the last of a queue (R384, R385). -/
def State.linkSegment (s : State) (q : Nat) : State :=
  let ctx := ctagCtx (s.queue q).ctag
  let seg := (s.ctx ctx).tsegpool.toNat
  let last := (s.queue q).seg
  let next := s.mem.readNat seg 8
  let s := s.updCtx ctx fun x => { x with tsegpool := BitVec.ofNat 64 next }
  let s := if last = 0 then s else s.writeSegHeader q last seg
  let s := s.updQueue q fun u => { u with first := if u.first = 0 then seg else u.first, seg := seg, full := false, noPool := false }
  s.writeSegHeader q seg 0

/-- A segment without live records returns to the pool, unless it is its queue's only one (R384). -/
def State.trimSegment (s : State) (q seg : Nat) : State :=
  let ch := s.chain q
  if ch.length ≤ 1 || s.nodes.any fun n => n.seg == seg then s
  else
    let rest := ch.filter (· != seg)
    let s := s.updQueue q fun u => { u with first := rest.headD 0, seg := rest.getLastD 0 }
    let s := (rest.zip (rest.drop 1 ++ [0])).foldl (fun s p => s.writeSegHeader q p.1 p.2) s
    s.pushSegment (ctagCtx (s.queue q).ctag) seg

/-- The first free record of a queue's current segment. -/
def State.freeRecord (s : State) (q : Nat) : Option Nat :=
  let seg := (s.queue q).seg
  if seg = 0 then none else (List.range 511).find? fun i => !(s.nodes.any fun n => n.seg == seg && n.idx == i)

/-- Ready nodes of a context are to be selected again (R435). -/
def State.reselect (s : State) (ctx : Nat) : State :=
  { s with nodes := mapIf (fun n => n.ctx == ctx && n.st == .ready) (fun n => { n with sel := true }) s.nodes }

/-- Free a record and what its node holds (R384, R386). -/
def State.freeNode (s : State) (n : Node) : State :=
  let s := { s with nodes := s.nodes.filter fun m => !(m.ctx == n.ctx && m.r.nodeid == n.r.nodeid) }
  let s := s.updMem fun m => { m with prots := m.prots.filter fun p => !(p.part == (s.ctx n.ctx).part && p.node == n.r.nodeid) }
  let s := if n.seg = 0 then s
    else
      let s := s.poke (n.seg + 128 + 128 * n.idx + 0x5C) [0]
      (s.writeSegHeader n.queue n.seg (s.mem.readNat n.seg 8)).trimSegment n.queue n.seg
  s.reselect n.ctx

/-! ## Logs and DONE words -/

/-- A scheduler record failure (R452, kind 0x0B). -/
def State.schedLog (s : State) (ctx detail addr id : Nat) : State :=
  s.logEvent 0x0B (schedSource ctx) (some (s.ctagOf ctx)) detail (BitVec.ofNat 64 addr) (BitVec.ofNat 64 id)

/-- A DONE word (R386). -/
def doneWord (gtc status : Nat) (dar rb rx : Bool) : Nat :=
  (gtc % 2 ^ 48) * 2 ^ 16 + (if rx then 1024 else 0) + (if rb then 512 else 0) + (if dar then 256 else 0) + status

/-- Write a DONE word at a virtual address of a context; a failed write is dropped and logged (R386). -/
def State.writeDone (s : State) (ctx : Nat) (addr : W64) (id : W32) (v : Nat) : State :=
  if addr = 0 ∨ addr.toNat % 8 ≠ 0 then s
  else
    match s.releaseNow (s.schedParty ctx) addr.toNat (leBytes v 8) with
    | .ok s => s
    | .error _ => s.schedLog ctx 0 addr.toNat id.toNat

/-- The DONE word of a node. -/
def State.nodeDoneWord (s : State) (n : Node) (status : Nat) : State :=
  s.writeDone n.ctx n.r.done n.r.nodeid (doneWord s.gtc status n.dar n.rb n.rx)

/-! ## Publication and signals (R377, R379) -/

/-- A node whose count has reached zero is ready, stamped now. -/
def Node.makeReady (n : Node) (gtc : Nat) : Node := { n with st := .ready, ready := gtc, since := gtc, sel := true }

/-- An excess signal (R379, R452). -/
def State.excessSignal (s : State) (ctx : Nat) (id : W32) (by_ : Nat) : State :=
  s.logEvent 8 (schedSource ctx) (some (s.ctagOf ctx)) 0 (id.setWidth 64) (BitVec.ofNat 64 by_)

/-- Publish a checked record in record `idx` of the queue's segment (R377). -/
def State.publishRecord (s : State) (q idx : Nat) (r : TaskRec) : State :=
  let ctag := (s.queue q).ctag
  let ctx := ctagCtx ctag
  let mine := fun (e : Early) => e.ctag == ctag && e.node == r.nodeid
  let early := ((s.early.filter mine).map (·.count)).foldl (· + ·) 0
  let dep := field r.depcnt 0 20
  let n : Node := { ctx := ctx, queue := q, seg := (s.queue q).seg, idx := idx, r := r, remain := dep - early }
  let n := if n.remain = 0 then n.makeReady s.gtc else n
  let s := { s with early := s.early.filter fun e => !mine e, nodes := s.nodes ++ [n] }
  let s := if dep < early then s.excessSignal ctx r.nodeid 0xFFFFFFFF else s
  ((s.mirror n).writeSegHeader q n.seg (s.mem.readNat n.seg 8)).reselect ctx

/-- Give one signal; none when the early-signal table has no room for it (R379). -/
def State.signal (s : State) (ctx : Nat) (id by_ : W32) : Option State :=
  match s.findNode ctx id with
  | some n =>
    if n.remain = 0 then some (s.excessSignal ctx id by_.toNat)
    else
      let f := fun (n : Node) => { n with remain := n.remain - 1 }
      some ((s.updNode ctx id fun n => if n.remain = 1 then (f n).makeReady s.gtc else f n).reselect ctx)
  | none =>
    let ctag := s.ctagOf ctx
    let open_ := fun (e : Early) => e.ctag == ctag && e.node == id && decide (e.count < 255)
    if s.early.any open_ then
      some { s with early := mapIf open_ (fun e => { e with count := e.count + 1 }) s.early }
    else if s.early.length < 64 then some { s with early := s.early ++ [{ ctag := ctag, node := id, count := 1 }] }
    else none

/-- Signal the successors of a retiring node from index `i` on; answers the index reached, and whether the list is done. -/
def State.signalFrom (s : State) (n : Node) : Nat → Nat → State × Nat × Bool
  | 0, i => (s, i, true)
  | fuel + 1, i =>
    let a := n.r.succ.toNat + 4 * i
    match s.readNow (s.schedParty n.ctx) permR a 4 with
    | .error _ => (s.schedLog n.ctx 2 a n.r.nodeid.toNat, i, true)
    | .ok bs =>
      if poisonedP bs then (s.schedLog n.ctx 2 a n.r.nodeid.toNat, i, true)
      else
        match (s.keepNow (s.schedParty n.ctx) a 4).signal n.ctx (BitVec.ofNat 32 (natOfP bs)) n.r.nodeid with
        | some s => s.signalFrom n fuel (i + 1)
        | none => (s, i, false)

/-! ## Selection (R433-R435) -/

/-- Legal pairs of ratio and divisor (R436). -/
def ratioOk (ratio div : Nat) : Bool :=
  match ratio with
  | 0 => div == 6 || div == 7
  | 1 => div == 4 || div == 5
  | 2 => div == 3 || div == 4
  | _ => false

/-- ATTR fields (R376). -/
def TaskRec.kind (r : TaskRec) : Nat := field r.attr 0 8
def TaskRec.prio (r : TaskRec) : Nat := field r.attr 8 3
def TaskRec.level (r : TaskRec) : Nat := field r.attr 11 3
def TaskRec.eclass (r : TaskRec) : Nat := field r.attr 16 4
def TaskRec.flags (r : TaskRec) : Nat := field r.attr 20 3

/-- Point `i` of an operating-point table, if it is valid (R433). -/
def opPoint (r : Reader) (i clusters : Nat) (tile : Bool) : Option OpPoint :=
  let q := r.at (32 * i)
  if q 0 1 = 1 ∧ ratioOk (q 1 1) (q 2 1) ∧ 1 ≤ q 4 1 ∧ q 4 1 ≤ clusters ∧ q 5 3 = 0 ∧ (!tile ∨ q 8 8 = 0) ∧ q 0x10 8 ≠ 0
      ∧ 1 ≤ q 0x18 4 ∧ q 0x18 4 ≤ 8000 ∧ q 0x1C 4 = 0 then
    some { index := i, ratio := q 1 1, div := q 2 1, nclu := q 4 1, launch := BitVec.ofNat 64 (q 8 8), dur := q 0x10 8, power := q 0x18 4
           fmt := q 3 1 }
  else none

/-- Whether the over-current alarm locks boost (R440). -/
def State.boostLocked (s : State) : Bool := s.power.occause != 0

/-- A point as it is used (R434). -/
def State.usedPoint (s : State) (p : OpPoint) : OpPoint :=
  if 1 ≤ s.power.grade then { p with ratio := 0, div := 6, dur := ceilDiv (p.dur * 6) p.div }
  else if p.div = 3 ∧ s.boostLocked then { p with ratio := 2, div := 4, dur := ceilDiv (p.dur * 4) 3 }
  else p

/-- A point that a node has been given, as it is used now: the written values under the substitutions of now (R23, R434). -/
def State.pointNow (s : State) (n : Node) (p : OpPoint) : OpPoint :=
  s.usedPoint (((n.points.getD []).find? fun q => q.index == p.index).getD p)

/-- One watt in the unit of power (R431). -/
def wattUnit : Nat := 16000000000

/-- Sum of POWER of the running nodes that satisfy `f` (R435). -/
def State.runningPower (s : State) (f : Node → Bool) : Nat :=
  ((s.nodes.filter fun n => n.st == .dispatched && (s.ctx n.ctx).state == .running && f n).map fun n => (n.point.map (·.power)).getD 0).foldl (· + ·) 0

/-- The headroom of a partition, in the unit of power (R435). -/
def State.headroom (s : State) (part : Nat) : Int :=
  let p := s.power
  let idle : Int := ((p.pidle + s.runningPower fun _ => true) * wattUnit : Nat)
  let h := ((p.c * (wattUnit / 100) : Nat) : Int) - (if p.p10 < idle then idle else p.p10)
  let cap := sget 0 p.pcap part
  let own := ((cap : Int) - (s.runningPower fun n => (s.ctx n.ctx).part == part : Nat)) * (wattUnit : Nat)
  if cap ≠ 0 ∧ own < h then own else h

/-- The least element of a list by a measure, the earliest of equals. -/
def leastBy {α : Type} (f : α → Nat) : List α → Option α
  | [] => none
  | a :: l =>
    match leastBy f l with
    | some b => if f b < f a then some b else some a
    | none => some a

/-- Effective priority: promotion applies while a node waits (R44). -/
def Node.priority (n : Node) : Nat := Nat.min 7 (n.r.prio + if n.st = .ready then n.promo else 0)

/-- Whether a node with a higher effective priority waits under rule 3 in the same partition (R435). -/
def State.blockedByWait (s : State) (n : Node) : Bool :=
  s.nodes.any fun m => m.waits.isSome && m.st == .ready && (s.ctx m.ctx).part == (s.ctx n.ctx).part && n.priority < m.priority

/-- The points of a node, read from its table once (R433): a poisoned table is logged. -/
def State.readPoints (s : State) (n : Node) : State × List OpPoint :=
  match n.points with
  | some l => (s, l)
  | none =>
    let p := s.part (s.ctx n.ctx).part
    let count := (p.wm1 + 1) * (p.hm1 + 1)
    match s.readNow (s.schedParty n.ctx) permR n.r.opt.toNat 128 with
    | .error _ => (s, [])
    | .ok bs =>
      if poisonedP bs then
        (s.logEvent 3 (schedSource n.ctx) (some (s.ctagOf n.ctx)) n.rolls n.r.opt (n.r.nodeid.setWidth 64), [])
      else
        let r := readerOf (bs.map (·.1)).toArray
        (s.keepNow (s.schedParty n.ctx) n.r.opt.toNat 128, (List.range 4).filterMap fun i => opPoint r i count (n.r.kind == 1))

/-- What rules 1 to 4 of R435 choose among the used points: the point, whether it is to wait, and DAR. -/
def choosePoint (ps : List OpPoint) (t d : Nat) (h : Int) : Option (OpPoint × Bool × Bool) :=
  let cands := if d = 0 then ps else ps.filter fun p => t + p.dur ≤ d
  let fits := cands.filter fun p => ((p.power * wattUnit : Nat) : Int) ≤ h
  match leastBy (fun p => p.power * p.dur) fits with
  | some p => some (p, false, false)
  | none =>
    match leastBy (·.power) cands with
    | some p => some (p, !(d != 0 && d - p.dur ≤ t), false)
    | none => (leastBy (·.dur) ps).map fun p => (p, false, true)

/-- OPERATING_POINT_SELECT (R435). -/
def execOperatingPointSelect (ctx : Nat) (node : W32) (s : State) : Out :=
  match s.findNode ctx node with
  | none => .next s
  | some n =>
    if n.st ≠ .ready ∨ (s.ctx ctx).state ≠ .running then .next s
    else
      let (s, ps) := s.readPoints n
      if ps.isEmpty then .next (s.updNode ctx node fun n => { n with points := some [], sel := false, status := some 1 })
      else
        let s := s.updNode ctx node fun n => { n with points := some ps, sel := false, point := none }
        if s.blockedByWait n then .next s
        else
          let h := s.headroom (s.ctx ctx).part
          let d := n.r.deadline.toNat
          let go := fun (p : OpPoint) (wait dar : Bool) =>
            s.updNode ctx node fun n => { n with
              point := if wait then none else some p
              waits := if wait then some p else none
              dar := n.dar || dar }
          match n.waits with
          | some p =>
            if ((p.power * wattUnit : Nat) : Int) ≤ h ∨ (d ≠ 0 ∧ d - p.dur ≤ s.gtc) then .next (go p false false) else .next s
          | none =>
            match choosePoint (ps.map s.usedPoint) s.gtc d h with
            | some (p, wait, dar) => .next (go p wait dar)
            | none => .next s

/-- PRIORITY_PROMOTION (R44, R395): 2 ms at a priority below 7. -/
def execPriorityPromotion (ctx : Nat) (node : W32) (s : State) : Out :=
  match s.findNode ctx node with
  | none => .next s
  | some n =>
    if n.st = .ready ∧ (s.ctx ctx).state = .running ∧ n.priority < 7 ∧ n.since + 14000000 ≤ s.gtc then
      .next (s.updNode ctx node fun n => { n with promo := n.promo + 1, since := s.gtc })
    else .next s

/-! ## Launch headers and blocks (R24-R28) -/

/-- Total width of the fields of a header whose tier satisfies `f`. -/
def fieldBits (nf : Nat) (fw pt : List Nat) (f : Nat → Bool) : Nat :=
  ((List.range nf).map fun i => if f (pt.getD i 0) then fw.getD i 0 else 0).foldl (· + ·) 0

/-- The checks of R24, R25, R27 and R28 on a header and a WID range. -/
def launchOk (r : Reader) (lo hi : Nat) : Bool :=
  let nf := r 4 1
  let fw := r.row 8 1 6
  let pt := r.row 0x10 1 6
  let grain := r 0x18 8
  let w := fieldBits nf fw pt fun _ => true
  let lw := fieldBits nf fw pt (· == 0)
  let bc := fieldBits nf fw pt (· ≤ 1)
  let entry := r.row 0x20 8 6
  r 0 2 == 1 && r 2 2 < 8 && 1 ≤ nf && nf ≤ 6 && 1 ≤ r 5 1 && r 5 1 ≤ 2 && 16 ≤ r 6 1 && r 6 1 ≤ 48 && r 7 1 < 16
    && ((List.range 6).all fun i => if i < nf then 1 ≤ fw.getD i 0 && fw.getD i 0 ≤ 64 else fw.getD i 0 == 0 && pt.getD i 0 == 0)
    && w ≤ 64 && r 0xE 2 == 0 && r 0x16 2 == 0 && ((List.range nf).all fun i => pt.getD i 0 ≤ 5)
    && ((List.range (nf - 1)).all fun i => pt.getD i 0 ≤ pt.getD (i + 1) 0)
    && grain != 0 && 2 ^ Nat.log2 grain == grain && 2 ^ lw ≤ grain && grain ≤ 2 ^ bc
    && (entry.all fun e => e % 4 == 0) && entry.getD 1 0 != 0 && ((r.row 0x50 8 6).all fun t => t % 16 == 0)
    && r 0x80 8 % 8 == 0 && (r 0x80 8 != 0 || r 0x88 4 == 0) && r 0x8C 52 == 0
    && lo % grain == 0 && lo < hi && (w == 64 || hi ≤ 2 ^ w)

/-- A launch header (R24). -/
def launchOf (hdr : W64) (r : Reader) : Launch :=
  { header := hdr, flags := r 2 2, nfield := r 4 1, regsl := r 5 1, l1sl := r 6 1, rings := r 7 1, fw := r.row 8 1 6, pt := r.row 0x10 1 6
    grain := BitVec.ofNat 64 (r 0x18 8), entry := (r.row 0x20 8 6).map (BitVec.ofNat 64), tt := (r.row 0x50 8 6).map (BitVec.ofNat 64)
    ckpt := BitVec.ofNat 64 (r 0x80 8), ckptN := r 0x88 4 }

/-- The fields of a WID whose tier satisfies `f`, read as one number, lower fields lower (R27, R381). -/
def Launch.tierValue (l : Launch) (f : Nat → Bool) (w : Nat) : Nat :=
  ((List.range l.nfield).foldl (fun (a : Nat × Nat × Nat) i =>
    let n := l.fw.getD i 0
    if f (l.pt.getD i 0) then (a.1 + nbits w a.2.2 n * 2 ^ a.2.1, a.2.1 + n, a.2.2 + n) else (a.1, a.2.1, a.2.2 + n)) (0, 0, 0)).1

/-- The placement blocks of a range: first WID, WID after the last (R28). -/
def Launch.blocks (l : Launch) (lo hi : Nat) : List (Nat × Nat) :=
  if (List.range l.nfield).all fun i => l.pt.getD i 0 ≤ 1 then [(lo, hi)]
  else
    let b := 2 ^ fieldBits l.nfield l.fw l.pt (· ≤ 1)
    (List.range (ceilDiv hi b - lo / b)).map fun i => (Nat.max lo ((lo / b + i) * b), Nat.min hi ((lo / b + i + 1) * b))

/-- The blocks of a node with the cluster each is assigned to (R381). -/
def Launch.assign (l : Launch) (r : TaskRec) (clusters : List Nat) : List RangeTask :=
  let fdev := field r.attr 24 16
  let kept := (l.blocks r.lo.toNat r.hi.toNat).filter fun b =>
    fdev < 2 || l.tierValue (· == 5) b.1 % fdev == field r.attr 40 16
  let group := fun (b : Nat × Nat) => l.tierValue (fun t => t == 3 || t == 4) b.1
  let groups := sortNat (kept.map group)
  let dies := sortNat (clusters.map dieOf)
  groups.zipIdx.flatMap fun g =>
    let die := dies.getD (g.2 % Nat.max 1 dies.length) 0
    let mine := clusters.filter fun c => dieOf c == die
    (kept.filter fun b => group b == g.1).zipIdx.map fun b =>
      { lo := BitVec.ofNat 64 b.1.1, hi := BitVec.ofNat 64 b.1.2, cluster := mine.getD (b.2 % Nat.max 1 mine.length) 0 }

/-! ## Jobs and teams (R33, R39, R41-R43, R381) -/

/-- The job of a node on a core. -/
def State.jobOf (s : State) (n : Node) (l : Launch) (run : Run) (l1sl : Nat) : Job :=
  let x := s.ctx n.ctx
  { ctx := n.ctx, ctag := s.ctagOf n.ctx, node := n.r.nodeid, run := run.num, slot := some run.slot, part := x.part, header := l.header
    flags := n.flags, nfield := l.nfield, fw := l.fw, regsl := l.regsl, l1sl := l1sl, rings := l.rings, entry := l.entry, tt := l.tt
    ckpt := l.ckpt, ckptN := l.ckptN, qpcap := x.qpcap, qpmin := x.qpmin, level := if x.priv then 1 else 0, eclass := n.r.eclass }

/-- The epochs of the four boards that a core uses, as a job takes them at its start (R289, R290). -/
def State.boardEpochs (s : State) (ctx c : Nat) : List W64 :=
  (List.range 4).map fun i => (sget {} (s.ctx ctx).boards (boardKey c (i + 1))).epoch

/-- A core as no job has touched it; what belongs to the core itself stays. -/
def Core.emptied (k : Core) : Core := { suspect := k.suspect, errors := k.errors, failed := k.failed }

/-- Start a job on core `c` with a range task (R33, R41-R43): CC alone, its registers zero, its arrays empty. -/
def State.startJob (s : State) (c : Nat) (j : Job) (lo hi grain : W64) : State :=
  let ep := s.boardEpochs j.ctx c
  s.updCore c fun k =>
    { k.emptied with
      scrubbed := k.scrubbed
      job := some j, range := { lo := lo, hi := hi, grain := grain, lo0 := lo, hi0 := hi }, lastEp := ep
      cc := { started := true, pc := j.entry.getD 1 0 } }

/-- Whether a core may serve a run: it is in the pool, idle, and not excluded (R39, R391, R392). -/
def State.serves (s : State) (n : Node) (run : Run) (c : Nat) : Bool :=
  let k := s.core c
  let pool := (List.range 8).filter fun i => !(s.core (8 * clusterOf c + i)).suspect
  let j := pool.findIdx (· == c % 8)
  !k.suspect && k.job.isNone && !n.excluded.contains c && match run.share with
    | none => true
    | some t => decide (j * 3 / Nat.max 1 pool.length = t)

/-- Start a team of a run on a cluster with its first block (R39, R274, R381). -/
def State.startTeam (s : State) (n : Node) (l : Launch) (run : Run) (k : Nat) (b : RangeTask) : State :=
  let cores := ((List.range 8).map (8 * k + ·)).filter (s.serves n run)
  let q := cores.length
  let g := l.grain.toNat
  let grains := ceilDiv (b.hi.toNat - b.lo.toNat) g
  let fresh := !(s.teams.any fun u => u.cluster == k && u.ctx == n.ctx)
  let s := if fresh then s.updCluster k fun u => { u with bars := [] } else s
  let team : Team := { cluster := k, ctx := n.ctx, node := n.r.nodeid, run := run.num, l1sl := l.l1sl, members := cores, present := cores }
  let s := { s with teams := s.teams ++ [team] }
  let s := cores.zipIdx.foldl (fun (s : State) p =>
    let at_ := fun i => BitVec.ofNat 64 (Nat.min b.hi.toNat (b.lo.toNat + i * grains / q * g))
    s.startJob p.1 (s.jobOf n l run l.l1sl) (at_ p.2) (at_ (p.2 + 1)) l.grain) s
  s.updNode n.ctx n.r.nodeid fun n =>
    let begun : Run → Run := fun r =>
      { r with tasks := r.tasks.erase b, pending := r.pending.filter (· != k), cores := (r.cores ++ cores).eraseDups }
    { n with runs := mapIf (fun r => r.num == run.num) begun n.runs }

/-- The lowest unstarted block of a run on a cluster. -/
def Run.firstTask (r : Run) (k : Nat) : Option RangeTask := leastBy (fun t => t.lo.toNat) (r.tasks.filter fun t => t.cluster == k)

/-- Start the team of a run on a cluster that is awake (R39, R447). -/
def State.startOn (s : State) (ctx : Nat) (node : W32) (num k : Nat) : State :=
  match s.findNode ctx node with
  | none => s
  | some n =>
    match n.runs.find? (fun r => r.num == num), n.launch with
    | some r, some l =>
      match r.firstTask k with
      | some b => s.startTeam n l r k b
      | none => s
    | _, _ => s

/-! ## Placement (R381, R387, R390) -/

/-- Whether a cluster is free for a node's run (R381): no team, no work that still belongs to it, some core that may serve, and not
gated by park. -/
def State.freeCluster (s : State) (n : Node) (run : Run) (k : Nat) : Bool :=
  !(s.teams.any fun u => u.cluster == k) && !(s.parkedDies.contains (dieOf k))
    && !((List.range 8).any fun i => (s.core (8 * k + i)).asks.isSome)
    && !(s.nodes.any fun m => m.runs.any fun r => r.pending.contains k || (r.tasks.any fun t => t.cluster == k)
      || (m.r.kind == 1 && r.clusters.contains k))
    && ((List.range 8).any fun i => s.serves n run (8 * k + i))

/-- Staging slots of a partition that are taken (R387). -/
def State.slotsTaken (s : State) (part : Nat) : List Nat :=
  (s.nodes.filter fun n => (s.ctx n.ctx).part == part).flatMap fun n => n.runs.map (·.slot)

/-- The lowest free staging slot of a partition. -/
def State.freeSlot (s : State) (part : Nat) (others : List Nat) : Option Nat :=
  (List.range 256).find? fun i => !(s.slotsTaken part ++ others).contains i

/-- Take the setting of a point to clusters (R437). -/
def State.applyPoint (s : State) (cs : List Nat) (p : OpPoint) : State :=
  let ratio := match p.ratio with
    | 0 => Ratio.lo
    | 1 => .mid
    | _ => .hi
  cs.foldl (fun s k => s.updCluster k fun u => { u with want := if u.ratio = ratio ∧ u.divisor = p.div then none else some (ratio, p.div) }) s

/-- A node that ends without running (R25, R386). -/
def State.endNode (s : State) (n : Node) (status : Nat) : State :=
  s.updNode n.ctx n.r.nodeid fun n => { n with status := some status, point := none, waits := none }

/-- The input ranges of a restartable node (R390), one more than may be protected where the count is larger. -/
def State.inputRanges (s : State) (n : Node) : Acc (List (Nat × Nat)) := do
  let p := s.schedParty n.ctx
  let cnt ← s.readNow p permR n.r.indesc.toNat 8
  let bs ← s.readNow p permR (n.r.indesc.toNat + 8) (16 * Nat.min 65 (natOfP cnt))
  let r := readerOf (bs.map (·.1)).toArray
  pure ((List.range (Nat.min 65 (natOfP cnt))).map fun i => (r (16 * i) 8, r (16 * i + 8) 8))

/-- Protect the inputs of a restartable node: none when they do not fit or cannot be read (R390). A node that was rolled back finds them
protected since its first dispatch (R390, R391). -/
def State.protectInputs (s : State) (n : Node) : Option State :=
  let part := (s.ctx n.ctx).part
  if !(n.flags.testBit 0) || n.r.indesc == 0 || (s.mem.prots.any fun p => p.part == part && p.node == n.r.nodeid) then some s
  else
    match s.inputRanges n with
    | .error (.bad f) => some (s.unitFault n.ctx (schedSource n.ctx) f)
    | .error _ => some s
    | .ok rs =>
      if 64 < (s.mem.prots.filter fun p => p.part == part).length + rs.length then none
      else
        some (s.updMem fun m => { m with prots := m.prots ++ rs.map fun r => { part := part, node := n.r.nodeid, base := r.1, len := r.2 } })

/-- The runs that a node starts now, with the clusters of each: two for a redundant node, on different clusters where the partition has
enough of them, else one after the other on shares of the same clusters; a third after two that differ (R381, R392). -/
def State.planRuns (s : State) (n : Node) (p : OpPoint) : Option (List Run) :=
  let part := (s.ctx n.ctx).part
  let all := (s.part part).clusters
  let start := n.runs.length
  let redundant := n.flags.testBit 2
  let apart := 2 * p.nclu ≤ all.length
  let mk := fun (i : Nat) (slot : Nat) => ({ num := i + 1, slot := slot, clusters := []
                                             share := if redundant && !apart then some i else none } : Run)
  match s.freeSlot part [] with
  | none => none
  | some s0 =>
    let free := all.filter (s.freeCluster n (mk start s0))
    if redundant && apart && start == 0 then
      match s.freeSlot part [s0] with
      | none => none
      | some s1 =>
        if 2 * p.nclu ≤ free.length then
          some [{ mk 0 s0 with clusters := free.take p.nclu }, { mk 1 s1 with clusters := (free.drop p.nclu).take p.nclu }]
        else none
    else if p.nclu ≤ free.length then some [{ mk start s0 with clusters := free.take p.nclu }]
    else none

/-- Wake the gated clusters of a run and start its teams on the others (R39, R447). -/
def State.launchRun (s : State) (n : Node) (run : Run) : State :=
  run.clusters.foldl (fun (s : State) k =>
    if (s.cluster k).gated then s.updCluster k (·.wakeUp s.gtc)
    else s.startOn n.ctx n.r.nodeid run.num k) s

/-- A node at its dispatch: its point is fixed, and it stops ageing; the time it has waited at its level is kept for a rollback, which keeps
its ageing (R44, R388, R435). -/
def Node.dispatchedAt (n : Node) (p : OpPoint) (gtc : Nat) : Node :=
  { n with st := .dispatched, point := some p, waits := none, since := if n.st = .ready then gtc - n.since else n.since }

/-- The POWER of a dispatched node counts at once: the nodes whose chosen points have yet to be dispatched are selected again under the
headroom that it leaves (R435). -/
def State.selectAgain (s : State) : State :=
  { s with nodes := s.nodes.map fun n => if n.st == .ready && n.point.isSome then { n with sel := true } else n }

/-- Place a job-launch node whose header is read (R25, R381). -/
def State.placeJobs (s : State) (n : Node) (l : Launch) (p : OpPoint) : State :=
  match s.planRuns n p with
  | none => s
  | some runs =>
    let runs := runs.map fun r =>
      let tasks := l.assign n.r r.clusters
      let used := r.clusters.filter fun k => tasks.any fun t => t.cluster == k
      { r with tasks := tasks, clusters := used, pending := used.filter fun k => (s.cluster k).gated }
    let n := ({ n with launch := some l, runs := n.runs ++ runs } : Node).dispatchedAt p s.gtc
    match s.protectInputs n with
    | none => s
    | some s =>
      let s := (s.updNode n.ctx n.r.nodeid fun _ => n).selectAgain
      let s := s.applyPoint (runs.flatMap (·.clusters)) p
      runs.foldl (fun s r => s.launchRun n r) s

/-- The unit that accepts a tile-instruction node, with its master ID and its translation unit (R180, R381). -/
def nodeAcceptor (level cluster : Nat) : Nat × Nat × Nat :=
  match level with
  | 2 => (cluster, 512 + cluster, cluster)
  | 3 => (dieOf cluster, 576 + dieOf cluster, cluster)
  | _ => (0, 584, 66)

/-- Source number of such an acceptor. -/
def acceptorSource (level cluster : Nat) : Nat := nodeSource (Nat.max 2 level) (nodeAcceptor level cluster).1

/-- The checks of a descriptor that no core issued (R179, R264, R381). -/
def orphanCheck (lvl : Nat) (d aux : BitVec 512) (haveAux : Bool) : Option FaultInfo :=
  let kind := pf d 0 1
  if kind = 8 ∨ 9 < kind then some (tileInvalid 0)
  else if tdFlag d 0 || tdFlag d 4 then some (tileInvalid 1)
  else ((descCheck kind lvl d).or (if haveAux then auxCheck kind d aux else none)).or (shapeCheck kind lvl d aux)

/-- A tile instruction that no core issued (R264, R381). -/
def orphanTile (id ctx : Nat) (ctag : W16) (part : Nat) (slot : Option Nat) (node : W32) (lvl unit : Nat) (clusters : List Nat)
    (d aux : BitVec 512) : TileIns :=
  { id := id, core := none, ctx := ctx, ctag := ctag, part := part, slot := slot, node := node, kind := pf d 0 1, level := lvl
    desc := d, aux := aux, clusters := clusters, nodes := [rootNode (pf d 0 1) lvl unit d false] }

/-- Place a tile-instruction node (R381). -/
def State.placeTile (s : State) (n : Node) (p : OpPoint) : State :=
  match s.planRuns n p with
  | none => s
  | some runs =>
    let lvl := n.r.level
    let k := ((runs.map (·.clusters)).headD []).headD 0
    let (unit, master, tu) := nodeAcceptor lvl k
    let src := acceptorSource lvl k
    let party := s.unitParty master tu n.ctx src
    let fail := fun (f : FaultInfo) => (s.unitFault n.ctx src f).updNode n.ctx n.r.nodeid fun n => { n with point := none }
    match s.readNow party permR n.r.launch.toNat 64 with
    | .error (.bad f) => fail f
    | .error _ => s
    | .ok bs =>
      let d := recordOf bs
      match (if pf d 0x30 8 = 0 then .ok [] else s.readNow party permR (pf d 0x30 8) 64) with
      | .error (.bad f) => fail f
      | .error _ => s
      | .ok ab =>
        if poisonedP bs || poisonedP ab then s.rollback n.ctx n.r.nodeid .poison
        else
          match orphanCheck lvl d (recordOf ab) (!ab.isEmpty) with
          | some f => fail f
          | none =>
            let s := s.keepNow party n.r.launch.toNat 64
            let runs := runs.zipIdx.map fun r =>
              { r.1 with tile := some (s.nextTile + r.2)
                         cores := (r.1.clusters.flatMap fun k => (List.range 8).map (8 * k + ·)).filter fun c => !(s.core c).suspect }
            let n := ({ n with flags := n.r.flags, runs := n.runs ++ runs } : Node).dispatchedAt p s.gtc
            match s.protectInputs n with
            | none => s
            | some s =>
              let s := (s.updNode n.ctx n.r.nodeid fun _ => n).selectAgain
              let s := s.applyPoint (runs.flatMap (·.clusters)) p
              let mk := fun (r : Run) => orphanTile (r.tile.getD 0) n.ctx (s.ctagOf n.ctx) (s.ctx n.ctx).part (some r.slot) n.r.nodeid lvl unit
                r.clusters d (recordOf ab)
              { s with tiles := s.tiles ++ runs.map mk, nextTile := s.nextTile + runs.length }

/-- Whether nodes of a context may be dispatched now (R381, R405). -/
def State.dispatches (s : State) (ctx : Nat) : Bool :=
  let p := (s.ctx ctx).part
  (s.ctx ctx).state == .running && !(s.halt p).stops && !(s.cuffs.any fun f => f.part == p)

/-- Whether park curtailment keeps a ready node of these flags from being dispatched: it is not essential (R442). -/
def State.parkHolds (s : State) (flags : Nat) : Bool := 2 ≤ s.power.grade && !flags.testBit 1

/-- NODE_DISPATCH (R25, R381, R387, R390-R392). The header is read and checked at the first attempt to dispatch the node, so one that
fails ends the node even while no clusters are free (log entry 92). -/
def execNodeDispatch (ctx : Nat) (node : W32) (s : State) : Out :=
  match s.findNode ctx node with
  | none => .next s
  | some n =>
    match n.point.map (s.pointNow n) with
    | none => .next s
    | some p =>
      let again := n.st == .dispatched && n.flags.testBit 2 && (n.runs.length < 2 || (n.runs.length == 2 && n.third))
      if !s.dispatches ctx || !(n.st == .ready || again) then .next s
      else if n.r.kind = 1 then
        if s.parkHolds n.r.flags then .next s else .next (s.placeTile { n with flags := n.r.flags } p)
      else
        match n.launch with
        | some l => if s.parkHolds n.flags then .next s else .next (s.placeJobs n l p)
        | none =>
          let hdr := if p.launch = 0 then n.r.launch else p.launch
          if hdr.toNat % 256 ≠ 0 then .next (s.endNode n 1)
          else
            match s.readNow (s.schedParty ctx) permR hdr.toNat 256 with
            | .error _ => .next (s.endNode n 1)
            | .ok bs =>
              if poisonedP bs then
                .next ((s.logEvent 3 (schedSource ctx) (some (s.ctagOf ctx)) n.rolls hdr (node.setWidth 64)).endNode n 1)
              else
                let r := readerOf (bs.map (·.1)).toArray
                if launchOk r n.r.lo.toNat n.r.hi.toNat then
                  let l := launchOf hdr r
                  let s := s.keepNow (s.schedParty ctx) hdr.toNat 256
                  if s.parkHolds (n.r.flags ||| l.flags) then .next s
                  else .next (s.placeJobs { n with flags := n.r.flags ||| l.flags } l p)
                else .next (s.endNode n 1)

/-! ## Retirement (R386, R392) -/

/-- Whether a run has finished (R382). -/
def State.runFinished (s : State) (n : Node) (r : Run) : Bool :=
  match r.tile with
  | some t => match s.tile t with
    | some u => u.done
    | none => true
  | none =>
    r.tasks.isEmpty && r.pending.isEmpty
      && !(s.cores.any fun p => match p.2.job with
        | some j => j.ctx == n.ctx && j.node == n.r.nodeid && j.run == r.num
        | none => p.2.asks == some (n.ctx, n.r.nodeid, r.num))

/-- The staged versions of a slot. -/
def State.stagedOf (s : State) (part slot : Nat) : List Version := s.mem.vers.filter fun v => v.owner == .staged part slot

/-- Discard the staged versions of a slot. -/
def State.dropStaged (s : State) (part slot : Nat) : State :=
  s.updMem fun m => { m with vers := m.vers.filter fun v => v.owner != .staged part slot }

/-- Whether two slots hold the same bytes under the same masks (R392). -/
def State.sameStaged (s : State) (part a b : Nat) : Bool :=
  let va := s.stagedOf part a
  let vb := s.stagedOf part b
  let sub := fun (x y : List Version) => x.all fun v => y.any fun w =>
    v.line == w.line && v.mask == w.mask && mergeLine 0 v.data v.mask == mergeLine 0 w.data w.mask
  sub va vb && sub vb va

/-- Commit the staged versions of a slot (R369, R386, R390): false while a line waits for the dirty log, or when one would change an
input of another node. -/
def State.commitStaged (s : State) (n : Node) (part : Nat) : List Version → State × Bool
  | [] => (s, true)
  | v :: vs =>
    let drop := fun (s : State) => s.updMem fun m => { m with vers := m.vers.erase v }
    if !s.mem.versionLive v || (locOf v.pa).isNone then (drop s).commitStaged n part vs
    else
      match s.protectedBy part n.r.nodeid v.va v.line v.mask v.data with
      | some p => (s.unitFault n.ctx (schedSource n.ctx) { code := .inputWrite, addr := v.va, det1 := p.node.setWidth 64 }, false)
      | none =>
        let p := s.schedParty n.ctx
        match (if v.epoch = some (s.epochOf v.ctag) then some s else s.dirtyWalk p.unit v.ctag v.va p.who) with
        | none => (s.waitForLog p.who, false)
        | some s => ((drop s).commitLine v.line v.mask v.data v.poison v.ctag 0xFFFFFF).commitStaged n part vs

/-- Every sector that a slot wrote is written with the poison syndrome (R392). -/
def State.poisonStaged (s : State) (part slot : Nat) : State :=
  (s.stagedOf part slot).foldl (fun s v =>
    s.updMem fun m => foldUpTo 4 (fun m i => if sectorMask v.mask i = 0 then m else m.setPoison (4 * v.line + i) true) m) s

/-- Cores become suspect (R392, R393). -/
def State.suspectCores (s : State) (cs : List Nat) : State := cs.foldl (fun s c => s.updCore c fun k => { k with suspect := true }) s

/-- Write the DONE word, then signal the successors of a committed node, then free it (R386). -/
def State.completeNode (s : State) (n : Node) (status : Nat) : State :=
  let s := s.nodeDoneWord n status
  let part := (s.ctx n.ctx).part
  let s := n.runs.foldl (fun s r => s.dropStaged part r.slot) s
  let s := s.dropTiles fun t => n.runs.any fun r => r.tile == some t.id
  if status ≠ 0 then s.freeNode n
  else
    let (s, i, done) := s.signalFrom n n.r.nsucc.toNat 0
    if done then s.freeNode n
    else s.updNode n.ctx n.r.nodeid fun n => { n with st := .retiring, next := i }

/-- Which run of a finished redundant node commits, and which cores it shows suspect (R392): none asks for a third run. -/
def State.compareRuns (s : State) (n : Node) : Option (Option Run × List Nat) :=
  let part := (s.ctx n.ctx).part
  match n.runs with
  | [a, b] => if s.sameStaged part a.slot b.slot then some (some a, []) else none
  | [a, b, c] =>
    if s.sameStaged part a.slot c.slot then some (some a, b.cores)
    else if s.sameStaged part b.slot c.slot then some (some b, a.cores)
    else some (none, a.cores ++ b.cores ++ c.cores)
  | a :: _ => some (some a, [])
  | [] => some (none, [])

/-- NODE_RETIRE (R386, R392). -/
def execNodeRetire (ctx : Nat) (node : W32) (s : State) : Out :=
  match s.findNode ctx node with
  | none => .next s
  | some n =>
    let part := (s.ctx ctx).part
    match n.status with
    | some st => if n.st = .retiring then .next s else .next (s.completeNode n st)
    | none =>
      if n.st ≠ .dispatched || (s.ctx ctx).state ≠ .running || !s.partRuns part || n.runs.any fun r => !s.runFinished n r then .next s
      else
        let redundant := n.flags.testBit 2
        if redundant && n.runs.length < 2 then .next s
        else
          match (if redundant then s.compareRuns n else some (n.runs.head?, [])) with
          | none =>
            .next (s.updNode ctx node fun n => { n with excluded := (n.excluded ++ n.runs.flatMap (·.cores)).eraseDups, third := true })
          | some (none, bad) =>
            let s := n.runs.foldl (fun s r => s.poisonStaged part r.slot) (s.suspectCores bad)
            .next (s.completeNode n 5)
          | some (some r, bad) =>
            let (s, done) := (s.suspectCores bad).commitStaged n part (s.stagedOf part r.slot)
            if done then .next (s.completeNode n 0) else .next s

/-- SIGNAL_STALL_RESUME (R379): a stalled retirement goes on where it stopped. -/
def execSignalStallResume (ctx : Nat) (node : W32) (s : State) : Out :=
  match s.findNode ctx node with
  | none => .next s
  | some n =>
    if n.st ≠ .retiring then .next s
    else
      let (s, i, done) := s.signalFrom n (n.r.nsucc.toNat - n.next) n.next
      if done then .next (s.freeNode n) else .next (s.updNode ctx node fun n => { n with next := i })

/-! ## Rollback (R388-R391) -/

/-- Whether a core runs a job of a node. -/
def Core.runsNode (k : Core) (ctx : Nat) (node : W32) : Bool :=
  match k.job with
  | some j => j.ctx == ctx && j.node == node
  | none => false

/-- A walk that the streams of core `c` no longer wait for. -/
def Walk.without (c : Nat) (w : Walk) : Walk :=
  { w with waiters := w.waiters.filter fun x => match x.2 with
      | .strm d _ => d != c
      | _ => true }

/-- A core loses its job with everything the job has not committed (R352, R388). -/
def State.clearCore (s : State) (c : Nat) : State :=
  (s.updCore c Core.emptied).updMem fun m =>
    { m with
      vers := m.vers.filter fun v => match v.owner with
        | .pending d _ => d != c
        | _ => true
      reqs := m.reqs.filter fun r => r.master != c
      walks := m.walks.map (Walk.without c)
      bd := m.bd.filter fun b => (b.nmv.map (·.1)) != some c }

/-- The jobs and tile children of a node stop, and what they have not committed is discarded (R388). -/
def State.stopNode (s : State) (ctx : Nat) (node : W32) : State :=
  let cores := (s.cores.filter fun p => p.2.runsNode ctx node).map (·.1)
  let s := cores.foldl State.clearCore s
  let s := { s with teams := s.teams.filter fun u => !(u.ctx == ctx && u.node == node) }.dropTiles fun t => t.ctx == ctx && t.node == node
  { s with cores := s.cores.map fun p => (p.1, match p.2.asks with
      | some (x, m, _) => if x = ctx ∧ m = node then { p.2 with asks := none } else p.2
      | none => p.2) }

/-- NODE_ROLLBACK (R388-R391). -/
def execNodeRollback (ctx : Nat) (node : W32) (cause : RollCause) (s : State) : Out :=
  if !(s.rollbacks.contains (ctx, node, cause)) then .next s
  else
    let s := { s with rollbacks := s.rollbacks.filter fun r => r != (ctx, node, cause) }
    match s.findNode ctx node with
    | none => .next (s.stopNode ctx node)
    | some n =>
      let part := (s.ctx ctx).part
      let served := n.runs.flatMap (·.cores)
      let s := n.runs.foldl (fun s r => s.dropStaged part r.slot) (s.stopNode ctx node)
      let rolls := if cause = .poison then n.rolls + 1 else n.rolls
      .next ((s.updNode ctx node fun n => { n with
        st := .ready, remain := 0, point := none, waits := none, sel := true, since := if n.st = .ready then n.since else s.gtc - n.since, runs := [], third := false
        rb := true, rolls := rolls
        rx := n.rx || cause == .hardware
        launch := if cause = .hardware then n.launch else none
        excluded := if cause = .hardware then (n.excluded ++ served).eraseDups else []
        status := if rolls = 3 ∧ cause = .poison then some 6 else n.status }).reselect ctx)

end Sys2Proof.Machine
end

