-- ==== Sys2Proof/Machine/Queue.lean ====
section
/-! DEFINITION. Registered queues and their servers (R260-R264), the decoding of task entries (R374-R378), segments that run out
(R384, R385), and the appends of the queue server (R261). -/

namespace Sys2Proof.Machine

/-! ## Task entries (R374-R376) -/

/-- Sizes of the fields of a task record, in bytes (R375). -/
def fieldSizes : List Nat := [4, 4, 8, 4, 8, 8, 8, 8, 8, 8, 8, 4, 8]

/-- Whether a first slot begins an entry of two slots (R374). -/
def twoSlots (a : BitVec 512) : Bool := pf a 0 1 == 0x31

/-- The payload of an entry: bytes 0 to 59 of the first slot, and the rest of a second. -/
def entryPayload (a b : BitVec 512) : Nat := pf a 3 60 + (if twoSlots a then pf b 1 62 * 2 ^ 480 else 0)

/-- The fields that a mask names, in ascending order from byte `at_` of a payload; none for those it leaves out, and the bytes used. -/
def payloadFields (mask payload : Nat) : Nat → Nat → List Nat → List (Option Nat) × Nat
  | _, at_, [] => ([], at_)
  | i, at_, n :: ns =>
    if mask.testBit i then
      let (l, e) := payloadFields mask payload (i + 1) (at_ + n) ns
      (some (nbits payload (8 * at_) (8 * n)) :: l, e)
    else
      let (l, e) := payloadFields mask payload (i + 1) at_ ns
      (none :: l, e)

/-- The record of an entry over the previous record: none where the entry fails R374. -/
def decodeEntry (prev : TaskRec) (a b : BitVec 512) : Option TaskRec :=
  let mask := pf a 1 2
  let payload := entryPayload a b
  let (fs, used) := payloadFields mask payload 0 0 fieldSizes
  let kind := pf a 0 1
  if (kind == 0x30 || kind == 0x31 && pf b 0 1 == 0x32) && mask < 2 ^ 13 && used ≤ (if twoSlots a then 122 else 60)
      && payload >>> (8 * used) == 0 then
    let get := fun (i : Nat) (d : Nat) => (fs.getD i none).getD d
    let w := fun (i : Nat) (d : W64) => BitVec.ofNat 64 (get i d.toNat)
    some { nodeid := BitVec.ofNat 32 (get 0 (prev.nodeid.toNat + 1)), graphid := BitVec.ofNat 32 (get 1 prev.graphid.toNat)
           attr := w 2 prev.attr, depcnt := BitVec.ofNat 32 (get 3 prev.depcnt.toNat), lo := w 4 prev.lo, hi := w 5 prev.hi
           launch := w 6 prev.launch, opt := w 7 prev.opt, deadline := w 8 prev.deadline, indesc := w 9 prev.indesc
           succ := w 10 prev.succ, nsucc := BitVec.ofNat 32 (get 11 prev.nsucc.toNat), done := w 12 prev.done }
  else none

/-- The checks of ATTR (R376). -/
def attrOk (a : W64) : Bool :=
  let kind := field a 0 8
  let lvl := field a 11 3
  let fdev := field a 24 16
  let fidx := field a 40 16
  kind ≤ 1 && (if kind = 0 then lvl == 0 else 2 ≤ lvl && lvl ≤ 4) && field a 14 2 == 0 && !bit a 23 && field a 56 8 == 0
    && (if fdev ≤ 1 then fidx == 0 else fidx < fdev)

/-- The checks of a record (R375, R376). -/
def recordOk (r : TaskRec) : Bool :=
  attrOk r.attr && field r.depcnt 20 12 == 0 && (r.kind != 1 || r.launch.toNat % 64 == 0) && r.opt != 0 && r.opt.toNat % 128 == 0
    && r.succ.toNat % 4 == 0 && r.nsucc.toNat ≤ 65536 && r.done.toNat % 8 == 0

/-! ## Serving a queue (R261-R264) -/

/-- Source number of the queue server (R403). -/
def queueServerSource : Nat := 8 * 4096 + 5 * 64

/-- The queue server working for a context. -/
def State.queueParty (s : State) (ctx : Nat) : Party := s.unitParty 892 69 ctx queueServerSource

/-- The header of a queue: WIDX, RIDX, BASE, LOG2N (R260). -/
def State.headerNow (s : State) (p : Party) (hdr : W64) : Acc (Nat × Nat × Nat × Nat) := do
  let w := natOfP (← s.readNow p permR hdr.toNat 32)
  pure (nbits w 0 64, nbits w 64 64, nbits w 128 64, nbits w 192 8)

/-- A slot of a ring, if its packet is complete (R260, R261). -/
def State.slotNow (s : State) (p : Party) (base lg i : Nat) : Acc (Option (BitVec 512)) := do
  let bs ← s.readNow p permR ((base + 64 * (i % 2 ^ lg)) % 2 ^ 64) 64
  let w := recordOf bs
  pure (if pf w 0x3F 1 = lapOf lg i then some w else none)

/-- Whether the queues of a context are served: its registration is current, and it is neither stopped nor being stopped (R354,
R396, R405). -/
def State.queuesServed (s : State) (ctag : W16) : Bool :=
  let x := s.ctx (ctagCtx ctag)
  s.ctagCurrent ctag && (x.state == .running || x.state == .empty)
    && (!x.res || !((s.halt x.part).stops || s.cuffs.any fun f => f.part == x.part))

/-- An access of the queue server that did not go on. -/
def State.queueStop (s : State) (ctx : Nat) (x : Stop) : State :=
  match x with
  | .wait s => s
  | .bad f => s.unitFault ctx queueServerSource f
  | .stale u => s.updMem fun m => m.countDrop u ctx
  | .poison _ => s

/-- RIDX moves to `r` as a release (R261); `f` then acts. -/
def State.advanceQueue (s : State) (q r : Nat) (f : State → State) : State :=
  let u := s.queue q
  let ctx := ctagCtx u.ctag
  match s.releaseNow (s.queueParty ctx) (u.hdr.toNat + 8) (leBytes r 8) with
  | .ok s => f (s.updQueue q fun u => { u with busy := false })
  | .error x => s.queueStop ctx x

/-- A task queue has had its turn among those of its context (R377). -/
def State.tookTurn (s : State) (q : Nat) : State := s.updCtx (ctagCtx (s.queue q).ctag) fun x => { x with lastQueue := q }

/-- The scheduler takes one complete entry (R377, R378): `n` slots, the first at address `a`, index `r`. The queue's first entry needs the
queue's first segment, whatever the entry holds (R384). -/
def State.publishEntry (s : State) (q r n slotAddr : Nat) (a b : BitVec 512) : State :=
  let u := s.queue q
  let ctx := ctagCtx u.ctag
  if u.seg = 0 then s.updQueue q fun u => { u with full := true }
  else match decodeEntry u.prev a b with
  | none => s.advanceQueue q (r + n) fun s => (s.schedLog ctx 1 slotAddr r).tookTurn q
  | some t =>
    if recordOk t && (s.findNode ctx t.nodeid).isNone then
      match s.freeRecord q with
      | none => s.updQueue q fun u => { u with full := true }
      | some i => s.advanceQueue q (r + n) fun s => ((s.publishRecord q i t).updQueue q fun u => { u with prev := t }).tookTurn q
    else
      s.advanceQueue q (r + n) fun s =>
        ((s.writeDone ctx t.done t.nodeid (doneWord s.gtc 2 false false false)).updQueue q fun u => { u with prev := t }).tookTurn q

/-- The Crown starts an entry (R264): the descriptor `a` with byte 0x3F read as zero, its AUX record `b`. -/
def State.crownEntry (s : State) (q : Nat) (a b : BitVec 512) : State :=
  let u := s.queue q
  let ctx := ctagCtx u.ctag
  let d := BitVec.ofNat 512 (a.toNat % 2 ^ 504)
  match orphanCheck 4 d (BitVec.ofNat 512 (b.toNat % 2 ^ 504)) (pf d 0x30 8 != 0) with
  | some f => s.unitFault ctx (acceptorSource 4 0) f
  | none =>
    let p := (s.ctx ctx).part
    let t := orphanTile s.nextTile ctx u.ctag p none 0xFFFFFFFF 4 0 (s.part p).clusters d (BitVec.ofNat 512 (b.toNat % 2 ^ 504))
    { s.updQueue q (fun u => { u with busy := true }) with tiles := s.tiles ++ [{ t with queue := some q }], nextTile := s.nextTile + 1 }

/-- A packet of queue `q` that stands complete in slot `r` is run (R262). -/
def State.servePacket (s : State) (q r base lg : Nat) (a : BitVec 512) : State :=
  let u := s.queue q
  let ctx := ctagCtx u.ctag
  let slotAddr := (base + 64 * (r % 2 ^ lg)) % 2 ^ 64
  let second := s.slotNow (s.queueParty ctx) base lg (r + 1)
  if isVoid a then s.advanceQueue q (r + 1) id
  else
    match u.server with
    | 1 =>
      match copyCheck a false true with
      | some off => s.unitFault ctx (serverSource (ctx % 2)) (copyInvalid off)
      | none =>
        let busy := s.updQueue q fun u => { u with busy := true }
        busy.updCx (598 + ctx % 2) fun x =>
          { x with queue := x.queue ++ [{ seq := x.nextSeq, pc := 0, kind := .copy (BitVec.ofNat 512 (a.toNat % 2 ^ 504)) false
                                          server := some (u.ctag, q) }], nextSeq := x.nextSeq + 1 }
    | 2 =>
      match second with
      | .ok (some b) => if (s.ctx ctx).res then s.crownEntry q a b else s
      | .ok none => s
      | .error x => s.queueStop ctx x
    | 3 =>
      if u.full then s
      else if twoSlots a then
        match second with
        | .ok (some b) => s.publishEntry q r 2 slotAddr a b
        | .ok none => s
        | .error x => s.queueStop ctx x
      else s.publishEntry q r 1 slotAddr a 0
    | _ =>
      let busy := s.updQueue q fun u => { u with busy := true }
      { busy with fw := { busy.fw with cmds := busy.fw.cmds ++ [{ slot := a, queue := some q }] } }

/-- QUEUE_SLOT_SERVE (R261-R264, R374-R378): a packet that has been run lets RIDX pass it; a free server takes the next one. -/
def execQueueSlotServe (queue : Nat) (s : State) : Out :=
  let u := s.queue queue
  let ctx := ctagCtx u.ctag
  if !s.queuesServed u.ctag || u.server == 0 then .next s
  else
    match s.headerNow (s.queueParty ctx) u.hdr with
    | .error x => .next (s.queueStop ctx x)
    | .ok (_, r, base, lg) =>
      let tile := s.tiles.find? fun t => t.queue == some queue && t.done
      if s.served.contains queue then
        .next (s.advanceQueue queue (r + 1) fun s => { s with served := s.served.filter (· != queue) })
      else if u.busy then
        match tile with
        | some t => .next (s.advanceQueue queue (r + 2) fun s => { s with tiles := s.tiles.filter fun v => v.id != t.id })
        | none => .next s
      else
        match s.slotNow (s.queueParty ctx) base lg r with
        | .error x => .next (s.queueStop ctx x)
        | .ok none => .next s
        | .ok (some a) => .next (s.servePacket queue r base lg a)

/-- Whether the scheduler would take an entry of a task queue now: it does not hold for a segment, and an entry stands complete, or the read
of it stops (R374, R377, R384). -/
def State.taskReady (s : State) (queue : Nat) : Bool :=
  let u := s.queue queue
  let p := s.queueParty (ctagCtx u.ctag)
  s.queuesServed u.ctag && !u.full && match s.headerNow p u.hdr with
    | .error _ => true
    | .ok (_, r, base, lg) =>
      match s.slotNow p base lg r with
      | .error _ => true
      | .ok none => false
      | .ok (some a) => !twoSlots a || match s.slotNow p base lg (r + 1) with
        | .ok none => false
        | _ => true

/-- The task queue of a context whose turn it is: of those that have an entry, the next after the one served last (R377). -/
def State.taskTurn (s : State) (ctx : Nat) : Option Nat :=
  let qs := (s.queues.filter fun q => q.2.server == 3 && ctagCtx q.2.ctag == ctx && s.taskReady q.1).map (·.1)
  (qs.find? fun q => decide ((s.ctx ctx).lastQueue < q)).or qs.head?

/-- QUEUE_OVERFLOW_TRAP (R384, R385): the SCP links a segment, or tells the manager that the pool is empty. -/
def execQueueOverflowTrap (queue : Nat) (s : State) : Out :=
  let u := s.queue queue
  let ctx := ctagCtx u.ctag
  if !u.full || u.noPool then .next s
  else if (s.ctx ctx).tsegpool != 0 then .next (s.linkSegment queue)
  else
    let pkt := slotOf [(0, 1, 0x22), (2, 2, u.ctag.toNat), (8, 8, u.hdr.toNat), slotStamp s]
    .next ((s.updQueue queue fun u => { u with noPool := true }).notifyManager ctx pkt)

/-! ## Appends of the queue server (R261) -/

/-- The messages for one manager that stand first for their queues. -/
def firstMessages (ctx : Nat) (l : List SvcMsg) : List SvcMsg :=
  (l.filter fun m => m.ctx == ctx).foldl (fun a m => if a.any fun b => b.hdr == m.hdr then a else a ++ [m]) []

/-- Claim an index for a message: a fetch-and-add of 1 on WIDX. -/
def State.claimSlot (s : State) (m : SvcMsg) : Acc (State × Nat) :=
  match m.index with
  | some i => .ok (s, i)
  | none => do
    let p := s.queueParty m.ctx
    let (w, _, _, _) ← s.headerNow p m.hdr
    let t ← s.writeNow p m.hdr.toNat (leBytes (w + 1) 8)
    pure (t, w)

/-- Append one message: its slot is claimed, and written once it is free. -/
def State.appendMessage (s : State) (m : SvcMsg) : State :=
  let p := s.queueParty m.ctx
  match s.claimSlot m with
  | .error x => s.queueStop m.ctx x
  | .ok (t, i) =>
    match t.headerNow p m.hdr with
    | .error x => t.queueStop m.ctx x
    | .ok (_, r, base, lg) =>
      let claimed := t.updMem fun k => { k with svc := mapIf (· == m) (fun m => { m with index := some i }) k.svc }
      if i < r + 2 ^ lg then
        let bs := leBytes (m.slot.toNat % 2 ^ 504 + lapOf lg i * 2 ^ 504) 64
        match t.releaseNow p ((base + 64 * (i % 2 ^ lg)) % 2 ^ 64) bs with
        | .ok t => t.updMem fun k => { k with svc := k.svc.erase m }
        | .error x => claimed.queueStop m.ctx x
      else claimed

/-- QUEUE_SERVER_APPEND (R261): every packet for a manager that stands first for its queue goes as far as it can. -/
def execQueueServerAppend (ctx : Nat) (s : State) : Out :=
  if !(s.ctx ctx).valid then .next (s.updMem fun m => { m with svc := m.svc.filter fun k => k.ctx != ctx })
  else .next ((firstMessages ctx s.mem.svc).foldl (fun s m => s.appendMessage m) s)

end Sys2Proof.Machine
end

