-- ==== Sys2Proof/Machine/Jobs.lean ====
section
/-! DEFINITION. The life of a job between its words: results landing (R56, R57), timers (R141), stalls (R38), pool spills (R331), the
start of a stream's fetch (R33, R42), retirement (R34, R35) and the search for work (R31, R32, R382). -/

namespace Sys2Proof.Machine

/-! ## Landing (R56, R57) -/

/-- Whether two writes go to one register (R57). -/
def Dst.meets : Dst → Dst → Bool
  | .tile z, .tileAll z' | .tileAll z, .tile z' => z == z'
  | .accum a, .accAll a' | .accAll a, .accum a' => a == a'
  | .count _ _, _ => false
  | a, b => a == b

/-- Whether the cycle count of a core has reached a cycle: both are 64 bits wide and wrap (R3). -/
def Core.reached (k : Core) (due : Nat) : Bool := decide ((k.now + 2 ^ 64 - due % 2 ^ 64) % 2 ^ 64 < 2 ^ 63)

/-- Whether a pending result lands at the end of this engine cycle: matrix and copy results and those that go with a hold always, the
others by VCYC. -/
def Core.lands (k : Core) (p : Pend) : Bool :=
  p.strm == .mx || p.strm == .cx || !p.timed || (k.cycleOpen && k.reached p.due)

/-- Put a result behind those issued before it. -/
def insertPend (p : Pend) : List Pend → List Pend
  | [] => [p]
  | q :: l => if p.ord < q.ord then p :: q :: l else q :: insertPend p l

/-- Results in issue order. -/
def sortPend (l : List Pend) : List Pend := l.foldl (fun a p => insertPend p a) []

/-- The results of a list that land on a register some other of them writes. -/
def colliding (l : List Pend) : List Pend :=
  let t := l.zipIdx
  (t.filter fun p => t.any fun q => p.2 != q.2 && p.1.dst.meets q.1.dst).map (·.1)

/-- Whether a result only sets bits of its register. -/
def Val.onlySets : Val → Bool
  | .orBits _ => true
  | _ => false

/-- Apply landing results in issue order. A write of FMASK does not survive a later one, save that bits set in it stay set where the
later one only sets bits as well (R57, R169; log entry 79). -/
def Core.applyPends (k : Core) : List Pend → Core
  | [] => k
  | p :: l =>
    let lost := p.dst == .fmask && l.any fun q => q.dst == .fmask && !(p.val.onlySets && q.val.onlySets)
    (if lost then k else k.writeDst p.dst p.val).applyPends l

/-- Results in the order in which they land: that of R55, with a control context's write of FMASK before the vector engine's (R127). -/
def landingOrder (l : List Pend) : List Pend :=
  let first := fun (p : Pend) => p.dst == .fmask && p.strm.isControl
  (sortPend l).filter first ++ (sortPend l).filter fun p => !first p

/-- A core at the end of an engine cycle, its results landed; of those that collide the latest stays, and their streams take WCOLL. -/
def Core.landResults (k : Core) : Core :=
  let now := landingOrder (k.pend.filter k.lands)
  let hit := colliding now
  let k' := { k with pend := k.pend.filter fun p => !k.lands p }
  let warned := hit.foldl (fun (k : Core) p => k.updStrm p.strm fun st => { st with warnSet := st.warnSet ||| warnIf true .wcoll }) k'
  warned.applyPends now

/-- RESULT_LAND (R56, R57). -/
def execResultLand (core : Nat) (s : State) : Out := .next (s.updCore core Core.landResults)

/-! ## Timers (R141) -/

/-- Whether the timer of a context fires at this edge. -/
def Stream.timerDue (st : Stream) (gtc : Nat) : Bool := st.armed && st.tcmp.toNat ≤ gtc

/-- Whether some timer of a core fires at this edge: not while its job is halted or pre-empted. -/
def State.timersDue (s : State) (c : Nat) : Bool :=
  let k := s.core c
  k.job.isSome && !(s.halt k.theJob.part).stops && !s.coreParked c && [StreamId.cl, .cc, .cs].any fun e => (k.strm e).timerDue s.gtc

/-- TIMER_FIRE (R141): every timer that has passed disarms, and one cause names them all. -/
def execTimerFire (core : Nat) (s : State) : Out :=
  if !s.timersDue core then .next s
  else
    let k := s.core core
    let fired := flagBits ([StreamId.cl, .cc, .cs].map fun e => (k.strm e).timerDue s.gtc)
    let t := (s.asyncCause core .timer k.trapStrm k.trapCode).updCore core fun k => { k with trapTmr := k.trapTmr ||| fired }
    .next (t.updCore core fun k => [StreamId.cl, .cc, .cs].foldl (fun k e =>
      k.updStrm e fun st => { st with armed := st.armed && !st.timerDue s.gtc }) k)

/-! ## Rendezvous, outstanding operations and stalls (R34, R38) -/

/-- Whether a stream has reached the rendezvous (R34). -/
def State.atRdv (s : State) (c : Nat) (e : StreamId) : Bool :=
  let k := s.core c
  let st := k.strm e
  let quiet := !(k.pend.any fun p => p.strm == e) && !(k.memq.any fun o => o.strm == e) && st.hold.isNone
  !st.started || (st.ended && quiet && match e with
    | .vx => !(s.mem.reqs.any fun r => r.master == c && r.strm == .vx)
    | .mx => k.mx.queue.isEmpty && k.mx.running.all (·.landed) && k.mx.nmvs.isEmpty
    | .cx => k.cx.queue.isEmpty && !(s.mem.reqs.any fun r => r.master == c && r.strm == .cx)
    | _ => true)

/-- The streams of a core that have not reached the rendezvous, by engine code. -/
def State.notAtRdv (s : State) (c : Nat) : Nat :=
  flagBits ([StreamId.cl, .cc, .cs, .vx, .mx, .cx].map fun e => !s.atRdv c e)

/-- Whether a copy, an advance or a halo waits only on an empty line of its source (R38, R255). -/
def State.waitsEmpty (s : State) (c : Nat) (q : CopyCmd) : Bool :=
  q.started && !q.complete && q.done < q.total && match q.kind with
    | .copy p _ =>
      pf p 4 1 == 1 && !(pf p 1 1).testBit 2
        && (segmentsOf (pf p 0x18 4) 4096 q.done (Nat.min 4096 (q.total - q.done))).any fun g =>
          match s.spRangeTarget c ((srcRow p g.1 + g.2.1) % 2 ^ 64) g.2.2 false with
          | some (d, off) => ((s.core d).spBytes off g.2.2).isNone
          | none => false
    | .halo dir n _ src _ _ _ _ =>
      match haloNeighbour c dir with
      | some d => ((s.core d).spBytes (src + 128 * q.done) (128 * Nat.min 32 (n - q.done))).isNone
      | none => false
    | _ => false

/-- Whether a word holds its stream while its request is with a unit away from the core (R337). -/
def Stream.asksUnit (st : Stream) : Bool :=
  match st.hold with
  | some { hold := some (.system _ _ _ _ _ _ _), .. } => true
  | _ => false

/-- Whether a stream of a core waits for a translation walk, a request that has left the core (R364). -/
def State.walksFor (s : State) (c : Nat) : Bool :=
  s.mem.walks.any fun w => w.waiters.any fun x =>
    match x.2 with
    | .strm d _ => d == c
    | _ => false

/-- Whether an operation of a job is outstanding in the sense of R38. -/
def State.jobBusy (s : State) (c : Nat) : Bool :=
  let k := s.core c
  s.walksFor c || ([StreamId.cl, .cc, .cs].any fun e => (k.strm e).asksUnit) ||
  !k.mx.queue.isEmpty || k.mx.running.any (fun r => !r.landed) || !k.mx.nmvs.isEmpty || k.cx.queue.any (fun q => !s.waitsEmpty c q)
    || !k.tilesOut.isEmpty || s.mem.reqs.any (fun r => r.master == c)

/-- The stall count of a core after an engine cycle (R38): it stands while the context is halted or the core is pre-empted (log
entry 99). -/
def State.stallNext (s : State) (c : Nat) : Nat :=
  let k := s.core c
  if k.job.isSome && ((s.halt k.theJob.part).stops || s.coreParked c) then k.stall
  else if k.job.isNone || k.issued || s.jobBusy c || s.notAtRdv c == 0 then 0 else k.stall + 1

/-- STREAM_STALL (R38): the fault names the streams that have not reached the rendezvous; the first of them, by stream code, raises it
(R278; log entry 99). -/
def execStreamStall (core : Nat) (s : State) : Out :=
  if (s.core core).stall < 65536 then .next s
  else
    let e := (StreamId.ofCode? (lowestBit (s.notAtRdv core) 6)).getD .cc
    let t := s.fault core e { code := .streamStall, det1 := BitVec.ofNat 64 (s.notAtRdv core) }
    .next (t.updCore core fun k => { k with stall := 0 })

/-! ## Pool spills (R331) -/

/-- Entries that the 4 KiB spill segment holds, at 64 bytes each. -/
def spillRoom : Nat := 64

/-- Entries of queue `q` in the pool above its minimum. -/
def Core.aboveMin (k : Core) (q : Nat) : Nat := k.poolCount q - field k.theJob.qpmin (8 * q) 8

/-- Cycles in which every stream of a job has held, some of them on a full pool, after an engine cycle (R331). -/
def Core.poolHoldNext (k : Core) : Nat := if k.job.isNone || k.issued || !k.poolHeld then 0 else k.poolHold + 1

/-- POOL_SPILL_TRAP (R331): the SCP moves entries of the queue furthest above its minimum into the spill segment. -/
def execPoolSpillTrap (core : Nat) (s : State) : Out :=
  let k := s.core core
  if k.poolHold < 4096 then .next s
  else
    let q := (leastBy (fun q => 2 ^ 16 - k.aboveMin q) (List.range 6)).getD 0
    let room := spillRoom - k.spilled.foldl (· + ·) 0
    .next (s.updCore core fun k =>
      { k with spilled := modifyAt k.spilled q (· + Nat.min room (k.aboveMin q)), poolHold := 0 })

/-! ## Streams begin to fetch (R33, R42) -/

/-- Whether the register slices of a core's job are scrubbed (R42). -/
def Core.slicesReady (k : Core) : Bool := (List.range k.theJob.regsl).all k.scrubbed.contains

/-- Whether a started stream may load its template table now: CC at once, the others once the slices are scrubbed. -/
def State.fetchDue (s : State) (c : Nat) (e : StreamId) : Bool :=
  let k := s.core c
  let st := k.strm e
  k.job.isSome && st.started && !st.fetching && !st.trapped && !(s.halt k.theJob.part).stops && (e == .cc || k.slicesReady)

/-- STREAM_FETCH_START (R33, R42, R66, R449): the table is loaded from the stream's TT image, or zeroed without one. -/
def execStreamFetchStart (core : Nat) (strm : StreamId) (s : State) : Out :=
  if !s.fetchDue core strm then .next s
  else
    let tt := (s.core core).theJob.tt.getD strm.code 0
    let start := fun (s : State) (t : Sparse W128) =>
      (foldUpTo 64 (fun s n => s.freshTemplate core strm n) s).updStrm core strm fun st => { st with fetching := true, table := t }
    if tt = 0 then .next (start s [])
    else
      let p := s.engineParty core strm
      match s.readVirt p true permR tt.toNat 1024 with
      | .ok bs =>
        if poisonedP bs then .next ((s.consumePoison core (s.paOf p tt)).updStrm core strm fun st => { st with trapped := true })
        else
          let r := readerOf (bs.map (·.1)).toArray
          .next (start s (sparseOf 0 ((r.row 0 16 64).map (BitVec.ofNat 128))))
      | .error (.wait s) => .next s
      | .error (.bad f) => .next (s.fault core strm f)
      | .error (.stale u) => .next (s.updMem fun m => m.countDrop u (s.core core).theJob.ctx)
      | .error (.poison _) => .next s

/-- A register slice whose scrub must be done by now: it takes at most 1,024 engine cycles for each slice (R42). -/
def Core.scrubLate (k : Core) : Option Nat :=
  if k.job.isNone then none else [0, 1].find? fun n => !k.scrubbed.contains n && decide (1024 * (n + 1) ≤ k.age)

/-- SLICE_SCRUB_COMPLETE (R42). -/
def execSliceScrubComplete (core slice : Nat) (s : State) : Out :=
  .next (s.updCore core fun k => if k.scrubbed.contains slice then k else { k with scrubbed := k.scrubbed ++ [slice] })

/-! ## Retirement (R34, R35) -/

/-- Whether CC and every stream that was started have reached the rendezvous, and nothing that the job issued is outstanding. -/
def State.mayRetire (s : State) (c : Nat) : Bool :=
  let k := s.core c
  k.job.isSome && k.cc.ended && s.notAtRdv c == 0 && k.tilesOut.isEmpty
    && !(s.mem.reqs.any fun r => r.master == c && r.ctag == k.theJob.ctag) && k.pend.isEmpty
    && k.trapBits == 0 && !k.hm && !k.svcWait && !(s.halt k.theJob.part).stops && k.saveOp.isNone && !s.coreParked c

/-- The end of a phase as a release at device scope: that of a job's last one holds CC until it is done (R35, R280, R407). -/
def retireOp (k : Core) : MemOp :=
  { strm := .cc, ord := k.issueOrd, pc := k.cc.pc, kind := .none, commit := some .all, newPhase := true, pub := some 3, hold := some .mem }

/-- A core leaves its team; with its last job the team ends (R39, R40). A job that a later split starts on it joins anew, and counts
toward the next generation. -/
def State.leaveTeam (s : State) (c : Nat) : State :=
  match s.teamOf c with
  | none => s
  | some u =>
    let out : Team → Team := fun u =>
      { u with members := u.members.filter (· != c), present := u.present.filter (· != c), arrived := u.arrived.filter fun a => a.1 != c }
    let s := s.updTeam c out
    let left := out u
    if left.members.isEmpty then
      { s with teams := s.teams.filter fun v => !(v.cluster == u.cluster && v.ctx == u.ctx && v.node == u.node && v.run == u.run) }
    else s.closeGenerations c left

/-- WIDs that a job has not claimed return to its run (R32). -/
def State.returnRange (s : State) (c : Nat) : State :=
  let k := s.core c
  let j := k.theJob
  if k.range.lo.toNat < k.range.hi.toNat then
    let back : Run → Run := fun r =>
      { r with tasks := r.tasks ++ [{ lo := k.range.lo, hi := k.range.hi, cluster := clusterOf c }] }
    s.updNode j.ctx j.node fun n => { n with runs := mapIf (fun r => r.num == j.run) back n.runs }
  else s

/-- JOB_RETIRE (R35): first the last phase is committed; then the core is emptied and asks for work. -/
def execJobRetire (core : Nat) (s : State) : Out :=
  let k := s.core core
  let j := k.theJob
  if !k.retiring then
    if s.mayRetire core then
      .next (s.updCore core fun k => { k.updStrm .cc fun st => { st with hold := some (retireOp k) } with retiring := true })
    else .next s
  else if k.cc.hold.isSome || k.job.isNone then .next s
  else
    let s := ((s.dropLines core fun _ => true).returnRange core).leaveTeam core
    .next (s.updCore core fun k => { k.emptied with asks := some (j.ctx, j.node, j.run) })

/-! ## Asking for work (R31, R382) -/

/-- Start a job on a core that asks, in the team of its cluster or in a new one (R39). Where the last job of the cluster's team has
retired before, the spec does not say which team the job belongs to: the model starts a new one of that core alone, and the other cores
ask for work as they retire (log entry 92). -/
def State.startAsker (s : State) (n : Node) (l : Launch) (r : Run) (c : Nat) (lo hi : W64) : State :=
  let mine := fun (u : Team) => u.cluster == clusterOf c && u.ctx == n.ctx && u.node == n.r.nodeid && u.run == r.num
  let s := s.updNode n.ctx n.r.nodeid fun n =>
    let serve : Run → Run := fun r => { r with cores := (r.cores ++ [c]).eraseDups }
    { n with runs := mapIf (fun q => q.num == r.num) serve n.runs }
  match s.teams.find? mine with
  | some u =>
    let join : Team → Team := fun u => { u with members := u.members ++ [c] }
    ({ s with teams := mapIf mine join s.teams } : State).startJob c (s.jobOf n l r u.l1sl) lo hi l.grain
  | none =>
    let u : Team := { cluster := clusterOf c, ctx := n.ctx, node := n.r.nodeid, run := r.num, l1sl := l.l1sl, members := [c], present := [c] }
    ({ s with teams := s.teams ++ [u] } : State).startJob c (s.jobOf n l r l.l1sl) lo hi l.grain

/-- The running job of a run on a cluster whose range has most left, the lower core of equals (R31). -/
def State.largestRange (s : State) (n : Node) (num k : Nat) : Option (Nat × Nat) :=
  let left := fun (c : Nat) => (s.core c).range.hi.toNat - (s.core c).range.lo.toNat
  let runs := ((List.range 8).map (8 * k + ·)).filter fun c =>
    match (s.core c).job with
    | some j => j.ctx == n.ctx && j.node == n.r.nodeid && j.run == num && !(s.core c).retiring
    | none => false
  (leastBy (fun c => 2 ^ 64 - left c) runs).map fun c => (c, left c)

/-- Where a range of `left` WIDs from `lo` is split (R31). -/
def splitPoint (lo left grain : Nat) : Nat := lo + grain * ceilDiv (ceilDiv left 2) grain

/-- WORK_REQUEST (R31, R382): an unstarted task of the core's node and cluster, else the upper half of a running range, else
nothing. -/
def execWorkRequest (core : Nat) (s : State) : Out :=
  match (s.core core).asks with
  | none => .next s
  | some (ctx, node, num) =>
    let idle := s.updCore core fun k => { k with asks := none }
    match s.findNode ctx node with
    | none => .next idle
    | some n =>
      match n.runs.find? (fun r => r.num == num), n.launch with
      | some r, some l =>
        if !s.dispatches ctx then .next s
        else if !s.serves n r core then .next idle
        else
          match r.firstTask (clusterOf core) with
          | some t =>
            let took : Run → Run := fun r => { r with tasks := r.tasks.erase t }
            .next ((idle.updNode ctx node fun n => { n with runs := mapIf (fun q => q.num == num) took n.runs }).startAsker n l r core t.lo t.hi)
          | none =>
            match s.largestRange n num (clusterOf core) with
            | some (d, left) =>
              if left < 2 * l.grain.toNat then .next idle
              else
                let hi := (s.core d).range.hi
                let cut := BitVec.ofNat 64 (splitPoint (s.core d).range.lo.toNat left l.grain.toNat)
                .next ((idle.updCore d fun k => { k with range := { k.range with hi := cut } }).startAsker n l r core cut hi)
            | none => .next idle
      | _, _ => .next idle

end Sys2Proof.Machine
end

