-- ==== Sys2Proof/Machine/Incarn.lean ====
section
/-! DEFINITION. Context incarnations: the kill (R352), the installs (R351, R356), and the completion of a reclaim (R350, R353, R354,
R394). -/

namespace Sys2Proof.Machine

/-! ## The kill (R352) -/

/-- The core whose dirty-set walk waits under a number, if a core's does (R371). -/
def coreOfWho (who : Nat) : Option Nat := if 2 ^ 40 ≤ who ∧ who < 2 ^ 41 then some ((who - 2 ^ 40) / 8) else none

/-- A server drops the commands it runs for a context. -/
def Cx.dropContext (x : Cx) (ctx : Nat) : Cx :=
  { x with queue := x.queue.filter fun q => (q.server.map fun t => ctagCtx t.1) != some ctx }

/-- Cores that run, or last ran, work of a context. -/
def State.coresOf (s : State) (ctx : Nat) : List Nat :=
  (s.cores.filter fun p =>
    (match p.2.job with
      | some j => j.ctx == ctx
      | none => false) || (p.2.asks.map (·.1)) == some ctx).map (·.1)

/-- Kill a context (R352): its cores lose everything, its servers stop and abandon what they have begun, its boards are reset. What has left
its core, walks among it, is decided where it is performed (R348). -/
def State.kill (s : State) (ctx : Nat) : State :=
  let cores := s.coresOf ctx
  let x := s.ctx ctx
  let ours := fun (q : Nat) => ctagCtx (s.queue q).ctag == ctx
  let s := cores.foldl (fun s c => s.updCore c Core.emptied) s
  let s := s.updMem fun m =>
    { m with
      reqs := m.reqs.filter fun r => !(ctagCtx r.ctag == ctx && r.stage == .arrived)
      walks := mapIf (fun w => ctagCtx w.ctag == ctx) (fun w => { w with waiters := [] }) m.walks
      logWait := m.logWait.filter fun w =>
        !(match coreOfWho w with
          | some c => cores.contains c
          | none => false) }
  let s := { s with
    teams := s.teams.filter fun u => u.ctx != ctx
    tiles := s.tiles.filter fun t => t.ctx != ctx
    rollbacks := s.rollbacks.filter fun r => r.1 != ctx
    server0 := s.server0.dropContext ctx, server1 := s.server1.dropContext ctx
    served := s.served.filter fun q => !ours q
    queues := s.queues.map fun (p : Nat × Queue) => (p.1, if ctagCtx p.2.ctag = ctx then { p.2 with busy := false } else p.2)
    fw := { s.fw with cmds := s.fw.cmds.filter fun c => !((c.queue.map ours).getD false) }
    cuffs := s.cuffs.filter fun f => !(x.res && f.part == x.part) }
  let s := s.updCtx ctx fun x => { x with boards := [], state := .halted, stoppedAt := if x.state = CtxState.running then s.gtc else x.stoppedAt }
  if x.res then s.updHalt x.part fun _ => { raised := true, gtc := s.gtc, kill := true, complete := true } else s

/-! ## Installs (R351, R356) -/

/-- Whether every table of the device holds a bump. -/
def Bump.onDevice (b : Bump) : Bool := (List.range unitCount).all b.done.contains

/-- Whether every table of the device and of the fabric set holds it. -/
def State.bumpInstalled (s : State) (b : Bump) : Bool := b.onDevice && (b.peer || (s.ctx b.ctx).fabset.all b.peers.contains)

/-- The bump of a context whose reclaim has not completed. -/
def State.pendingBump (s : State) (ctx : Nat) : Option Bump := s.mem.bumps.find? fun b => b.ctx == ctx && !b.reclaimed

/-- Change a bump; one that is reclaimed and installed everywhere is done. -/
def State.updBump (s : State) (b : Bump) (f : Bump → Bump) : State :=
  let s := s.updMem fun m => { m with bumps := mapIf (· == b) f m.bumps }
  s.updMem fun m => { m with bumps := m.bumps.filter fun b => !(b.reclaimed && s.bumpInstalled b) }

/-- Begin a bump (R351 steps 3 and 4); `peer`: one that a peer has begun (R356). -/
def State.bump (s : State) (ctx : Nat) (peer : Bool := false) : State :=
  let s := (s.kill ctx).updCtx ctx fun x => { x with inc := x.inc + 1 }
  s.updMem fun m => { m with bumps := m.bumps ++ [{ ctx := ctx, inc := (s.ctx ctx).inc, done := [], peer := peer }] }

/-- INCARNATION_INSTALL (R351): one table takes the new incarnation, with PEND set. -/
def execIncarnationInstall (unit ctx : Nat) (s : State) : Out :=
  match s.mem.bumps.find? fun b => b.ctx == ctx && !b.done.contains unit with
  | none => .next s
  | some b =>
    let s := s.updMem fun m =>
      { m with inc := supd {} m.inc (1024 * unit + ctx) fun e => { e with cur := b.inc, pend := !b.reclaimed } }
    .next (s.updBump b fun b => { b with done := b.done ++ [unit] })

/-- PEER_INSTALL (R356): a device of the fabric set reports that it has installed a bump, and later that it has drained. Where the device is this
one, the bump is a peer's: this device kills the context's cores and installs the new incarnation. -/
def execPeerInstall (device ctx : Nat) (s : State) : Out :=
  if device = s.mem.devId then
    if (s.pendingBump ctx).isSome || !(s.ctx ctx).valid then .next s else .next (s.bump ctx true)
  else
  match s.mem.bumps.find? fun b => b.ctx == ctx && (s.ctx ctx).fabset.contains device with
  | none => .next s
  | some b =>
    if b.peers.contains device then
      .next (s.updBump b fun b => { b with peersDrained := (b.peersDrained ++ [device]).eraseDups })
    else .next (s.updBump b fun b => { b with peers := b.peers ++ [device] })

/-- The firmware of a peer reports whether it runs cores of a context (R356): which peer, which context and what it says are free. A device that
does enters the context's fabric set. -/
def State.peerReport (s : State) : State :=
  let dev := Config.choice s.free % Nat.max 1 s.mem.domain
  match s.ctxs[Config.choice (s.free + 1) % Nat.max 1 s.ctxs.length]? with
  | some x =>
    if dev = s.mem.devId || !x.2.valid then s.drawn.drawn.drawn
    else if Config.choice (s.free + 2) % 2 = 0 then
      (s.drawn.drawn.drawn.joinFabric x.1 dev).updCtx x.1 fun x => { x with peerCores := (x.peerCores ++ [dev]).eraseDups }
    else s.drawn.drawn.drawn.updCtx x.1 fun x => { x with peerCores := x.peerCores.filter (· != dev) }
  | none => s.drawn.drawn.drawn

/-- PEER_DRAIN_TIMEOUT (R356): a device whose links have all been down for 10 ms counts as drained. -/
def execPeerDrainTimeout (device ctx : Nat) (s : State) : Out :=
  match s.pendingBump ctx with
  | none => .next s
  | some b =>
    let down := fun (l : Link) => !l.up && l.down + 70000000 ≤ s.gtc
    if (s.ctx ctx).fabset.contains device && (s.links.filter fun l => l.2.reaches.contains device).all (fun l => down l.2) then
      .next (s.updBump b fun b => { b with peersDrained := (b.peersDrained ++ [device]).eraseDups })
    else .next s

/-- LINK_RESYNC (R356): the peers behind a link that has recovered take the tables of this device. -/
def execLinkResync (link : Nat) (s : State) : Out :=
  let l : Link := sget {} s.links link
  if !l.up || !l.resync then .next s
  else
    let s := { s with links := sinsert s.links link { l with resync := false } }
    let behind := fun (b : Bump) => l.reaches.filter fun d => (s.ctx b.ctx).fabset.contains d
    .next (s.mem.bumps.foldl (fun s b => s.updBump b fun b => { b with peers := (b.peers ++ behind b).eraseDups }) s)

/-! ## Reclaim (R350, R353, R354, R394) -/

/-- Whether a CTAG is of a context's old incarnation. -/
def State.oldTag (s : State) (ctx : Nat) (t : W16) : Bool := ctagCtx t == ctx && s.ctagOf ctx != t

/-- The unit that holds a request of a core, if one does (R347): on its way and for its response, the home or the link egress; for its
dirty-set walk, the walker. What its core has accepted, and what a link has discarded, is held nowhere. -/
def State.holderOfReq (s : State) (r : Req) : Option Nat :=
  match r.stage with
  | .dirty => some (walkerUnit (clusterOf r.master))
  | .home | .reply | .notice =>
    match destOf s.mem r.pa with
    | .dram loc => some (homeOf loc)
    | .peer dev _ => some (unitEgress ((s.linkFor dev r.pa).getD 0))
    | _ => some (unitCore r.master)
  | .arrived | .lost => none

/-- The unit that holds a request at a base-die port: the home's slice group until it issues, then the base die. -/
def BdReq.holder (b : BdReq) : Option Nat :=
  if b.wb || b.replied || b.dropped then none
  else if b.tag = 8 then some (homeOf (2 ^ 40 + b.stack * 2 ^ 36 + b.addr * 32)) else some (unitBaseDie b.stack)

/-- INF0 and INF1 of a context's entry at a unit (R346, R347): the packets of a parity that the unit holds. -/
def State.inFlight (s : State) (unit ctx : Nat) (odd : Bool) : Nat :=
  let mine := fun (t : W16) => ctagCtx t == ctx && bit t 0 == odd
  (s.mem.reqs.filter fun r => mine r.ctag && s.holderOfReq r == some unit).length
    + (s.mem.bd.filter fun b => mine b.ctag && b.holder == some unit).length
    + (s.mem.walks.filter fun w => mine w.ctag && walkerUnit w.unit == unit).length
    + (s.fabTiles.filter fun f => mine f.ctag && unit == unitCrown).length

/-- Whether the counts of the old parity have read zero on every table of the device and of the fabric set (R353, R356). -/
def State.drained (s : State) (b : Bump) : Bool :=
  b.onDevice && ((List.range unitCount).all fun u => s.inFlight u b.ctx (bit (b.inc - 1) 0) == 0)
    && (b.peer || (s.ctx b.ctx).fabset.all b.peersDrained.contains)

/-- Whether a held `reclaim` names a context and waits for this bump of it (R355). -/
def State.reclaimHeld (s : State) (b : Bump) : Bool :=
  s.cores.any fun p => [StreamId.cl, .cc, .cs].any fun e =>
    match ((p.2.strm e).hold).bind (·.hold) with
    | some (.system 0x387 _ a _ _ 1 aux) => field a 0 10 == b.ctx && aux == [b.inc.toNat]
    | _ => false

/-- Whether a context's reclaim may complete: by a manager's word, by that of the peer that began the bump, or after shed curtailment (R353, R356,
R442). -/
def State.reclaimReady (s : State) (ctx : Nat) : Bool :=
  match s.pendingBump ctx with
  | some b => s.drained b && (s.reclaimHeld b || b.peer || (s.ctx ctx).shed)
  | none => false

/-- A node before another by NODEID. -/
def insertNode (n : Node) : List Node → List Node
  | [] => [n]
  | m :: l => if n.r.nodeid.toNat < m.r.nodeid.toNat then n :: m :: l else m :: insertNode n l

/-- The live nodes of a killed context end (R394): DONE words in rising NODEID, then everything of theirs is freed. -/
def State.endNodes (s : State) (ctx : Nat) : State :=
  let mine := (s.nodes.filter fun n => n.ctx == ctx).foldl (fun a n => insertNode n a) []
  let s := mine.foldl (fun s n => s.nodeDoneWord n (if (s.ctx ctx).shed then 3 else 4)) s
  let s := (mine.filter fun n => n.seg != 0).foldl (fun s n => s.poke (n.seg + 128 + 128 * n.idx + 0x5C) [0]) s
  let part := (s.ctx ctx).part
  { s with
    nodes := s.nodes.filter fun n => n.ctx != ctx
    early := s.early.filter fun e => ctagCtx e.ctag != ctx
    mem := { s.mem with prots := s.mem.prots.filter fun p => !(p.part == part && mine.any fun n => n.r.nodeid == p.node) } }

/-- One registered queue under the new CTAG (R354): RIDX goes to WIDX, and a task queue starts anew. -/
def State.resetQueue (s : State) (q : Nat) : State :=
  let u := s.queue q
  let ctx := ctagCtx u.ctag
  let s := (s.chain q).foldl (fun s seg => s.pushSegment ctx seg) s
  let s := s.updQueue q fun u =>
    { u with ctag := s.ctagOf ctx, prev := {}, first := 0, seg := 0, full := false, noPool := false, busy := false }
  let p := s.queueParty ctx
  match s.headerNow p u.hdr with
  | .error _ => s
  | .ok (w, _, _, _) =>
    match s.releaseNow p (u.hdr.toNat + 8) (leBytes w 8) with
    | .ok s => s
    | .error _ => s

/-- The reclaim summary (R354), with the counts that it takes. -/
def State.reclaimSummary (s : State) (ctx : Nat) (b : Bump) : State :=
  let es := (List.range unitCount).map fun u => sget {} s.mem.inc (1024 * u + ctx)
  let sum := fun (f : IncEnt → Nat) => BitVec.ofNat 64 (Nat.min (2 ^ 32 - 1) ((es.map f).foldl (· + ·) 0))
  let e : LogEnt := { d0 := logHead 7 (8 * 4096) (Sys2Proof.Machine.ctagOf ctx (b.inc - 1)) 0, d1 := sum (·.drops), d2 := sum (·.orph), d3 := BitVec.ofNat 64 s.gtc }
  let clear := fun (m : Mem) (u : Nat) => { m with inc := supd {} m.inc (1024 * u + ctx) fun e => { e with drops := 0, orph := 0, pend := false } }
  ((s.pushLog 1024 e).pushLog (s.ctx ctx).mgr e).updMem fun m => foldUpTo unitCount clear m

/-- RECLAIM_COMPLETE (R353): slots and stale versions go, nodes end, queues are reset, the summary is logged, and STATE is EMPTY. -/
def execReclaimComplete (ctx : Nat) (s : State) : Out :=
  match s.pendingBump ctx with
  | none => .next s
  | some b =>
    if !s.reclaimReady ctx then .next s
    else
      let s := s.updMem fun m =>
        { m with
          reqs := m.reqs.filter fun r => !s.oldTag ctx r.ctag
          vers := m.vers.filter fun v => !s.oldTag ctx v.ctag
          bd := m.bd.filter fun r => !(s.oldTag ctx r.ctag && !r.wb)
          tcache := m.tcache.filter fun e => !s.oldTag ctx e.ctag }
      let s := s.endNodes ctx
      let qs := (s.queues.filter fun p => ctagCtx p.2.ctag == ctx).map (·.1)
      let s := qs.foldl (fun s q => s.resetQueue q) s
      let s := s.reclaimSummary ctx b
      let x := s.ctx ctx
      let s := if x.res then { s with halts := serase s.halts x.part } else s
      let s := s.updCtx ctx fun x => { x with fabset := x.fabset.filter x.peerCores.contains, state := .empty, shed := false, parked := false }
      .next (s.updBump b fun b => { b with reclaimed := true })

end Sys2Proof.Machine
end

