-- ==== Sys2Proof/Machine/Halt.lean ====
section
/-! DEFINITION. Halts (R396-R402) and pre-emption up to the saved state (R405-R408, R411): each unit stops, keeps its state, writes
its record or acknowledges. -/

namespace Sys2Proof.Machine

/-! ## Stopping the matrix engine (R229, R232, R234) -/

/-- Whether starting a command took a word from the format queue. -/
def MxRun.pops (r : MxRun) : Bool := r.cmd.o == 0x205 || r.cmd.o == 0x20D

/-- Started commands that have not landed go back to the head of the queue, and the words they popped to the head of the format
queue. -/
def Core.unstart (k : Core) (f : MxRun → Bool) : Core :=
  let back := k.mx.running.filter fun r => !r.landed && f r
  { k with
    fmtq := (back.filter MxRun.pops).map (·.word) ++ k.fmtq
    mx := { k.mx with
      queue := back.map (fun r => { r.cmd with ready := none }) ++ k.mx.queue
      running := k.mx.running.filter fun r => r.landed || !f r } }

/-- Pairs of core `c` that have not completed are discarded on both sides (R229); one whose acknowledgement is on its way has. -/
def State.discardPairs (s : State) (c : Nat) : State :=
  let acked := fun (k : Core) => { k with mx := { k.mx with
    running := mapIf (fun r => r.pair == 2 && r.sent && k.mx.acks.any (fun n => r.cmd.stamp == some n)) (fun r => { r with landed := true }) k.mx.running
    acks := [] } }
  let s := s.updCore c acked
  let open_ := (s.core c).mx.running.filter fun r => r.pair != 0 && !r.landed
  let partners := open_.filterMap fun r => s.pairCore c (field r.cmd.t.mod 0 2)
  let s := partners.foldl (fun s d => s.updCore d acked) s
  let toward := fun (d : Nat) (r : MxRun) => r.pair != 0 && s.pairCore d (field r.cmd.t.mod 0 2) == some c
  let quiet := fun (k : Core) (from_ : Nat → Bool) => { k with mx := { k.mx with
    pairBuf := k.mx.pairBuf.filter (fun p => !from_ p.core), partials := k.mx.partials.filter (fun p => !from_ p.core) } }
  let s := partners.foldl (fun s d => s.updCore d fun k => quiet (k.unstart (toward d)) (· == c)) s
  s.updCore c fun k => quiet (k.unstart fun r => r.pair != 0) fun _ => true

/-- Near-memory blocks that have not completed write nothing (R232, R397); the addends of `nmv.acc` stand in the scratchpad again. -/
def State.dropBlocks (s : State) (c : Nat) : State :=
  let s := s.updMem fun m => { m with bd := m.bd.filter fun b => (b.nmv.map (·.1)) != some c }
  s.updCore c fun k =>
    (k.mx.nmvs.filter fun n => n.cmd.o == 0x212).foldl (fun k n =>
      foldUpTo (ceilDiv n.m 256) (fun k b =>
        if n.done.contains b then k
        else
          let rows := (n.add.drop (256 * b)).take 256
          k.fillBuf 3 (bufRange [] (n.y + 1024 * b) ((rows.flatMap fun v => leBytes v 4).map fun b => (b, false)))) k) k

/-- MX stops at a command boundary (R234). -/
def State.stopMx (s : State) (c : Nat) : State := (s.discardPairs c).dropBlocks c

/-- Outstanding products go back to the head of the queue, with their completed blocks (R232, R412). -/
def Core.reissueNmvs (k : Core) : Core :=
  { k with mx := { k.mx with queue := k.mx.nmvs.map (fun n => { n.cmd with done := n.done }) ++ k.mx.queue, nmvs := [] } }

/-- Whether every started command of MX has landed, pairs apart. -/
def Core.mxAtBoundary (k : Core) : Bool := k.mx.running.all fun r => r.landed || r.pair != 0

/-! ## Stop records (R400, R402) -/

/-- The units that a halt line stops: source number, and the core and stream it stands for. -/
def State.haltUnits (s : State) (p : Nat) : List (Nat × Option (Nat × StreamId)) :=
  let cores := s.cores.filter fun k => (k.2.job.map (·.part)) == some p
  let streams := cores.flatMap fun k => ([StreamId.cl, .cc, .cs, .vx, .mx, .cx].filter fun e => (k.2.strm e).started).map fun e =>
    (coreSource k.1 e.code, some (k.1, e))
  let ctx := (s.part p).ctx
  let teams := (s.teams.filter fun u => u.ctx == ctx).map fun u => clusterSource u.cluster
  let tiles := (s.tiles.filter fun t => t.part == p && !t.done).flatMap fun t => (t.nodes.filter fun x => 2 ≤ x.level).map fun x =>
    nodeSource x.level x.unit
  let other := ((s.halt p).faults.map (·.src)).filter fun n => !(streams.any fun u => u.1 == n)
  streams ++ ((teams ++ tiles ++ other).eraseDups.map fun n => (n, none))

/-- Whether the skid of a halt has run out for a core: 96 of its own engine cycles (R396). -/
def State.skidOver (s : State) (c : Nat) : Bool := 96 ≤ (s.core c).skid

/-- Whether a unit has come to the place where it stops (R397): no stream stops between the words of an extended form (R78). -/
def State.unitAtStop (s : State) (u : Option (Nat × StreamId)) : Bool :=
  match u with
  | some (c, e) =>
    (((s.core c).strm e).form.isEmpty || ((s.core c).strm e).trapped) && (e != .mx || (s.core c).mxAtBoundary || s.skidOver c)
  | none => true

/-- The bytes of a stop record (R400). -/
def StopRec.bytes (r : StopRec) : List Byte :=
  emit 64 ([(0, 2, r.src), (2, 1, r.code), (3, 1, r.flags), (4, 3, r.cpath), (8, 8, r.gtc), (0x10, 2, r.ctag.toNat), (0x14, 4, r.node.toNat)]
    ++ pieceRow 0x18 8 [r.pc.toNat, r.addr.toNat, r.det1.toNat, r.det2.toNat, r.time.toNat])

/-- Whether a fault record takes the primary slot from another (R402). -/
def StopRec.before (r : StopRec) (p : Option StopRec) : Bool :=
  r.code != 0 && match p with
    | none => true
    | some q => r.gtc < q.gtc || (r.gtc == q.gtc && r.src < q.src)

/-- Write machine-level bytes of a context's record, and publish their lines at device scope to the context and its manager. -/
def State.pokeRelease (s : State) (ctx pa : Nat) (bs : List Byte) : State :=
  let g := sigOf ((linePieces pa bs.length).map (·.1))
  ((s.poke pa bs).publishOn ctx 0 3 g).publishOn (s.ctx ctx).mgr 0 3 g

/-- Write one stop record of a halt of partition `p` (R402). -/
def State.writeStop (s : State) (p : Nat) (r : StopRec) : State :=
  let ctx := (s.part p).ctx
  let h := s.halt p
  let r := { r with flags := r.flags + (if h.pstop ∧ r.code = 0 then 2 else 0) }
  let first := r.before h.primary
  let log := (s.ctx ctx).stoplog
  let base := field log 12 40 * 4096
  let s := s.updHalt p fun h => { h with opened := true, primary := if first then some r else h.primary }
  if base = 0 then s
  else
    let s := if h.opened then s
      else s.pokeRelease ctx (base + 8) (leBytes (s.mem.readNat (base + 8) 8 + 1) 8 ++ leBytes h.gtc 8)
    let i := s.mem.readNat base 8
    let s := s.pokeRelease ctx (base + 0x80 + 64 * (i % 2 ^ field log 0 4)) r.bytes
    let s := s.pokeRelease ctx base (leBytes (i + 1) 8)
    if first then s.pokeRelease ctx (base + 0x40) ({ r with flags := r.flags + 1 } : StopRec).bytes else s

/-- The PC of a unit's record (R400): of a control stream EPC0, of VX its next word, of any other what its fault named. -/
def State.stopPc (s : State) (u : Option (Nat × StreamId)) (pc : W64) : W64 :=
  match u with
  | some (c, e) => if e.isControl ∨ e = .vx then (s.epcsFor c e).headD 0 else pc
  | none => pc

/-- The record of a unit that stopped only because of the line (R400). -/
def State.lineRecord (s : State) (p src : Nat) (u : Option (Nat × StreamId)) (skid : Bool) : StopRec :=
  let below := (s.halt p).faults.find? fun r => r.above.contains src
  let tile := s.tiles.find? fun t => t.part == p && t.nodes.any fun x => 2 ≤ x.level && nodeSource x.level x.unit == src
  let base : StopRec := { src := src, node := (tile.map (·.node)).getD 0xFFFFFFFF, gtc := s.gtc, ctag := s.ctagOf (s.part p).ctx, flags := if skid then 4 else 0
                          cpath := (below.map (·.cpath)).getD 0xFFFFFF }
  match u with
  | none => base
  | some (c, e) =>
    let k := s.core c
    let pc := match e with
      | .mx => ((k.mx.queue.map (·.pc)).headD k.mxs.pc)
      | .cx => ((k.cx.queue.map (·.pc)).headD k.cxs.pc)
      | _ => s.stopPc u 0
    { base with
      node := k.theJob.node, pc := pc
      time := BitVec.ofNat 64 (if e.isControl ∨ e = .vx then k.vcyc else k.age) }

/-- The units of cores that have come to the end of their skid and have yet to stop (R396). -/
def State.haltLate (s : State) : List (Nat × Nat) :=
  s.halts.flatMap fun h =>
    if !h.2.raised || h.2.kill then []
    else ((s.haltUnits h.1).filter fun u => !h.2.stopped.contains u.1 && s.unitAtStop u.2 && match u.2 with
      | some (c, _) => s.skidOver c
      | none => false).map fun u => (h.1, u.1)

/-- UNIT_HALT_STOP (R397, R400, R402): a unit stops within its skid and writes its fault records, or one that names the line. -/
def execUnitHaltStop (part unit : Nat) (s : State) : Out :=
  let h := s.halt part
  let late := h.faults.filter fun r => r.src == unit
  match (s.haltUnits part).find? fun u => u.1 == unit with
  | none => .next s
  | some (_, u) =>
    if !h.raised || h.kill || (h.stopped.contains unit && late.isEmpty) || !s.unitAtStop u then .next s
    else
      let (skid, s) := match u with
        | some (c, .mx) =>
          let skid := !(s.core c).mxAtBoundary
          (skid, (s.stopMx c).updCore c fun k => k.unstart fun _ => true)
        | some (c, .cx) => (s.skidOver c && (s.core c).cx.queue.any fun q => q.started && decide (q.done < q.total), s)
        | _ => (false, s)
      let recs := if late.isEmpty then [s.lineRecord part unit u skid] else late.map fun r => { r with pc := s.stopPc u r.pc }
      let s := recs.foldl (fun s r => s.writeStop part r) s
      .next (s.updHalt part fun h =>
        { h with stopped := (h.stopped ++ [unit]).eraseDups, faults := h.faults.filter fun r => r.src != unit })

/-- Whether every unit of a partition has stopped and written its records (R399). -/
def State.allStopped (s : State) (p : Nat) : Bool :=
  let h := s.halt p
  h.raised && !h.kill && !h.complete && h.faults.isEmpty && (s.haltUnits p).all fun u => h.stopped.contains u.1

/-- HALT_COMPLETE (R399): STATE changes, a pre-emption in progress ends, and a fault is notified to the manager. -/
def execHaltComplete (ctx : Nat) (s : State) : Out :=
  let x := s.ctx ctx
  let p := x.part
  let h := s.halt p
  if !x.res || !s.allStopped p then .next s
  else
    let quiet := h.pstop && h.primary.isNone
    let s := { s with cuffs := s.cuffs.filter fun f => f.part != p }
    let s := s.updHalt p fun h => { h with complete := true }
    let s := s.updCtx ctx fun x => { x with state := if quiet then .stopped else .halted, stoppedAt := s.gtc }
    if quiet then .next s
    else
      let r := h.primary.getD {}
      let base := field x.stoplog 12 40 * 4096
      let idx := if base = 0 then 0 else s.mem.readNat base 4
      .next (s.notifyManager ctx
        (slotOf [(0, 1, 0x23), (2, 2, (s.ctagOf ctx).toNat), (4, 2, r.src), (6, 1, r.code), (8, 4, idx), slotStamp s]))

/-! ## Pre-emption (R405-R407, R411) -/

/-- Change the pre-emption of a partition. -/
def State.updCuff (s : State) (p : Nat) (f : Cuff → Cuff) : State := { s with cuffs := mapIf (fun c => c.part == p) f s.cuffs }

/-- The units that hold state of a context on a partition (R406). -/
def State.preemptUnits (s : State) (ctx : Nat) : List Nat :=
  let cl := (s.part (s.ctx ctx).part).clusters
  (s.cores.filter fun k => (k.2.job.map (·.ctx)) == some ctx).map (·.1) ++ cl.map (512 + ·) ++ (cl.map fun k => 576 + dieOf k).eraseDups
    ++ [584, 585]

/-- Begin the pre-emption of a context, or join the one in progress (R405, R406). -/
def State.preempt (s : State) (ctx : Nat) (park : Bool) : State :=
  let p := (s.ctx ctx).part
  if s.cuffs.any fun f => f.part == p then (if park then s.updCuff p fun f => { f with park := true } else s)
  else
    let us := s.preemptUnits ctx
    { s with cuffs := s.cuffs ++ [{ part := p, ctag := s.ctagOf ctx, t0 := s.gtc, sends := us, acks := us, park := park }] }

/-- PREEMPT_REQUEST_RECEIVE (R405). -/
def execPreemptRequestReceive (part unit : Nat) (s : State) : Out :=
  .next (s.updCuff part fun f => { f with sends := f.sends.filter (· != unit) })

/-- Whether a control or vector stream stands at its unit of pre-emption (R405). -/
def Stream.atUnit (st : Stream) : Bool := !st.started || st.ended || st.parked

/-- Whether the control and vector streams of a core all do. -/
def Core.atUnits (k : Core) : Bool := [StreamId.cl, .cc, .cs, .vx].all fun e => (k.strm e).atUnit

/-- The pre-emption that core `c` has yet to acknowledge. -/
def State.cuffOf (s : State) (c : Nat) : Option Cuff := s.cuffs.find? fun f => f.acks.contains c

/-- Whether core `c` has a stream that has not stopped although the watchdog of the pre-emption has run out (R411). -/
def State.ckwdOut (s : State) (c : Nat) : Bool :=
  match s.cuffOf c with
  | none => false
  | some f =>
    let k := s.core c
    !(k.job.isNone || k.atUnits || f.full.contains c || f.saved.contains c || decide (s.gtc < f.t0 + (s.ctx (ctagCtx f.ctag)).ckwd.toNat))

/-- CKWD_TIMEOUT (R411): a core with a stream that has found no checkpoint makes a full save. -/
def execCkwdTimeout (core : Nat) (s : State) : Out :=
  match s.cuffOf core with
  | none => .next s
  | some f =>
    if !s.ckwdOut core then .next s
    else .next (s.updCuff f.part fun f => { f with full := f.full ++ [core], sends := f.sends.filter (· != core) })

/-- Whether a word that is frozen or holds its stream can be recorded as it stands. -/
def MemOp.recordable (op : MemOp) : Bool :=
  op.reqs.isEmpty && op.stage != 1 && op.commit.isNone && match op.hold with
    | some .mem => false
    | some _ => true
    | none => match op.kind with
      | .none | .amo _ _ _ _ | .cas _ _ _ => false
      | _ => true

/-- Whether every engine of a core has stopped, nothing of it is on its way, and what remains can be recorded (R407). -/
def State.engineStopped (s : State) (c : Nat) (full : Bool) : Bool :=
  let k := s.core c
  let still := if full then
      !k.inForm && k.memq.all MemOp.recordable && [StreamId.cl, .cc, .cs, .vx].all fun e => ((k.strm e).hold.map MemOp.recordable).getD true
    else k.atUnits && k.pend.isEmpty && k.memq.isEmpty && [StreamId.cl, .cc, .cs, .vx].all fun e => (k.strm e).hold.isNone
  k.job.isSome && !k.retiring && k.mxAtBoundary && still && k.mxs.form.isEmpty && k.cxs.form.isEmpty
    && !(s.mem.reqs.any fun r => r.master == c)

/-- CORE_SAVE (R407): the phase ends as a release at device scope; then the core's state stands as its record will hold it. -/
def execCoreSave (core : Nat) (s : State) : Out :=
  match s.cuffOf core with
  | none => .next s
  | some f =>
    let k := s.core core
    if f.sends.contains core || f.saved.contains core then .next s
    else
      match k.saveOp with
      | none =>
        if !s.engineStopped core (f.full.contains core) then .next s
        else
          let t := s.stopMx core
          let pas := (t.core core).cx.queue.flatMap (·.pas) ++ (t.tiles.filter fun u => u.core == some core).flatMap (·.pas)
          let t := t.publishSig k.theJob.ctx core 3 (sigOf pas)
          .next (t.updCore core fun k => { k with saveOp := some (retireOp k) })
      | some op =>
        if op.stage < 4 then .next s
        else
          let t := (s.dropLines core fun _ => true).updCore core fun k => { k with saveOp := none }
          .next (t.updCuff f.part fun f => { f with saved := f.saved ++ [core] })

/-- Whether a unit may acknowledge (R407). -/
def State.mayAck (s : State) (f : Cuff) (unit : Nat) : Bool :=
  f.acks.contains unit && !f.sends.contains unit &&
    if unit < 512 then f.saved.contains unit || (s.core unit).job.isNone
    else if unit < 576 then !((List.range 8).any fun i => f.acks.contains (8 * (unit - 512) + i))
    else if unit < 585 then true
    else !(s.rollbacks.any fun r => r.1 == ctagCtx f.ctag)

end Sys2Proof.Machine
end

