-- ==== Sys2Proof/Machine/Context.lean ====
section
/-! DEFINITION. Context images (R414-R423): what `preempt` and `ctxsave` write, what `ctxload` checks and restores, and how `prun`
resumes a context. Sub-fields whose sizes R419 leaves open stand as log entry 40 lays them out. -/

namespace Sys2Proof.Machine

/-! ## Writing an image -/

/-- Bytes filled with zeros to a multiple of 4 KiB. -/
def padPage (l : List Byte) : List Byte := l ++ List.replicate (ceilDiv l.length 4096 * 4096 - l.length) 0

/-- A barrier as 16 bytes (R274). -/
def Bar.code (b : Bar) : Nat :=
  b.gen.toNat * 2 ^ 112 + (if b.overrun then 2 ^ 111 else 0) + (if b.posted then 2 ^ 110 else 0) + b.exp % 2 ^ 48 * 2 ^ 48 + b.arr % 2 ^ 48

/-- A barrier read back. -/
def Bar.ofCode (n : Nat) : Bar :=
  { gen := BitVec.ofNat 16 (n / 2 ^ 112), overrun := n.testBit 111, posted := n.testBit 110, exp := nbits n 48 48, arr := nbits n 0 48 }

/-- Whether core `c` runs a job of a context. -/
def State.jobOfCtx (s : State) (ctx c : Nat) : Bool := ((s.core c).job.map (·.ctx)) == some ctx

/-- The cluster record of cluster `k` (R415). -/
def State.clusterRecord (s : State) (ctx k : Nat) : List Byte :=
  let u := s.cluster k
  let team := s.teams.find? fun t => t.cluster == k && t.ctx == ctx
  emit 4096 (pieceRow 0 16 ((sdense {} u.bars 0 16).map Bar.code)
    ++ pieceRow 0x100 1 [natOfBits (fun i => s.jobOfCtx ctx (8 * k + i)) 8, natOfBits (fun i => !(s.core (8 * k + i)).suspect) 8,
        (team.map (·.l1sl)).getD 0, if team.isSome then 1 else 0]
    ++ pieceRow 0x104 4 [(team.map (·.gen)).getD 0, (team.map (·.node.toNat)).getD 0])

/-- What the checkpoints of a core's streams name as live (R410). -/
def Core.liveAt (k : Core) : Live :=
  let es := [StreamId.cl, .cc, .cs, .vx]
  let lines := (es.flatMap fun e => (k.strm e).live.ranges).flatMap fun r => (List.range (r.2 / 128)).map (r.1 / 128 + ·)
  { vmask := es.foldl (fun m e => m ||| (k.strm e).live.vmask) 0
    regs := es.map fun e => (e, (k.strm e).live.smask, (k.strm e).live.pmask)
    ranges := (runsOf (sortNat lines)).map fun r => (128 * r.1, 128 * (r.2 + 1 - r.1)) }

/-- Whether a copy moves bytes into scratchpad lines (R255). -/
def CopyKind.fillsSp (k : CopyKind) : Bool :=
  match k with
  | .copy p _ => pf p 5 1 == 1
  | .halo _ _ _ _ _ _ _ _ => true
  | _ => false

/-- Whether the bytes that a running command has moved go with its image: they lie in empty lines of core `c` that the image records, where
nothing reads them before its completion (R258). The bytes of any other are moved anew from the first on resume (log entry 108). -/
def CopyCmd.carried (q : CopyCmd) (k : Core) (c : Nat) (ranges : List (Nat × Nat)) : Bool :=
  q.buf.all fun e => e.1 / 2 ^ 17 == c && !(k.spLine (e.1 % 2 ^ 17)).full
    && ranges.any fun r => decide (r.1 ≤ 128 * (e.1 % 2 ^ 17) ∧ 128 * (e.1 % 2 ^ 17) < r.1 + r.2)

/-- A core as its image records it: the empty lines hold what its running copies have moved there (R258). -/
def Core.withMoved (k : Core) (c : Nat) (ranges : List (Nat × Nat)) : Core :=
  k.cx.queue.foldl (fun t q =>
    if q.buf.isEmpty then t
    else if q.kind.fillsSp && q.carried k c ranges then
      q.buf.foldl (fun t e => { t with sp := supd {} t.sp (e.1 % 2 ^ 17) fun l => { l with data := mergeLine l.data e.2.2.1 e.2.1 } }) t
    else { t with cx := t.cx.setCmd { q with done := 0 } }) k

/-- The bytes that a resumed copy had moved before its image was made (R258). -/
def CopyCmd.regain (q : CopyCmd) (k : Core) (c : Nat) : CopyCmd :=
  let held := fun (a n : Nat) => (linePieces a n).flatMap fun p =>
    let l := k.spLine (p.1 / 128)
    pieceBytes (l.data, l.poison) (p.1 % 128) p.2
  if !q.started || q.complete || !q.kind.fillsSp then q
  else
    match q.kind with
    | .copy p _ =>
      { q with buf := (segmentsOf (pf p 0x18 4) q.done 0 q.done).foldl (fun b g =>
          let a := (dstRow p g.1 + g.2.1) % 2 ^ 24
          bufRange b (2 ^ 24 * c + a) (held a g.2.2)) [] }
    | .halo _ _ dst _ _ _ _ _ => { q with buf := bufRange [] (2 ^ 24 * c + dst) (held dst (128 * q.done)) }
    | _ => q

/-- The core record of core `c` (R410, R411, R416). -/
def State.coreImage (s : State) (c : Nat) (full halted : Bool) : List Byte :=
  let k := s.core c
  let j := k.theJob
  let live := if full then { ranges := [(0, spSize j)] } else k.liveAt
  let holds := [StreamId.cl, .cc, .cs, .vx].filterMap fun e => (k.strm e).hold
  let tiles := k.tilesOut.filterMap fun i => s.tile i
  coreRecord (k.withMoved c live.ranges) j (s.part j.part) c (s.epcsFor c) tiles k.memq holds full halted live

/-- An early-signal entry as 8 bytes (R419). -/
def Early.code (e : Early) : Nat := e.ctag.toNat + e.count * 2 ^ 16 + 2 ^ 24 + e.node.toNat * 2 ^ 32

/-- The clusters of a node as a mask of cluster references (R324). -/
def clusterMask (p : Part) (cs : List Nat) : Nat := natOfBits (fun i => cs.any fun k => coreRef p (8 * k) / 8 == i) 64

/-- A dispatched or retiring node with its unstarted tasks and its tile record (R419). -/
def State.nodeEntry (s : State) (n : Node) : List Byte :=
  let p := s.part (s.ctx n.ctx).part
  let tasks := n.runs.flatMap (·.tasks)
  let slot := fun (i : Nat) => ((n.runs[i]?).map (·.slot)).getD 0xFFFF
  emit 64 ([(0, 4, n.r.nodeid.toNat)] ++ pieceRow 4 1 [(n.point.map (·.index)).getD 0xFF, flagBits [n.rb, n.rx, n.dar]]
      ++ pieceRow 6 2 [slot 0, slot 1, slot 2]
      ++ pieceRow 0x10 8 [n.ready, clusterMask p (n.runs.flatMap (·.clusters))]
      ++ [(0x20, 4, tasks.length), (0x24, 1, n.st.code), (0x25, 1, n.r.kind), (0x28, 4, if n.st = .retiring then n.next else 0)])
    ++ (tasks.flatMap fun t => emit 24 (pieceRow 0 8 [t.lo.toNat, t.hi.toNat] ++ [(0x10, 4, coreRef p (8 * t.cluster) / 8)]))
    ++ (if n.r.kind = 1 then
          -- one record stands for all runs of a redundant node: the tiles that every run has completed
          match n.runs.filterMap fun r => r.tile.bind s.tile with
          | t :: l => emit 256 { t with nodes := [], skip := (runsOf ((sortBelow (t.doneTiles.foldl Nat.max 0 + 1) t.doneTiles).filter fun i =>
              l.all fun u => u.doneTiles.contains i)).take 15 }.record
          | [] => List.replicate 256 0
        else [])

/-- The scheduler section of a context (R419). -/
def State.schedSection (s : State) (ctx : Nat) : List Byte :=
  let part := (s.ctx ctx).part
  let nodes := s.nodes.filter fun n => n.ctx == ctx && (n.st == .dispatched || n.st == .retiring)
  let slotOwner := fun (i : Nat) => ((s.nodes.find? fun n => n.ctx == ctx && n.runs.any fun r => r.slot == i).map (·.r.nodeid.toNat)).getD 0xFFFFFFFF
  let prots := s.mem.prots.filter fun p => p.part == part
  let qs := (s.queues.filter fun q => ctagCtx q.2.ctag == ctx && q.2.server == 3).map (·.1)
  let queueRec := fun (q : Nat) =>
    let u := s.queue q
    pieceRow 0 8 [u.hdr.toNat, u.seg, u.first] ++ shiftPieces 0x80 u.prev.pieces
  let fixed := emit 0x5040 (
    pieceRow 0 8 ((s.early.filter fun e => ctagCtx e.ctag == ctx).map Early.code)
    ++ pieceRow 0x200 4 ((List.range 256).map slotOwner)
    ++ (prots.zipIdx.flatMap fun p => shiftPieces (0x600 + 24 * p.2) [(0, 4, p.1.node.toNat), (8, 8, p.1.base), (16, 8, p.1.len)])
    ++ [(0xC00, 4, qs.length)]
    ++ (qs.zipIdx.flatMap fun q => shiftPieces (0x1000 + 256 * q.2) (queueRec q.1))
    ++ [(0x5000, 4, nodes.length)])
  let segs := qs.flatMap fun q => s.chain q
  padPage (fixed ++ nodes.flatMap s.nodeEntry)
    ++ padPage (leBytes segs.length 8 ++ segs.flatMap fun a => leBytes a 8)
    ++ segs.flatMap fun a => s.mem.readBytes a 65536

/-- A line entry (R420). -/
def lineEntry (va pa kind ref phase : Nat) (mask : LineMask) (data : LineData) : List Byte :=
  emit 176 [(0, 8, va), (8, 8, pa), (0x10, 1, kind), (0x12, 2, ref), (0x14, 4, phase), (0x20, 16, mask.toNat), (0x30, 128, data.toNat)]

/-- The node-staged versions of a context as line entries; lines staged at peers stay there (R420, R421). -/
def State.stagedEntries (s : State) (ctx : Nat) : List (List Byte) :=
  s.mem.vers.filterMap fun v =>
    match v.owner with
    | .staged p n =>
      if p == (s.ctx ctx).part && ctagCtx v.ctag == ctx && (locOf v.pa).isSome then
        some (lineEntry v.va.toNat v.pa 1 n 0 v.mask v.data)
      else none
    | _ => none

/-- The phase-pending versions and dirty L1 lines of a context's cores, as entries of their cores' current phases (R421). -/
def State.pendingEntries (s : State) (ctx : Nat) : List (List Byte) :=
  let p := s.part (s.ctx ctx).part
  let cores := (s.cores.filter fun k => (k.2.job.map (·.ctx)) == some ctx)
  (s.mem.vers.filterMap fun v =>
    match v.owner with
    | .pending c _ =>
      if s.jobOfCtx ctx c && (locOf v.pa).isSome then
        some (lineEntry v.va.toNat v.pa 0 (coreRef p c) (s.core c).phase.toNat v.mask v.data)
      else none
    | _ => none)
  ++ cores.flatMap fun k => (k.2.l1.filter fun l => l.dirty != 0).map fun l =>
      lineEntry l.va l.pa 0 (coreRef p k.1) k.2.phase.toNat l.dirty l.data

/-- The parameters of an image, as numbers of their CSRs (R414). -/
def imageParams : List Nat := [0x18, 0x19, 0x1A, 0x1B, 0x1C, 0x1D, 0x1E, 0x1F, 0x22, 0x23, 0x24]

/-- The image of a context (R414). `full`: cores with full saves; `stopped`: it is written from STOPPED. -/
def State.image (s : State) (ctx : Nat) (full : List Nat) (stopped : Bool) (lines : List (List Byte)) : List Byte :=
  let x := s.ctx ctx
  let p := s.part x.part
  let cores := p.clusters.flatMap fun k => ((List.range 8).map (8 * k + ·)).filter (s.jobOfCtx ctx)
  let cl := p.clusters.flatMap fun k => s.clusterRecord ctx k
  let co := cores.flatMap fun c => padPage (s.coreImage c (stopped || full.contains c) stopped)
  let sc := s.schedSection ctx
  let li := padPage lines.flatten
  let offC := 4096
  let offK := offC + cl.length
  let offS := offK + co.length
  let offL := offS + sc.length
  emit 4096 ([(0, 4, 0x49395853), (4, 2, 1), (6, 2, flagBits [stopped || !full.isEmpty, stopped]), (8, 2, (s.ctagOf ctx).toNat)]
      ++ pieceRow 0xA 1 [p.wm1, p.hm1] ++ [(0xC, 4, cores.length)]
      ++ pieceRow 0x10 8 ([offL + li.length, offC, offK, offS, offL, lines.length, s.gtc] ++ imageParams.map fun n => (x.param n).toNat))
    ++ cl ++ co ++ sc ++ li

/-- The cores of a context are emptied and its teams end: the clusters are free (R407). -/
def State.vacate (s : State) (ctx : Nat) : State :=
  let cores := s.coresOf ctx
  let s := cores.foldl (fun s c => (s.updCore c Core.emptied).updMem fun m => { m with walks := m.walks.map (Walk.without c) }) s
  let again : TileIns → TileIns := fun t => { t with skip := t.completed, nodes := [] }
  { s with
    teams := s.teams.filter fun u => u.ctx != ctx
    tiles := mapIf (fun t => t.ctx == ctx) again (s.tiles.filter fun t => !(t.ctx == ctx && t.core.isSome)) }

/-- A pre-emption is complete (R407): the image stands in the save area, and STATE is PREEMPTED. -/
def State.finishPreempt (s : State) (f : Cuff) : State :=
  let ctx := ctagCtx f.ctag
  let base := field (s.ctx ctx).savebase 12 40 * 4096
  let s := s.pokeRelease ctx base (s.image ctx f.full false [])
  let s := (s.vacate ctx).updCtx ctx fun x => { x with state := .preempted, stoppedAt := s.gtc, parked := f.park }
  { s with cuffs := s.cuffs.filter fun g => g.part != f.part }

/-! ## Reading an image -/

/-- The whole image that starts with a header at hand, read by `fetch` (offset, bytes): none where some byte cannot be read. -/
def readImage (fetch : Nat → Nat → Option (List Byte)) : Option (Array Byte) :=
  match fetch 0 4096 with
  | none => none
  | some h =>
    let n := (readerOf h.toArray) 0x10 8
    if n < 4096 then some h.toArray else (fetch 0 n).map (·.toArray)

/-- Offsets of the core records of an image, one after another. -/
def coreOffsets (r : Reader) : Nat → Nat → List Nat
  | 0, _ => []
  | n + 1, off => off :: coreOffsets r n (off + Nat.max 1 (r (off + 0x5C) 4) * 4096)

/-- The core records of an image. -/
def imageCores (r : Reader) : List Reader := (coreOffsets r (r 0xC 4) (r 0x20 8)).map fun o => r.at o

/-- The scratchpad ranges of a core record. -/
def recordRanges (r : Reader) : Nat → Nat → List (Nat × Nat)
  | 0, _ => []
  | n + 1, off =>
    let len := r (off + 4) 4
    (r off 4, len) :: recordRanges r n (off + 16 + ceilDiv (len / 128) 128 * 16 + len)

/-- Bytes of a node entry with its tasks and its tile record. -/
def entryBytes (q : Reader) (off : Nat) : Nat := 64 + 24 * Nat.min (q (off + 0x20) 4) (2 ^ 20) + if q (off + 0x25) 1 = 1 then 256 else 0

/-- Offsets of the node entries of a scheduler section, and where they end. -/
def nodeOffsets (q : Reader) : Nat → Nat → List Nat × Nat
  | 0, off => ([], off)
  | n + 1, off =>
    let (l, e) := nodeOffsets q n (off + entryBytes q off)
    (off :: l, e)

/-- A scheduler section: its node entries, the addresses of its segments, and where the copies begin and end. -/
structure SchedImage where
  entries : List Reader
  segs : List Nat
  copies : Nat
  size : Nat

/-- Parse a scheduler section (R419). -/
def parseSched (q : Reader) : SchedImage :=
  let (offs, e) := nodeOffsets q (Nat.min (q 0x5000 4) 65536) 0x5040
  let at_ := ceilDiv e 4096 * 4096
  let n := Nat.min (q at_ 8) (2 ^ 20)
  let copies := at_ + ceilDiv (8 + 8 * n) 4096 * 4096
  { entries := offs.map fun o => q.at o, segs := q.row (at_ + 8) 8 n, copies := copies, size := copies + 65536 * n }

/-! ## `ctxsave` (R421) -/

/-- Bytes of a record replaced from an offset on. -/
def patchBytes (l : List Byte) (off : Nat) (bs : List Byte) : List Byte := l.take off ++ bs ++ l.drop (off + bs.length)

/-- The image that `ctxsave` writes. -/
def State.savedImage (s : State) (ctx : Nat) : List Byte :=
  let x := s.ctx ctx
  if x.state = .stopped then
    let cores := (s.cores.filter fun k => (k.2.job.map (·.ctx)) == some ctx).map (·.1)
    s.image ctx cores true (s.stagedEntries ctx ++ s.pendingEntries ctx)
  else
    let base := field x.savebase 12 40 * 4096
    let n := s.mem.readNat (base + 0x10) 8
    let lines := s.stagedEntries ctx
    let more := padPage lines.flatten
    let img := patchBytes (s.mem.readBytes base n) 0x10 (leBytes (n + more.length) 8)
    patchBytes (patchBytes img 0x30 (leBytes n 8)) 0x38 (leBytes lines.length 8) ++ more

/-! ## `ctxload` (R421) -/

/-- Where an image holds CTAGs (R357, R414, R420): in its header, in its early-signal entries, and in its copies of segments. -/
def imageTags (r : Reader) : List Nat :=
  let q := r.at (r 0x28 8)
  let sc := parseSched q
  [8] ++ ((List.range 64).filter fun i => (q.at (8 * i)).flag 3 0).map (fun i => r 0x28 8 + 8 * i)
    ++ (List.range sc.segs.length).map fun i => r 0x28 8 + sc.copies + 65536 * i + 0x10

/-- Clusters of the shape of an image. -/
def imageClusters (r : Reader) : Nat := (r 0xA 1 % 16 + 1) * (r 0xB 1 % 4 + 1)

/-- Whether bytes of a record are zero. -/
def Reader.zeros (r : Reader) (off n : Nat) : Bool := r off n == 0

/-- The cluster records of an image. -/
def imageClusterRecs (r : Reader) : List Reader := (List.range (imageClusters r)).map fun i => r.at (r 0x18 8 + 4096 * i)

/-- Whether a core record's size field is what its ranges give (R416, R417). -/
def recordSizeOk (k : Reader) : Bool :=
  k 0x58 4 ≤ 131072 && k 0x5C 4 * 4096 == recordSize (recordRanges k (k 0x58 4) 0x4F000)

/-- Reserved and zero fields of a core record. -/
def coreZeros (k : Reader) : Bool :=
  k 0x1E 1 < 32 && k.zeros 0x39C 3172 && [StreamId.cl, .cc, .cs, .vx, .mx, .cx].all fun e =>
    let t := k.at (0x1000 + 4096 * e.code)
    t 0x2B2 1 < 32 && t.zeros 0x318 232 && t.zeros 0xC00 1024

/-- Reserved and zero fields of an image, and the alignment of its segments. -/
def imageZeros (r : Reader) (sc : SchedImage) : Bool :=
  let q := r.at (r 0x28 8)
  r 6 2 < 4 && r 0xA 1 < 16 && r 0xB 1 < 4 && r.zeros 0xA0 3936
    && ((imageClusterRecs r).all fun c => c 0x103 1 < 2 && c.zeros 0x10C 3828) && (imageCores r).all coreZeros
    && ((List.range 64).all fun i => q.zeros (0x604 + 24 * i) 4)
    && ((List.range (Nat.min 64 (q 0xC00 4))).all fun i => q.zeros (0x1018 + 256 * i) 104)
    && (sc.segs.all fun a => a % 65536 == 0)
    && ((List.range (r 0x38 8)).all fun i => r.zeros (r 0x30 8 + 176 * i + 0x11) 1 && r.zeros (r 0x30 8 + 176 * i + 0x18) 8)

/-- A virtual address under a page-table root, with W: the physical address. -/
def State.walkWith (s : State) (ctx : Nat) (root : W64) (va : W64) : Option Nat :=
  let t := s.updCtx ctx fun x => { x with ptroot := root }
  match t.walk (585 + schedHalf ctx) (s.ctagOf ctx) va with
  | .leaf frame size perm _ _ => if permW &&& perm = permW then some (frame + va.toNat % 2 ^ size) else none
  | _ => none

/-- The checks of `ctxload` in order, after the header's own: true where the image is invalid (R421). -/
def State.imageBad (s : State) (ctx : Nat) (r : Reader) : Bool :=
  let offs := r.row 0x18 8 4
  let sc := parseSched (r.at (r 0x28 8))
  let cores := coreOffsets r (Nat.min 512 (r 0xC 4)) (r 0x20 8)
  let coreEnd := cores.foldl (fun e o => Nat.max e (o + r (o + 0x5C) 4 * 4096)) (r 0x20 8)
  let ends := [r 0x18 8 + 4096 * imageClusters r, coreEnd, r 0x28 8 + sc.size, r 0x30 8 + 176 * r 0x38 8]
  let jobs := ((imageClusterRecs r).map fun c => countBits (c 0x100 1) 8).foldl (· + ·) 0
  let root := BitVec.ofNat 64 (r 0x68 8)
  let held := fun (id : Nat) => sc.entries.any fun e => e 0 4 == id && (e 0x24 1 == 3 || e 0x24 1 == 4)
  (ends.any fun e => r 0x10 8 < e) || (offs.any fun o => o % 4096 != 0) || r 8 2 / 64 != ctx || !imageZeros r sc
    || r 0xC 4 != jobs || !((imageCores r).all recordSizeOk)
    || ((List.range (r 0x38 8)).any fun i =>
        let e := r.at (r 0x30 8 + 176 * i)
        2 ≤ e 0x10 1 || (s.walkWith ctx root (BitVec.ofNat 64 (e 0 8))).isNone)
    || ((imageClusterRecs r).any fun c => c.flag 0x103 0 && !held (c 0x108 4)) || (imageCores r).any fun k => !held (k 0x50 4)

/-- Whether an image does not fit a partition: its shape, or a core out of the pool (R393, R421). -/
def State.shapeBad (s : State) (target : Nat) (r : Reader) : Bool :=
  let p := s.part target
  !p.valid || r 0xA 1 != p.wm1 || r 0xB 1 != p.hm1
    || (imageClusterRecs r).zipIdx.any fun c => (List.range 8).any fun i =>
        c.1.flag 0x100 i && (s.core (8 * p.clusters.getD c.2 0 + i)).suspect

/-- The context that occupies a partition (R322, R323). -/
def State.occupant (s : State) (p : Nat) : Option Nat := ((s.ctxs.filter fun x => x.2.res && x.2.part == p).head?).map (·.1)

/-- The free segments of a context's pool. -/
def State.pool (s : State) (ctx : Nat) : List Nat := s.chainFrom 4096 (s.ctx ctx).tsegpool.toNat

/-- Segments leave a context's pool (R421). -/
def State.unlinkSegments (s : State) (ctx : Nat) (segs : List Nat) : State :=
  let rest := (s.pool ctx).filter fun a => !segs.contains a
  let s := (rest.zip (rest.drop 1 ++ [0])).foldl (fun (s : State) p => s.poke p.1 (emit 128 [(0, 8, p.2)])) s
  s.updCtx ctx fun x => { x with tsegpool := BitVec.ofNat 64 (rest.headD 0) }

/-- The parameters of an image (R414, R421). -/
def Ctx.withParams (x : Ctx) (r : Reader) (base : Nat) : Ctx :=
  imageParams.zipIdx.foldl (fun (x : Ctx) n =>
    let v := BitVec.ofNat 64 (r (0x48 + 8 * n.2) 8)
    if n.1 = 0x24 then { x with savebase := BitVec.ofNat 64 base }
    else if n.1 = 0x22 then (if x.tsegpool = 0 then (x.setParam 0x22 v).getD x else x)
    else (x.setParam n.1 v).getD x) x

/-- The task queue of a context with a header; one that is not registered here is, under its number in order (log entry 40). -/
def State.adoptQueue (s : State) (ctx : Nat) (q : Reader) : State :=
  let hdr := BitVec.ofNat 64 (q 0 8)
  let fill : Queue → Queue := fun u =>
    { u with seg := q 8 8, first := q 0x10 8, prev := TaskRec.ofReader (q.at 0x80), full := false, noPool := false, busy := false }
  match s.queues.find? fun p => p.2.hdr == hdr && ctagCtx p.2.ctag == ctx && p.2.server == 3 with
  | some p => s.updQueue p.1 fill
  | none => { s with queues := sinsert s.queues s.nextQueue (fill { hdr := hdr, server := 3, ctag := s.ctagOf ctx }), nextQueue := s.nextQueue + 1 }

/-- The state that a STATE code of a record names. -/
def NodeState.ofCode (n : Nat) : NodeState :=
  match n with
  | 1 => .waiting | 2 => .ready | 3 => .dispatched | _ => .retiring

/-- The runs of a node entry (R387, R392): clusters and tasks go to the run whose cores hold its slot, the rest to the last run. -/
def runsOfEntry (p : Part) (e : Reader) (cores : List Reader) : List Run :=
  let cluster := fun (i : Nat) => coreOfRef p (8 * i) / 8
  let slots := (e.row 6 2 3).filter (· != 0xFFFF)
  let own := fun (slot : Nat) => (cores.filter fun k => k 0x54 2 == slot && k 0x50 4 == e 0 4).map fun k => coreOfRef p (k 0x1C 2)
  let all := ((List.range 64).filter fun i => (e 0x18 8).testBit i).map cluster
  let tasks := (List.range (Nat.min (e 0x20 4) (2 ^ 20))).map fun i =>
    ({ lo := BitVec.ofNat 64 (e (64 + 24 * i) 8), hi := BitVec.ofNat 64 (e (72 + 24 * i) 8), cluster := cluster (e (80 + 24 * i) 4) } : RangeTask)
  let taken := slots.flatMap fun s => (own s).map (· / 8)
  slots.zipIdx.map fun s =>
    let mine := if s.2 + 1 = slots.length then all.filter fun k => !taken.contains k || ((own s.1).map (· / 8)).contains k
      else ((own s.1).map (· / 8)).eraseDups
    { num := s.2 + 1, slot := s.1, clusters := mine, tasks := tasks.filter fun t => mine.contains t.cluster, cores := own s.1 }

/-- A live record of a segment copy as a node. -/
def State.nodeOfRecord (s : State) (ctx queue seg idx : Nat) (q : Reader) (entries cores : List Reader) : Node :=
  let r := TaskRec.ofReader q
  let n : Node :=
    { ctx := ctx, queue := queue, seg := seg, idx := idx, r := r, remain := q 0x58 4, st := NodeState.ofCode (q 0x5C 1), ready := q 0x60 8
      since := if q 0x5C 1 = 2 then s.gtc else 0, sel := q 0x5C 1 == 2, flags := r.flags, rolls := q 0x5E 1
      rb := q.flag 0x5F 0, rx := q.flag 0x5F 1, dar := q.flag 0x5F 2 }
  match entries.find? fun e => e 0 4 == r.nodeid.toNat with
  | none => n
  | some e =>
    { n with
      point := if e 4 1 = 0xFF then none else some { index := e 4 1, ratio := 0, div := 6, nclu := 1, launch := 0, dur := 0, power := 0 }
      runs := runsOfEntry (s.part (s.ctx ctx).part) e cores, st := NodeState.ofCode (e 0x24 1), next := e 0x28 4 }

/-- The tile instruction of a node entry, for one of its runs; it has no children until the context runs (R198). -/
def State.tileOfEntry (s : State) (ctx : Nat) (n : Node) (r : Run) (id : Nat) (e : Reader) : TileIns :=
  let t := e.at (64 + 24 * Nat.min (e 0x20 4) (2 ^ 20))
  { orphanTile id ctx (s.ctagOf ctx) (s.ctx ctx).part (some r.slot) n.r.nodeid n.r.level 0 r.clusters (BitVec.ofNat 512 (t 0 64))
      (BitVec.ofNat 512 (t 0x40 64)) with
    nodes := [], skip := tileRanges t }

/-- One node of an image joins the scheduler, with its tile instructions. -/
def State.addNode (s : State) (n : Node) (entries : List Reader) : State :=
  match (if n.r.kind = 1 then entries.find? fun e => e 0 4 == n.r.nodeid.toNat else none) with
  | none => { s with nodes := s.nodes ++ [n] }
  | some e =>
    let runs := n.runs.zipIdx.map fun r => ({ r.1 with tile := some (s.nextTile + r.2) } : Run)
    { s with
      nodes := s.nodes ++ [{ n with runs := runs }]
      tiles := s.tiles ++ runs.zipIdx.map fun r => s.tileOfEntry n.ctx n r.1 (s.nextTile + r.2) e
      nextTile := s.nextTile + runs.length }

/-- The scheduling state of an image (R419, R421). -/
def State.loadSched (s : State) (ctx : Nat) (r : Reader) : State :=
  let q := r.at (r 0x28 8)
  let sc := parseSched q
  let s := sc.segs.zipIdx.foldl (fun (s : State) a =>
    (s.poke a.1 (leBytes (q (sc.copies + 65536 * a.2) 65536) 65536)).poke (a.1 + 0x10) (leBytes (s.ctagOf ctx).toNat 2)) s
  let s := s.unlinkSegments ctx sc.segs
  let s := foldUpTo (Nat.min 64 (q 0xC00 4)) (fun s i => s.adoptQueue ctx (q.at (0x1000 + 256 * i))) s
  let tag := s.ctagOf ctx
  let early := (List.range 64).filterMap fun i =>
    let e := q.at (8 * i)
    if e.flag 3 0 then some ({ ctag := tag, node := BitVec.ofNat 32 (e 4 4), count := e 2 1 } : Early) else none
  let part := (s.ctx ctx).part
  let prots := (List.range 64).filterMap fun i =>
    let e := q.at (0x600 + 24 * i)
    if e 16 8 = 0 then none else some ({ part := part, node := BitVec.ofNat 32 (e 0 4), base := e 8 8, len := e 16 8 } : Prot)
  let s := { s with
    early := s.early.filter (fun e => ctagCtx e.ctag != ctx) ++ early
    nodes := s.nodes.filter fun n => n.ctx != ctx
    mem := { s.mem with prots := s.mem.prots.filter (fun p => p.part != part) ++ prots } }
  sc.segs.zipIdx.foldl (fun (s : State) a =>
    let seg := q.at (sc.copies + 65536 * a.2)
    let queue := ((s.queues.find? fun p => p.2.hdr.toNat == seg 8 8 && ctagCtx p.2.ctag == ctx && p.2.server == 3).map (·.1)).getD s.nextQueue
    let live := (List.range 511).filter fun j => (seg 0x40 64).testBit j
    live.foldl (fun (s : State) j => s.addNode (s.nodeOfRecord ctx queue a.1 j (seg.at (128 + 128 * j)) sc.entries (imageCores r)) sc.entries) s) s

/-- The line entries of an image stand again, at the homes of their new addresses (R421). -/
def State.loadLines (s : State) (ctx : Nat) (r : Reader) : State :=
  let x := s.ctx ctx
  let p := s.part x.part
  foldUpTo (r 0x38 8) (fun s i =>
    let e := r.at (r 0x30 8 + 176 * i)
    let va := BitVec.ofNat 64 (e 0 8)
    match s.walkWith ctx x.ptroot va with
    | some pa =>
      if (locOf pa).isNone then s
      else
        let owner := if e 0x10 1 = 0 then Owner.pending (coreOfRef p (e 0x12 2)) (e 0x14 4) else .staged x.part (e 0x12 2)
        s.updMem fun m => m.addVersion
          { owner := owner, line := lineOf pa, mask := BitVec.ofNat 128 (e 0x20 16), data := BitVec.ofNat 1024 (e 0x30 128)
            ctag := s.ctagOf ctx, va := va, pa := alignDown pa 128 }
    | none => s) s

/-- What `ctxload` does with an image that passes its checks (R339, R421). -/
def State.loadImage (s : State) (ctx target base : Nat) (r : Reader) : State :=
  let s := s.updCtx ctx fun x =>
    { (x.withParams r base) with boards := [], res := true, part := target, state := .preempted, stoppedAt := s.gtc, parked := false }
  let s := { (s.updPart target fun p => { p with ctx := ctx }) with halts := serase s.halts target }
  ((s.loadSched ctx r).loadLines ctx r).updMem fun m => (imageTags r).foldl (fun m o => m.writeNat (base + o) 2 (s.ctagOf ctx).toNat) m

/-! ## `prun` (R339, R395, R423) -/

/-- Nodes of a context resume: their ageing goes on (R395). -/
def State.resumeAges (s : State) (ctx : Nat) : State :=
  let gap := s.gtc - (s.ctx ctx).stoppedAt
  { s with nodes := mapIf (fun n => n.ctx == ctx && n.st == .ready) (fun n => { n with since := n.since + gap }) s.nodes }

/-- A core that was stopped in place goes on (R209, R412). -/
def Core.goOn (k : Core) : Core :=
  let go : Stream → Stream := fun st => { st with trapped := false, blocked := false, parked := false }
  let k := { k.reissueNmvs with cl := go k.cl, cc := go k.cc, cs := go k.cs, vx := go k.vx, mxs := go k.mxs, cxs := go k.cxs }
  { k with mx := { k.mx with ssus := true, idle := false } }

/-- `prun` of a STOPPED context (R423). -/
def State.resumeInPlace (s : State) (ctx : Nat) : State :=
  let cores := (s.cores.filter fun k => (k.2.job.map (·.ctx)) == some ctx).map (·.1)
  let s := cores.foldl (fun (s : State) c => s.updCore c Core.goOn) (s.resumeAges ctx)
  { (s.updCtx ctx fun x => { x with state := .running }) with halts := serase s.halts (s.ctx ctx).part }

/-- The launch header of a dispatched node, read again where an image has brought the node here (R423). -/
def State.relaunch (s : State) (n : Node) : State :=
  let (s, ps) := match n.points with
    | some ps => (s, ps)
    | none => s.readPoints n
  let point := n.point.map fun p => if p.dur = 0 then ((ps.find? fun q => q.index == p.index).map s.usedPoint).getD p else p
  let hdr := match point with
    | some p => if p.launch = 0 then n.r.launch else p.launch
    | none => n.r.launch
  let launch := if n.r.kind = 1 || n.launch.isSome then n.launch
    else
      match s.readNow (s.schedParty n.ctx) permR hdr.toNat 256 with
      | .ok bs => if poisonedP bs then none else some (launchOf hdr (readerOf (bs.map (·.1)).toArray))
      | .error _ => none
  s.updNode n.ctx n.r.nodeid fun n =>
    { n with points := some ps, point := point, launch := launch, flags := n.r.flags ||| (launch.map (·.flags)).getD 0 }

/-- Ranges of a copy command for the checker (R269). -/
def CopyCmd.ranges (q : CopyCmd) (c : Nat) (x : Cx) : List (Nat × Nat) × List (Nat × Nat) :=
  match q.kind with
  | .copy p _ => copyRanges c p
  | .fe _ off n => ([], [(off, off + 128 * n - 1)])
  | .advance b step _ _ =>
    match (x.queue.filter fun c => c.seq < q.seq).foldl (LineBuffer.after b) (sfind x.lbs b) with
    | some l => ([], rowsSpan l.record (if q.started then q.rows else l.newRows step))
    | none => ([], [])
  | .halo _ n dst _ _ _ _ _ => ([], [(dst, dst + 128 * n - 1)])
  | _ => ([], [])

/-- Range-checker entries of the commands of a restored core, in saved order (R423). -/
def Core.remakeRanges (k : Core) (c gtc : Nat) : Core :=
  let mk := fun (e : StreamId) (seq : Nat) (r : List (Nat × Nat) × List (Nat × Nat)) =>
    if r.1.isEmpty && r.2.isEmpty then none else some ({ stamp := gtc, engine := e, seq := seq, reads := r.1, writes := r.2 } : RangeEnt)
  { k with ranges :=
      k.mx.queue.filterMap (fun q => mk .mx q.seq (commandRanges c q.o q.t q.opa q.opb q.opc))
      ++ k.cx.queue.filterMap fun q => mk .cx q.seq (q.ranges c k.cx) }

/-- The tile instructions of a core record, issued again but for their completed children (R198, R423). -/
def State.remakeTiles (s : State) (c : Nat) (j : Job) (r : Reader) : State × List Nat :=
  foldUpTo 8 (fun (a : State × List Nat) i =>
    let t := r.at (0x7A00 + 256 * i)
    if t 0xFB 1 = 0 then a
    else
      let s := a.1
      let d := BitVec.ofNat 512 (t 0 64)
      let lvl := Nat.min (t 0xFA 1) 4
      let remote := if t 0xFC 2 = 0 then none else some (t 0xFC 2 - 1)
      let ins : TileIns :=
        { id := s.nextTile, core := some c, strm := (StreamId.ofCode? (t 0xF8 1)).getD .cc, pc := BitVec.ofNat 64 (r (0x89C0 + 8 * i) 8)
          ctx := j.ctx, ctag := j.ctag, part := j.part, slot := j.slot, node := j.node, kind := t 0xF9 1, level := t 0xFA 1, desc := d
          aux := BitVec.ofNat 512 (t 0x40 64), clusters := (s.part j.part).clusters
          waits := if t 0xF9 1 = 7 ∨ t 0xF9 1 = 9 then a.2 else []
          nodes := if remote.isSome then [] else [rootNode (t 0xF9 1) lvl (acceptorOf c lvl) d false]
          remote := remote, skip := tileRanges t }
      ({ s with tiles := s.tiles ++ [ins], nextTile := s.nextTile + 1 }, a.2 ++ [ins.id])) (s, [])

/-- One core of an image runs again (R423). -/
def State.restoreCore (s : State) (ctx : Nat) (r : Reader) : State :=
  let p := s.part (s.ctx ctx).part
  let c := coreOfRef p (r 0x1C 2)
  match s.findNode ctx (BitVec.ofNat 32 (r 0x50 4)) with
  | none => s
  | some n =>
    match n.launch, n.runs.find? fun q => q.slot == r 0x54 2 with
    | some l, some run =>
      let j := { s.jobOf n l run (r 0x1F 1) with regsl := if r.flag 0x1E 1 then 2 else 1 }
      let (s, ids) := s.remakeTiles c j r
      let old := s.core c
      let k := Core.ofRecord r j (s.boardEpochs ctx c) fun b => windowRows b.top (pf b.record 0x18 1)
      let k := ({ k with tilesOut := ids, suspect := old.suspect, errors := old.errors, failed := old.failed } : Core).withEntries r
      let k := { k with cx := { k.cx with queue := k.cx.queue.map (CopyCmd.regain · k c) } }
      s.updCore c fun _ => k.remakeRanges c s.gtc
    | _, _ => s

/-- One cluster of an image: its barriers, its team, and the cores that are to ask for work (R415, R423). -/
def State.restoreCluster (s : State) (ctx cl : Nat) (r : Reader) : State :=
  let s := s.updCluster cl fun u => { u with bars := sparseOf {} ((r.row 0 16 16).map Bar.ofCode) }
  let s := if r 0x100 1 = 0 then s else s.updCluster cl (·.wakeUp s.gtc)
  if !r.flag 0x103 0 then s
  else
    let cores := (List.range 8).map (8 * cl + ·)
    let members := cores.filter (s.jobOfCtx ctx)
    let node := BitVec.ofNat 32 (r 0x108 4)
    let run := ((members.head?).map fun c => (s.core c).theJob.run).getD 1
    let gen := r 0x104 4
    let waits := members.filterMap fun c =>
      match ((s.core c).cc.hold).bind (·.hold) with
      | some (.barrier v true g) => some (c, v, g)
      | _ => none
    let team : Team :=
      { cluster := cl, ctx := ctx, node := node, run := run, gen := gen, l1sl := r 0x102 1, members := members
        present := members.filter fun c => !(waits.any fun w => w.1 == c && gen < w.2.2), arrived := waits.map fun w => (w.1, w.2.1) }
    let idle := cores.filter fun c => (s.core c).job.isNone && !(s.core c).suspect
    idle.foldl (fun (s : State) c => s.updCore c fun k => { k with asks := some (ctx, node, run) }) { s with teams := s.teams ++ [team] }

/-- Tile-instruction nodes issue their incomplete children again (R419). -/
def State.restoreNodeTiles (s : State) (ctx : Nat) : State :=
  let again : TileIns → TileIns := fun t =>
    let k := t.clusters.headD 0
    { t with nodes := [rootNode t.kind t.level (nodeAcceptor t.level k).1 t.desc t.back.isSome] }
  { s with tiles := mapIf (fun t => t.ctx == ctx && t.core.isNone && t.nodes.isEmpty && !t.done && t.remote.isNone) again s.tiles }

/-- `prun` of a PREEMPTED context from its image (R423). -/
def State.resumeImage (s : State) (ctx : Nat) (r : Reader) : State :=
  let p := s.part (s.ctx ctx).part
  let mine := s.nodes.filter fun n => n.ctx == ctx && (n.st == .dispatched || n.st == .retiring)
  let s := mine.foldl (fun (s : State) n => s.relaunch n) s
  let s := (imageCores r).foldl (fun (s : State) k => s.restoreCore ctx k) s
  let s := (imageClusterRecs r).zipIdx.foldl (fun (s : State) k => s.restoreCluster ctx (p.clusters.getD k.2 0) k.1) s
  let s := ((s.restoreNodeTiles ctx).resumeAges ctx).updCtx ctx fun x => { x with state := .running, parked := false }
  (s.nodes.filter fun n => n.ctx == ctx && n.st == .dispatched).foldl (fun (s : State) n =>
    match n.point with
    | some q => s.applyPoint (n.runs.flatMap (·.clusters)) (s.pointNow n q)
    | none => s) s

/-- An image read through `fetch` as a reader. -/
def imageReader (fetch : Nat → Nat → Option (List Byte)) : Option Reader := (readImage fetch).map readerOf

/-- The MGC resumes a context that park curtailment pre-empted (R445). -/
def State.resumeParked (s : State) (ctx : Nat) : State :=
  let x := s.ctx ctx
  let base := field x.savebase 12 40 * 4096
  if !x.parked || x.state != .preempted then s
  else
    match imageReader fun off n => some (s.mem.readBytes (base + off) n) with
    | some r => s.resumeImage ctx r
    | none => s

/-- CUFF_ACK (R406, R407): one unit's acknowledgement; with the last one the pre-emption is complete. A park that has been lowered
meanwhile resumes the context (R445). -/
def execCuffAck (part unit : Nat) (s : State) : Out :=
  match s.cuffs.find? fun f => f.part == part with
  | none => .next s
  | some f =>
    if !s.mayAck f unit then .next s
    else
      let f := { f with acks := f.acks.filter (· != unit) }
      if !f.acks.isEmpty then .next (s.updCuff part fun _ => f)
      else
        let s := s.finishPreempt f
        .next (if f.park && s.power.grade < 2 then s.resumeParked (ctagCtx f.ctag) else s)

end Sys2Proof.Machine
end

