-- ==== Sys2Proof/Machine/Power.lean ====
section
/-! DEFINITION. Energy budgets, operating points and curtailment (R424-R447): measurement, the curve, the Brim, clocks, the over-current
alarm, grades, and cluster gating. -/

namespace Sys2Proof.Machine

/-- Source number of the MGC (R403). -/
def mgcSource : Nat := 8 * 4096

/-- RMAX (R438). -/
def rmax : Nat := 256

/-- Change the power state. -/
def State.updPower (s : State) (f : Power → Power) : State := { s with power := f s.power }

/-- Log a budget event (R475). -/
def State.budgetEvent (s : State) (event code : Nat) (seq : W64) : State :=
  s.pushLog 1024 { d0 := logHead 9 mgcSource 0 (event * 65536 + code), d1 := BitVec.ofNat 64 s.gtc, d2 := seq
                   d3 := BitVec.ofNat 64 (s.power.pm / wattUnit) }

/-- SEQ of the curve in force; 0 under the floor. -/
def Power.curSeq (p : Power) : W64 := (p.curve.map (·.seq)).getD 0

/-! ## Measurement (R430) -/

/-- The MGC reads and clears every accumulator, once in each 10 µs, and adds the energy to the counters of the contexts. -/
def State.measure (s : State) : State :=
  if s.power.measured = some s.gtc then s
  else
    let per := (List.range 64).map fun k => (s.cluster k).eacc.toNat
    let sum := per.foldl (· + ·) 0
    let owners := s.ctxs.filter fun x => x.2.res
    let s := owners.foldl (fun (s : State) x =>
      let e := (((s.part x.2.part).clusters).map fun k => per.getD k 0).foldl (· + ·) 0
      s.updCtx x.1 fun c =>
        { c with energy := c.energy + BitVec.ofNat 64 ((c.energyRem + e) / 16000000), energyRem := (c.energyRem + e) % 16000000 }) s
    let s := foldUpTo 64 (fun s k => s.updCluster k fun u => { u with eacc := 0 }) s
    s.updPower fun p => { p with measured := some s.gtc, e10 := sum, e1 := p.e1 + sum }

/-! ## The curve (R426, R428) -/

/-- The segment in force. -/
def Power.segment (p : Power) (gtc : Nat) : Option Seg :=
  match p.curve with
  | some c => (c.segs.filter fun g => g.start ≤ gtc).getLast?
  | none => none

/-- Target in W, ramp in W/ms and grade that hold at a time (R426). -/
def Power.target (p : Power) (gtc : Nat) : Nat × Nat × Nat :=
  match p.segment gtc with
  | some g => (g.limit, g.ramp, g.grade)
  | none => (p.pfloor, p.rfloor, 0)

/-- The grade that should be in force: the segment's or the escalation's (R432). -/
def Power.wantGrade (p : Power) (gtc : Nat) : Nat := Nat.max (p.target gtc).2.2 (if p.esc then 1 else 0)

/-- C after one step, in 1/100 W (R428). -/
def nextC (c target ramp : Nat) : Nat :=
  let goal := 100 * target
  if ramp = 0 then goal else if c ≤ goal then c + Nat.min (goal - c) ramp else c - Nat.min (c - goal) ramp

/-- CURT (R441). -/
def State.curtNow (s : State) : W64 :=
  let p := s.power
  BitVec.ofNat 64 (p.c / 100 % 65536 * 2 ^ 32 + field p.curSeq 0 16 * 65536 + (if p.curve.isNone then 64 else 0)
    + (if p.occause = 0 then 0 else 32) + (if p.esc then 16 else 0) + p.grade)

/-- The MGC writes CURT. -/
def State.writeCurt (s : State) : State := s.updPower fun p => { p with curt := s.curtNow }

/-- CURVE_IN_FORCE (R426): at VFROM the pending curve takes over; the floor is left if it applied. -/
def execCurveInForce (s : State) : Out :=
  match s.power.pending with
  | none => .next s
  | some c =>
    if s.gtc < c.vfrom then .next s
    else
      let floor := s.power.curve.isNone
      let s := s.updPower fun p => { p with curve := some c, pending := none }
      .next (if floor then s.budgetEvent 4 0 c.seq else s)

/-- CURVE_EXPIRE (R426): at VTO the floor applies. -/
def execCurveExpire (s : State) : Out :=
  match s.power.curve with
  | none => .next s
  | some c =>
    if s.gtc < c.vto then .next s
    else .next ((s.updPower fun p => { p with curve := none }).budgetEvent 4 1 0)

/-! ## The Brim (R431, R432) -/

/-- b for a mean of C, in the unit of P10; `csum` is the sum of `steps` values in 1/100 W. -/
def brimBound (csum steps : Nat) : Nat :=
  Nat.max (csum * (wattUnit / 100) * 15 / (1000 * Nat.max 1 steps)) (30 * wattUnit)

/-- The least POWER of a ready node's points that its free clusters could hold (R431). -/
def State.leastPower (s : State) (n : Node) : Option Nat :=
  let free := (((s.part (s.ctx n.ctx).part).clusters).filter (s.freeCluster n { num := 0, slot := 0, clusters := [] })).length
  let d := n.r.deadline.toNat
  let ps := ((n.points.getD []).map s.usedPoint).filter fun p => (d = 0 || s.gtc + p.dur ≤ d) && p.nclu ≤ free
  (leastBy (·.power) ps).map (·.power)

/-- Whether the ready nodes of running contexts ask for all that C leaves (R431). -/
def State.demandStands (s : State) : Bool :=
  let ready := s.nodes.filter fun n => n.st == .ready && n.status.isNone && (s.ctx n.ctx).state == .running
  let sum := (ready.filterMap s.leastPower).foldl (· + ·) 0
  decide (((s.power.c * (wattUnit / 100) : Nat) : Int) - s.power.p10 ≤ ((sum * wattUnit : Nat) : Int))

/-- The refill target after a step (R432). -/
def nextRefill (p : Power) : Nat :=
  let c : Int := (p.c * (wattUnit / 100) : Nat)
  let b : Int := brimBound p.csum p.steps
  if c < p.p10 then p.refill - rmax / 64
  else if 2 * p.p10 < 2 * c - b then Nat.min rmax (p.refill + rmax / 64)
  else p.refill

/-- A bucket's refill rate follows the target (R439). -/
def followRefill (r target : Nat) : Nat :=
  if r ≤ target then r + Nat.min (target - r) (rmax / 64) else r - Nat.min (r - target) (rmax / 64)

/-- CURVE_STEP (R428, R430, R432, R439, R441): every 10 µs. -/
def execCurveStep (s : State) : Out :=
  if s.gtc % 70000 ≠ 0 ∨ s.power.stepped = some s.gtc then .next s
  else
    let s := s.measure
    let t := s.power.target s.gtc
    let s := s.updPower fun p =>
      { p with stepped := some s.gtc, p10 := ((100 * p.e10 : Nat) : Int) + p.off, c := nextC p.c t.1 t.2.1 }
    let s := s.updPower fun p => { p with csum := p.csum + p.c, steps := p.steps + 1 }
    let s := s.updPower fun p => { p with demand := p.demand && s.demandStands }
    let s := s.updPower fun p => { p with refill := nextRefill p }
    let s := foldUpTo 64 (fun s k => s.updCluster k fun u =>
      { u with refill := if u.gated then u.refill else followRefill u.refill s.power.refill, replays := 0 }) s
    .next s.writeCurt

/-- Whether Pm ends a window above its upper bound, below its lower bound, or neither: 1, 2, 0 (R431). -/
def windowVerdict (p : Power) : Nat :=
  let n := Nat.max 1 p.steps
  let b := brimBound p.csum p.steps
  let mean := p.csum * (wattUnit / 100)
  if mean + n * b < n * p.pm then 1 else if p.demand ∧ n * p.pm + n * b < mean then 2 else 0

/-- BRIM_WINDOW_END (R430-R432): Pm is what the sensor gives, a free value; OFF is recalibrated, the bounds are checked unless the window
is exempt, and the escalation grade follows. -/
def execBrimWindowEnd (s : State) : Out :=
  if s.gtc % 7000000 ≠ 0 ∨ s.gtc = 0 ∨ s.power.windowed = some s.gtc then .next s
  else
    let s := s.measure
    let pm := (Config.freeWord s.free).toNat
    let s := s.drawn.updPower fun p => { p with windowed := some s.gtc, pm := pm, off := (pm : Int) - (p.e1 : Int) }
    let exempt := s.gtc - 7000000 < s.power.raiseTo
    let v := if exempt then 0 else windowVerdict s.power
    let was := s.power.esc
    let s := s.updPower fun p =>
      { p with
        e1 := 0, csum := 0, steps := 0, demand := true
        good := if v = 1 then 0 else p.good + 1
        esc := if v = 1 then true else p.esc && p.good + 1 < 2 }
    let s := if v = 0 then s else s.budgetEvent 1 v s.power.curSeq
    .next (if was = s.power.esc then s else s.budgetEvent 3 (if s.power.esc then 1 else 0) s.power.curSeq)

/-! ## Clocks (R437) -/

/-- A pending setting of a cluster comes into force at a GTC multiple of 420: a divisor at once, a ratio after its clock has stood for
14,280 ticks, by which the deadlines of its commands move. -/
def State.applyWant (s : State) (k : Nat) : State :=
  let u := s.cluster k
  match u.want with
  | none => s
  | some (ratio, d) =>
    if s.gtc % 420 ≠ 0 || u.restart.isSome || u.gated then s
    else if u.ratio = ratio then s.updCluster k fun u => { u with divisor := d, want := none }
    else
      let s := s.updCluster k fun u => { u with restart := some (s.gtc + 14280) }
      let late := fun (t : TileIns) => { t with nodes := mapIf (fun x => x.level == 1 && clusterOf x.unit == k) (fun x => { x with slip := x.slip + 14280 }) t.nodes }
      let s := { s with tiles := s.tiles.map late }
      foldUpTo 8 (fun s i => s.updCore (8 * k + i) fun c =>
        { c with mx := { c.mx with
          queue := c.mx.queue.map fun q => { q with slip := q.slip + 14280 }
          running := c.mx.running.map fun r => { r with cmd := { r.cmd with slip := r.cmd.slip + 14280 } } } }) s

/-- CLOCK_RESTART (R437). -/
def execClockRestart (cluster : Nat) (s : State) : Out :=
  match (s.cluster cluster).restart with
  | none => .next s
  | some t =>
    if s.gtc < t then .next s
    else .next (s.updCluster cluster fun u =>
      match u.want with
      | some (ratio, d) => { u with ratio := ratio, divisor := d, want := none, restart := none }
      | none => { u with restart := none })

/-- SSUS is set in every core of a cluster (R209). -/
def State.suspendStamps (s : State) (k : Nat) : State :=
  foldUpTo 8 (fun s i => s.updCore (8 * k + i) fun c => { c with mx := { c.mx with ssus := true } }) s

/-! ## The over-current alarm (R440) -/

/-- OCCAUSE bit of an alarm. -/
def alarmBit (k : Sys2Proof.AlarmKind) : Nat :=
  match k with
  | .peak => 0 | .didt => 1 | .fault => 2 | .conv => 3 | .therm => 4

/-- OCCAUSE after an event. -/
def nextOccause (old : W64) (gtc : Nat) (k : Sys2Proof.AlarmKind) : W64 :=
  let stamp := if old = 0 then gtc % 2 ^ 48 else field old 16 48
  BitVec.ofNat 64 (stamp * 65536 + Nat.min 255 (field old 8 8 + 1) * 256) ||| (old &&& 31) ||| (1 <<< alarmBit k)

/-- OVERCURRENT_ALARM (R440, R454): every cluster at divisor 3 moves to 4, refill targets drop, stamps of those clusters are suspended;
a converter's fault is a machine check besides. -/
def execOvercurrentAlarm (kind : Sys2Proof.AlarmKind) (cluster : Nat) (s : State) : Out :=
  let s := s.updPower fun p => { p with occause := nextOccause p.occause s.gtc kind, refill := rmax / 8 }
  let slow := fun (s : State) (k : Nat) =>
    let u := s.cluster k
    let s := if (u.want.map (·.2)) == some 3 then s.updCluster k fun u => { u with want := some (.hi, 4) } else s
    if u.divisor = 3 then
      let s := if u.want.isNone then s.updCluster k fun u => { u with want := some (.hi, 4) } else s
      s.suspendStamps k
    else s
  let s := foldUpTo 64 slow s
  .next { s with checks := if kind = .conv then s.checks ++ [(5, cluster, 0)] else s.checks }

/-! ## Replays (R454) -/

/-- A timing error that waits at HI is detected: the word's cycle is held, and the replay counts. -/
def State.timingReplay (s : State) (c : Nat) : State :=
  let hold := fun (s : State) => s.updCore c fun k => { k with holdReq := true }
  let at_ := fun (l : Latent) => match l with
    | .timing d _ | .replaying d _ => d == c
    | _ => false
  if (s.cluster (clusterOf c)).ratio ≠ .hi then s
  else
    match s.mem.latent.find? at_ with
    | some (.timing _ n) =>
      let l := Latent.timing c n
      if n = 0 then s.updMem fun m => { m with latent := m.latent.erase l }
      else
        let s := s.updMem fun m => { m with latent := m.latent.erase l ++ if n ≤ 1 then [] else [.replaying c (Nat.min 4 n - 1)] }
        hold (s.updCluster (clusterOf c) fun u => { u with replays := u.replays + 1, limited := u.limited || decide (64 < u.replays + 1) })
    | some (.replaying _ n) =>
      let l := Latent.replaying c n
      hold (s.updMem fun m => { m with latent := m.latent.erase l ++ if n ≤ 1 then [] else [.replaying c (n - 1)] })
    | _ => s

/-- REPLAY_LIMIT (R454): more than 64 replays in 10 µs move the cluster to MID, divisor 4, suspend its stamps and are a machine
check. -/
def execReplayLimit (cluster : Nat) (s : State) : Out :=
  if !(s.cluster cluster).limited then .next s
  else
    let s := (s.updCluster cluster fun u => { u with limited := false, replays := 0, want := some (.mid, 4) }).suspendStamps cluster
    .next { s with checks := s.checks ++ [(2, cluster, 0)] }

/-! ## Gating (R343, R446, R447) -/

/-- Whether some job runs on a cluster, or is about to. -/
def State.clusterBusy (s : State) (k : Nat) : Bool :=
  (List.range 8).any (fun i => (s.core (8 * k + i)).job.isSome || (s.core (8 * k + i)).asks.isSome) || (s.teams.any fun u => u.cluster == k)
    || s.tiles.any fun t => t.nodes.any fun x => x.accepted && !x.complete && ((x.level == 2 && x.unit == k) || (x.level == 1 && clusterOf x.unit == k))

/-- Gate a cluster (R446): its arrays and its translations are lost; what the retention state holds is kept, and its accumulator
stands for the MGC to read. -/
def State.gateCluster (s : State) (k : Nat) : State :=
  let s := foldUpTo 8 (fun s i => s.updCore (8 * k + i) Core.emptied) s
  let s := s.updMem fun m => { m with tcache := m.tcache.filter fun e => e.unit != k, walks := m.walks.filter fun w => w.unit != k }
  s.updCluster k fun u => { u with gated := true, waking := false, bars := [], barAdds := [], restart := none }

/-- CLUSTER_WAKE_REGISTER (R447): a cluster whose C-die park has gated is not woken by it. -/
def execClusterWakeRegister (cluster : Nat) (s : State) : Out :=
  .next (if s.parkedDies.contains (dieOf cluster) then s else s.updCluster cluster (·.wakeUp s.gtc))

/-- The teams that wait for a cluster to wake (R447). -/
def State.waitingTeams (s : State) (k : Nat) : List (Nat × W32 × Nat) :=
  s.nodes.flatMap fun n => (n.runs.filter fun r => n.st == .dispatched && r.pending.contains k).map fun r => (n.ctx, n.r.nodeid, r.num)

/-- WAKE_COMPLETE (R439, R447). -/
def execWakeComplete (cluster : Nat) (s : State) : Out :=
  let u := s.cluster cluster
  if !u.gated || !u.waking then .next s
  else
    let s := s.updCluster cluster fun u => { u with gated := false, waking := false, bucket := 4096, refill := 32 }
    .next ((s.waitingTeams cluster).foldl (fun (s : State) t => s.startOn t.1 t.2.1 t.2.2 cluster) s)

/-! ## Grades (R441-R445) -/

/-- Whether a context runs an essential node (R442). -/
def State.runsEssential (s : State) (ctx : Nat) : Bool := s.nodes.any fun n => n.ctx == ctx && n.st == .dispatched && n.flags.testBit 1

/-- Contexts in rising order that satisfy a test. -/
def State.ctxsWhere (s : State) (f : Nat → Ctx → Bool) : List Nat := (s.ctxs.filter fun x => f x.1 x.2).map (·.1)

/-- The clusters of every node that runs, each with the setting of the node's own point (R445). -/
def State.restorePoints (s : State) : State :=
  (s.nodes.filter fun n => n.st == .dispatched).foldl (fun (s : State) n =>
    match n.point with
    | some p => s.applyPoint (n.runs.flatMap (·.clusters)) (s.pointNow n p)
    | none => s) s

/-- Slow: every cluster moves to LO at divisor 6, and stamps are suspended (R442). -/
def State.goSlow (s : State) : State :=
  foldUpTo 64 (fun s k =>
    (s.updCluster k fun u => { u with want := if u.ratio = .lo ∧ u.divisor = 6 then none else some (.lo, 6) }).suspendStamps k) s

/-- Shed one context: the MGC bumps it (R442). -/
def State.shedContext (s : State) (ctx : Nat) : State :=
  if (s.pendingBump ctx).isSome then s
  else (s.updCtx ctx fun x => { x with shed := true, parked := false }).bump ctx

/-- Park: contexts without a running essential node are pre-empted, or shed where they have no save area (R442). -/
def State.goPark (s : State) : State :=
  (s.ctxsWhere fun i x => x.state == .running && !s.runsEssential i).foldl (fun (s : State) i =>
    if field (s.ctx i).savebase 12 40 = 0 then s.shedContext i else s.preempt i true) s

/-- Shed: the same contexts, parked ones among them, are killed (R442). -/
def State.goShed (s : State) : State :=
  (s.ctxsWhere fun i x => (x.state == .running && !s.runsEssential i) || (x.state == .preempted && x.parked)).foldl State.shedContext s

/-- Below park: gated C-dies wake, then parked contexts resume in rising ID (R445). -/
def State.leavePark (s : State) : State :=
  let dies := s.parkedDies
  let s := foldUpTo 64 (fun s k => if dies.contains (dieOf k) then s.updCluster k (·.wakeUp s.gtc) else s) s
  ((s.ctxsWhere fun _ x => x.parked).foldl State.resumeParked { s with parkedDies := [] })

/-- How long a raise's bound runs (R442): that of the slowest action that begins with it. -/
def raiseBound (old new : Nat) : Nat :=
  if old < 2 ∧ 2 ≤ new then 112000000 else if 3 ≤ new then 1400000 else 140000

/-- The curtailment notice of a context (R441). -/
def State.curtailmentNotice (s : State) (ctx old new : Nat) : State :=
  s.notifyManager ctx (slotOf [(0, 1, 0x24), (2, 2, (s.ctagOf ctx).toNat), (4, 1, old), (5, 1, new), slotStamp s])

/-- GRADE_CHANGE (R441, R442, R445): the grade in force moves, CURT shows it, managers are told, and the actions of the grade run. -/
def execGradeChange (s : State) : Out :=
  let old := s.power.grade
  let new := s.power.wantGrade s.gtc
  if old = new then .next s
  else
    let raiseTo := if old < new then Nat.max s.power.raiseTo (s.gtc + raiseBound old new) else s.power.raiseTo
    let s := (s.updPower fun p => { p with grade := new, raiseTo := raiseTo }).writeCurt
    let s := (s.budgetEvent 2 (old * 256 + new) s.power.curSeq)
    let s := (s.ctxsWhere fun _ x => x.res).foldl (fun (s : State) i => s.curtailmentNotice i old new) s
    let s := if old = 0 then s.goSlow else s
    let s := if old < 2 ∧ 2 ≤ new then s.goPark else s
    let s := if old < 3 ∧ 3 ≤ new then s.goShed else s
    let s := if new < 2 ∧ 2 ≤ old then s.leavePark else s
    .next (if new = 0 then s.restorePoints else s)

/-- Whether park may gate a C-die (R444): nothing runs on it, and no image with state on it is still being written. -/
def State.dieIdle (s : State) (d : Nat) : Bool :=
  let mine := (List.range 64).filter fun k => dieOf k == d
  let meets := fun (p : Nat) => (s.part p).clusters.any mine.contains
  !(mine.any s.clusterBusy) && !(s.cuffs.any fun f => meets f.part)
    && !(s.ctxs.any fun x => x.2.res && x.2.state == .running && meets x.2.part)

/-- C_DIE_PARK_GATE (R444, R446): one die after another in rising number. -/
def execCDieParkGate (die : Nat) (s : State) : Out :=
  let ready := fun (d : Nat) => !s.parkedDies.contains d && s.dieIdle d
  if s.power.grade < 2 || !ready die || (List.range die).any ready then .next s
  else
    let s := foldUpTo 64 (fun s k => if dieOf k = die ∧ !(s.cluster k).gated then s.gateCluster k else s) s
    .next { s with parkedDies := s.parkedDies ++ [die] }

end Sys2Proof.Machine
end

