-- ==== Sys2Proof/Machine/System.lean ====
section
/-! DEFINITION. System instructions that act on contexts, tables and clusters (R333, R336-R344): their checks at issue, and what their
held words do once the release of R338 is done. -/

namespace Sys2Proof.Machine

/-! ## Issue -/

/-- Issue a word that names a context in opa (R337, R338): the issuer must manage it. -/
def contextWord (o : Nat) (t : Tpl) (s : State) : Out :=
  let ctx := field (s.opa t) 0 10
  if s.guard0 t && !s.manages s.curCore.theJob.ctx ctx then .next (s.faultCur (notManaged (s.opa t)))
  else issueHold o t (systemOp o t true [ctx]) s

/-- TLBI_CTX (R341). -/
def execTlbiCtx (t : Tpl) (s : State) : Out := contextWord 0x384 t s
/-- TLBI_PAGE (R341). -/
def execTlbiPage (t : Tpl) (s : State) : Out := contextWord 0x384 t s
/-- INCB (R342, R351). -/
def execIncb (t : Tpl) (s : State) : Out := contextWord 0x386 t s
/-- RECLAIM (R342, R353). -/
def execReclaim (t : Tpl) (s : State) : Out := contextWord 0x387 t s
/-- CTXSAVE (R339, R421). -/
def execCtxsave (t : Tpl) (s : State) : Out := contextWord 0x388 t s
/-- CTXLOAD (R339, R421). -/
def execCtxload (t : Tpl) (s : State) : Out := contextWord 0x389 t s
/-- PSTOP (R339). -/
def execPstop (t : Tpl) (s : State) : Out := contextWord 0x38A t s
/-- PRUN (R339, R423). -/
def execPrun (t : Tpl) (s : State) : Out := contextWord 0x38B t s
/-- PRUN_CORE (R329, R339). -/
def execPrunCore (t : Tpl) (s : State) : Out := contextWord 0x38B t s
/-- PREEMPT (R339, R405). -/
def execPreempt (t : Tpl) (s : State) : Out := contextWord 0x38C t s
/-- HLTCLR (R339, R399). -/
def execHltclr (t : Tpl) (s : State) : Out := contextWord 0x38D t s

/-- Whether an entry's context field, where the entry is valid, is the issuer's own or one that it manages (R333). -/
def State.entryMine (s : State) (issuer : Nat) (e : W128) : Bool :=
  !bit e 127 || field e 112 10 == issuer || s.manages issuer (field e 112 10)

/-- The checks of `atbw` (R333, R344). -/
def State.atbwOk (s : State) (issuer master : Nat) (e : W128) : Bool :=
  let lg := field e 106 6
  let written := (s.mem.atq.filter fun w => w.master == master).map (·.entry)
  let old := match written.getLast? with
    | some w => [w]
    | none => ((List.range unitCount).filter isTarget).map fun u => s.mem.accEntry u master
  12 ≤ lg && lg ≤ 52 && field e 12 40 * 4096 % 2 ^ lg == 0 && field e 52 54 == 0 && field e 0 12 == 0
    && !(bit e 127 && field e 112 10 == 0x3FF) && !(585 ≤ master && master ≤ 599) && master < 892
    && s.entryMine issuer e && old.all (s.entryMine issuer)

/-- ATBW (R333, R336): an entry that the issuer may not write is the access-violation fault, and nothing is written. -/
def execAtbw (t : Tpl) (s : State) : Out :=
  let e : W128 := s.opc t ++ s.opb t
  if s.guard0 t && !s.atbwOk s.curCore.theJob.ctx (field (s.opa t) 0 10) e then .next (s.faultCur (notManaged (s.opa t)))
  else issueHold 0x385 t (systemOp 0x385 t true []) s

/-- The resident context of the partition that a cluster lies in (R322, R343). -/
def State.contextOfCluster (s : State) (k : Nat) : Option Nat :=
  ((s.ctxs.filter fun x => x.2.res && (s.part x.2.part).valid && (s.part x.2.part).clusters.contains k).head?).map (·.1)

/-- Issue `gate` or `wake` (R343): the cluster must lie in a partition whose context the issuer manages. -/
def clusterWord (o : Nat) (t : Tpl) (s : State) : Out :=
  let ok := match s.contextOfCluster (field (s.opa t) 0 6) with
    | some x => s.manages s.curCore.theJob.ctx x
    | none => false
  if s.guard0 t && !ok then .next (s.faultCur (notManaged (s.opa t))) else issueHold o t (systemOp o t false []) s

/-- GATE (R343, R446). -/
def execGate (t : Tpl) (s : State) : Out := clusterWord 0x38E t s
/-- WAKE (R343, R447). -/
def execWake (t : Tpl) (s : State) : Out := clusterWord 0x38F t s
/-- ALARMCLR (R343, R440). -/
def execAlarmclr (t : Tpl) (s : State) : Out := issueHold 0x390 t (systemOp 0x390 t false []) s
/-- LOGRD (R343, R452). -/
def execLogrd (t : Tpl) (s : State) : Out := issueHold 0x391 t (systemOp 0x391 t false []) s
/-- LOGRD_POP (R343, R452). -/
def execLogrdPop (t : Tpl) (s : State) : Out := issueHold 0x391 t (systemOp 0x391 t false []) s

/-! ## Completion -/

/-- The issuer of a held word. -/
structure Issuer where
  core : Nat
  ctx : Nat
  ctag : W16
  part : Nat
  slot : Option Nat

/-- The issuer that a core is. -/
def State.issuer (s : State) (c : Nat) : Issuer :=
  let j := (s.core c).theJob
  { core := c, ctx := j.ctx, ctag := j.ctag, part := j.part, slot := j.slot }

/-- What a held word answers in one step: it waits, it has come further, or it ends with a value for its register. -/
inductive SysStep where
  | wait (s : State)
  | go (s : State) (step : Nat) (aux : List Nat)
  | done (s : State) (v : Option W64)
  | fault (f : FaultInfo)

/-- It ends with a status (R339). -/
def sysStatus (s : State) (n : Nat) : SysStep := .done s (some (BitVec.ofNat 64 n))

/-- Whether a context's reclaim is pending: context-state words answer BUSY (log entry 41). -/
def State.bumping (s : State) (ctx : Nat) : Bool := (s.pendingBump ctx).isSome

/-- `tlbi` (R341, R365): `.page` removes what maps the address; it ends when the writes translated through what it removed have been
performed. -/
def sysTlbi (ctx mod step : Nat) (aux : List Nat) (va : W64) (s : State) : SysStep :=
  let page := if mod % 4 = 1 then some va else none
  let ids := if step = 0 then s.mem.writesThrough ctx page else aux
  let s := if step = 0 then s.updMem fun m => m.invalidate ctx page else s
  if s.mem.unperformed ids then .go s 1 ids else .done s none

/-- `atbw` (R333, R336): after its release the entry goes to every target, unless one now holds an entry that the issuer may not replace; the
word ends when each holds it. -/
def sysAtbw (issuer step : Nat) (aux : List Nat) (a b c : W64) (s : State) : SysStep :=
  if step = 0 then
    if !s.atbwOk issuer (field a 0 10) (c ++ b) then .fault (notManaged a)
    else
    let id := s.mem.nextReq
    .go (s.updMem fun m =>
      { m with atq := m.atq ++ [{ id := id, master := field a 0 10, entry := c ++ b, done := [] }], nextReq := id + 1 }) 1 [id]
  else if s.mem.atq.any fun w => aux.contains w.id then .wait s
  else .done s none

/-- `incb` (R342, R351): an earlier bump's reclaim first; it ends when every table holds the new incarnation, which sd then takes. -/
def sysIncb (ctx step : Nat) (aux : List Nat) (s : State) : SysStep :=
  if step = 0 then
    if s.bumping ctx then .wait s
    else
      let s := (s.bump ctx).updCtx ctx fun x => { x with parked := false }
      .go s 1 [(s.ctagOf ctx).toNat]
  else
    let tag := BitVec.ofNat 16 (aux.headD 0)
    if s.mem.bumps.any fun b => b.ctx == ctx && ctagOf ctx b.inc == tag && !s.bumpInstalled b then .wait s
    else .done s (some (tag.setWidth 64))

/-- `reclaim` (R342, R353, R355): it waits for the bump that was pending when it began. -/
def sysReclaim (ctx step : Nat) (aux : List Nat) (s : State) : SysStep :=
  match s.pendingBump ctx with
  | none => .done s none
  | some b => if step = 0 then .go s 1 [b.inc.toNat] else if aux = [b.inc.toNat] then .wait s else .done s none

/-- `pstop` (R339). -/
def sysPstop (ctx step : Nat) (s : State) : SysStep :=
  let x := s.ctx ctx
  if step = 0 then
    if s.bumping ctx then sysStatus s 4
    else if x.state ≠ .running then sysStatus s 1
    else
      let fresh := !(s.halt x.part).raised
      .go ((s.raiseLine x.part).updHalt x.part fun h => if fresh then { h with pstop := true } else h) 1 []
  else if x.state = .stopped then sysStatus s 0
  else if x.state = .running then .wait s
  else sysStatus s 1

/-- `preempt` (R339, R405-R407). -/
def sysPreempt (ctx step : Nat) (s : State) : SysStep :=
  let x := s.ctx ctx
  if step = 0 then
    if s.bumping ctx then sysStatus s 4
    else if x.state ≠ .running ∨ (s.halt x.part).raised then sysStatus s 1
    else if field x.savebase 12 40 = 0 then sysStatus s 3
    else .go (s.preempt ctx false) 1 []
  else if s.cuffs.any fun f => f.part == x.part then .wait s
  else sysStatus s (if x.state = .preempted then 0 else 1)

/-- `hltclr` (R339, R399): the line is released, and the units stand stopped until `prun`; the stop records stay. -/
def sysHltclr (ctx : Nat) (s : State) : SysStep :=
  let x := s.ctx ctx
  if s.bumping ctx then sysStatus s 4
  else if x.state ≠ .halted then sysStatus s 1
  else sysStatus ((s.updCtx ctx fun x => { x with state := .stopped }).updHalt x.part fun h => { h with raised := false, cleared := true }) 0

/-- Read physical bytes as the issuer does after its release (R338). -/
def State.issuerBytes (s : State) (i : Issuer) (base off n : Nat) : Option (List Byte) :=
  s.readPhys i.core i.ctag i.part i.slot (base + off) n

/-- `ctxsave` (R339, R421). -/
def sysCtxsave (i : Issuer) (ctx : Nat) (b : W64) (s : State) : SysStep :=
  let x := s.ctx ctx
  if s.bumping ctx then sysStatus s 4
  else if x.state ≠ .stopped ∧ x.state ≠ .preempted then sysStatus s 1
  else
    let pa := b.toNat / 4096 * 4096
    let img := s.savedImage ctx
    if s.mayWritePhys i.core i.ctag pa img.length then
      sysStatus ((s.pokeRelease ctx pa img).updCtx ctx fun x => { x with parked := false }) 0
    else .fault (violation b i.core permW)

/-- `ctxload` (R339, R421): the header's own checks come before the rest of the image is read. -/
def sysCtxload (i : Issuer) (ctx : Nat) (b c : W64) (s : State) : SysStep :=
  let base := b.toNat / 4096 * 4096
  let target := field c 0 6
  if s.bumping ctx then sysStatus s 4
  else if (s.ctx ctx).state ≠ .empty then sysStatus s 1
  else
    match s.issuerBytes i base 0 4096 with
    | none => .fault (violation b i.core permR)
    | some h =>
      let h := readerOf h.toArray
      if h 0 4 != 0x49395853 || h 4 2 != 1 || h 0x10 8 % 4096 != 0 || h 0x10 8 < 4096 then sysStatus s 3
      else
        match imageReader (s.issuerBytes i base) with
        | none => .fault (violation b i.core permR)
        | some r =>
          if s.imageBad ctx r then sysStatus s 3
          else if s.shapeBad target r then sysStatus s 2
          else if (s.occupant target).any (· != ctx) then sysStatus s 4
          else sysStatus (s.loadImage ctx target base r) 0

/-- `prun` (R339, R423). -/
def sysPrun (i : Issuer) (ctx : Nat) (s : State) : SysStep :=
  let x := s.ctx ctx
  if s.bumping ctx then sysStatus s 4
  else if x.state = .stopped then sysStatus (s.resumeInPlace ctx) 0
  else if x.state = .preempted then
    let base := field x.savebase 12 40 * 4096
    match imageReader (s.issuerBytes i base) with
    | none => .fault (violation (BitVec.ofNat 64 base) i.core permR)
    | some r => sysStatus (s.resumeImage ctx r) 0
  else sysStatus s 1

/-- `prun.core` (R329, R338, R339): the frame of a core in service wait, at that core's address, is read as a job of the issuer's node
reads it. -/
def sysPrunCore (i : Issuer) (ctx : Nat) (b : W64) (s : State) : SysStep :=
  let c := field b 0 9
  let k := s.core c
  if s.bumping ctx then sysStatus s 4
  else if (s.ctx ctx).state ≠ .running ∨ (k.job.map (·.ctx)) ≠ some ctx ∨ !k.svcWait then sysStatus s 1
  else if !s.savedAnswered c then .wait s
  else
    match s.readVirt { s.engineParty c .cc with part := i.part, slot := i.slot, core := none } false permR k.tframe.toNat frameBytes with
    | .ok bs =>
      if poisonedP bs then sysStatus (s.consumePoison c (s.paOf (s.engineParty c .cc) k.tframe)) 0
      else sysStatus (s.returnFrom c bs) 0
    | .error (.wait s) => .wait s
    | .error (.bad f) => sysStatus (s.fault c .cc f) 0
    | .error (.stale u) => .wait (s.updMem fun m => m.countDrop u ctx)
    | .error (.poison _) => .wait s

/-- `gate` (R343, R446). -/
def sysGate (k : Nat) (s : State) : SysStep :=
  if (s.cluster k).gated then sysStatus s 0 else if s.clusterBusy k then sysStatus s 4 else sysStatus (s.gateCluster k) 0

/-- `wake` (R343, R447): it completes when the cluster is restored. -/
def sysWake (k step : Nat) (s : State) : SysStep :=
  let u := s.cluster k
  if step = 0 then
    if !u.gated then sysStatus s 1
    else
      match execClusterWakeRegister k s with
      | .next s => .go s 1 []
      | _ => .wait s
  else if u.gated then .wait s
  else sysStatus s 0

/-- `alarmclr` (R343, R440). -/
def sysAlarmclr (s : State) : SysStep :=
  let v := s.power.occause
  .done (s.updPower fun p => { p with occause := 0 }) (some v)

/-- A dword of a log entry (R452). -/
def LogEnt.dword (e : LogEnt) (i : Nat) : W64 :=
  match i with
  | 0 => e.d0 | 1 => e.d1 | 2 => e.d2 | 3 => e.d3 | _ => 0

/-- `logrd` (R343, R452): the oldest entry of the issuer's own log. -/
def sysLogrd (ctx : Nat) (pop : Bool) (a : W64) (s : State) : SysStep :=
  let l := sget [] s.mem.logs ctx
  let v := (l.head?.map fun e => e.dword (field a 0 3)).getD 0
  .done (if pop then s.updMem fun m => { m with logs := sset [] m.logs ctx (l.drop 1) } else s) (some v)

/-- Parameters whose write is no event of its own take effect at once (R340). -/
def quietParam (n : Nat) : Bool := n == 0x18 || n == 0x19 || n == 0x24

/-- A parameter write (R340): its event, or this step, makes it. -/
def sysCsrw (step : Nat) (aux : List Nat) (v : W64) (s : State) : SysStep :=
  let n := aux.headD 0
  if step = 0 then .go s 1 aux
  else if step = 1 then
    if quietParam n then .go (s.updCtx (aux.getD 1 0) fun x => (x.setParam n v).getD x) 2 aux else .wait s
  else if s.mem.unperformed (aux.drop 2) then .wait s
  else .done s none

/-- One step of a held system word (R337-R343). -/
def State.systemStep (s : State) (i : Issuer) (opc mod : Nat) (a b c : W64) (step : Nat) (aux : List Nat) : SysStep :=
  let ctx := field a 0 10
  match opc with
  | 0x381 => sysCsrw step aux a s
  | 0x384 => sysTlbi ctx mod step aux b s
  | 0x385 => sysAtbw i.ctx step aux a b c s
  | 0x386 => sysIncb ctx step aux s
  | 0x387 => sysReclaim ctx step aux s
  | 0x388 => sysCtxsave i ctx b s
  | 0x389 => sysCtxload i ctx b c s
  | 0x38A => sysPstop ctx step s
  | 0x38B => if mod.testBit 0 then sysPrunCore i ctx b s else sysPrun i ctx s
  | 0x38C => sysPreempt ctx step s
  | 0x38D => sysHltclr ctx s
  | 0x38E => sysGate (field a 0 6) s
  | 0x38F => sysWake (field a 0 6) step s
  | 0x390 => sysAlarmclr s
  | _ => sysLogrd i.ctx (mod.testBit 0) a s

/-- A held system word of core `c` goes as far as it can in one step; its result lands when it ends (R337). -/
def State.advanceSystem (s : State) (c : Nat) (op : MemOp) : State × MemOp :=
  match op.hold with
  | some (.system opc mod a b d step aux) =>
    match s.systemStep (s.issuer c) opc mod a b d step aux with
    | .wait s => (s, op)
    | .go s step aux => (s, { op with hold := some (.system opc mod a b d step aux) })
    | .done s v =>
      let s := match v with
        | some v => s.landHeld c op v
        | none => s
      s.finishOp c op
    | .fault f => (s.stopStrm c op.strm (.bad f) op.pc 0, op)
  | _ => s.advanceHold c op

/-- A held word of core `c`, system words among them. -/
def State.advanceHeld (s : State) (c : Nat) (op : MemOp) : State × MemOp :=
  if op.stage < 2 then s.advanceOp c op
  else
    match op.hold with
    | some (.system _ _ _ _ _ _ _) => s.advanceSystem c op
    | _ => s.advanceHold c op

end Sys2Proof.Machine
end

