-- ==== Sys2Proof/Machine/Reliab.lean ====
section
/-! DEFINITION. Known-answer sweeps (R393, R453), machine checks (R389, R454), and the ports of the base dies (R455, R456). -/

namespace Sys2Proof.Machine

/-! ## Known-answer sweeps -/

/-- Whether firmware's sweep of a core may run: it is suspect and has not failed one, or a command asks for it; and no job is left. -/
def State.sweepDue (s : State) (c : Nat) : Bool :=
  let k := s.core c
  k.job.isNone && decide (c < 512) && ((k.suspect && !k.failed) || s.fw.sweeps.contains c)

/-- KAT_SWEEP (R393, R453): 64 tiles run. Whether the silicon passes, and at which tile it fails, is free. A core that has failed stays
out of the pool. -/
def execKatSweep (core : Nat) (s : State) : Out :=
  if !s.sweepDue core then .next s
  else
    let pass := Config.choice s.free % 2 == 0
    let s := { s with fw := { s.fw with sweeps := s.fw.sweeps.filter fun c => c != core } }
    let s := s.updCore core fun k => { k with suspect := !pass || k.failed, failed := k.failed || !pass }
    .next (s.logEvent 10 (coreSource core 4) none core (if pass then 0 else 1)
      (if pass then 0 else BitVec.ofNat 64 (Config.choice (s.free + 1) % 64))).drawn.drawn

/-! ## Machine checks -/

/-- Source number of a unit that fails (R454, R403). -/
def checkSource (cause unit engine : Nat) : Nat :=
  match cause with
  | 1 => coreSource unit engine
  | 3 => (8 + unit / 18) * 4096 + 7 * 64 + unit % 18
  | 4 => (10 + unit / 4) * 4096 + unit % 4 * 64
  | _ => clusterSource unit

/-- Context and node of each running job on some cores, each once. -/
def State.nodesOn (s : State) (cs : List Nat) : List (Nat × W32) :=
  (cs.filterMap fun c => (s.core c).job.map fun j => (j.ctx, j.node)).eraseDups

/-- Context and node of the tile work of this device that some nodes satisfying a test belong to. -/
def State.tileNodes (s : State) (f : TileNode → Bool) : List (Nat × W32) :=
  (s.tiles.filter fun t => t.back.isNone && t.nodes.any fun x => x.accepted && !x.complete && f x).map fun t => (t.ctx, t.node)

/-- Cores with a request that a failing link has discarded, or with a tile instruction at a device that no link reaches any more
(R181, R356). -/
def State.coresOverLink (s : State) (l : Nat) : List Nat :=
  let devs := (sget {} s.links l).reaches
  let lost := s.mem.reqs.filter fun r => r.stage == .lost && decide (r.master < 512) && (s.core r.master).theJob.ctag == r.ctag && match destOf s.mem r.pa with
    | .peer d _ => devs.contains d
    | _ => false
  let tiles := s.tiles.filter fun t => match t.remote with
    | some d => devs.contains d && !s.reachable d
    | none => false
  (lost.map (·.master) ++ tiles.filterMap (·.core)).eraseDups

/-- Task nodes whose tile instruction runs at a device that a failing link reached and no link does any more (R181, R356). -/
def State.tasksOverLink (s : State) (l : Nat) : List (Nat × W32) :=
  let devs := (sget {} s.links l).reaches
  (s.tiles.filter fun t => t.core.isNone && t.back.isNone && t.remote.any fun d => devs.contains d && !s.reachable d).map fun t => (t.ctx, t.node)

/-- Nodes that a failing unit serves (R454): those of the jobs on its cores, and those of the tile work in it. -/
def State.nodesServed (s : State) (cause unit : Nat) : List (Nat × W32) :=
  let fetched := (s.mem.bd.filter fun b => b.stack == unit && !b.replied).filterMap fun b =>
    match b.nmv with
    | some n => some n.1
    | none => (b.fetch.bind s.mem.findReq).map (·.master)
  let all := match cause with
  | 1 => s.nodesOn [unit] ++ s.tileNodes fun x => x.level == 1 && x.unit == unit
  | 3 => s.nodesOn (s.coresOverLink unit) ++ s.tasksOverLink unit
  | 4 => s.nodesOn fetched ++ s.tileNodes fun x => x.level == 0 && x.unit == unit
  | _ => s.nodesOn ((List.range 8).map (8 * unit + ·))
      ++ s.tileNodes fun x => (x.level == 1 && clusterOf x.unit == unit) || (x.level == 2 && x.unit == unit)
  all.eraseDups

/-- The context whose partition holds a failing core or cluster. -/
def State.holderOf (s : State) (cause unit : Nat) : Option Nat :=
  match cause with
  | 1 => s.contextOfCluster (clusterOf unit)
  | 3 | 4 => none
  | _ => s.contextOfCluster unit

/-- Dword 0 of a machine check's log entry (R401, R452). -/
def checkHead (cause unit engine : Nat) (ctag : W16) : W64 := logHead 6 (checkSource cause unit engine) ctag cause

/-- One node that the unit serves (R389): a restartable node rolls back and re-executes; any other faults. -/
def State.checkNode (s : State) (cause unit engine ctx : Nat) (node : W32) : State :=
  let ctag := s.ctagOf ctx
  let s := s.logEvent 6 (checkSource cause unit engine) (some ctag) cause (BitVec.ofNat 64 unit) (node.setWidth 64)
  let restartable := (s.nodes.find? fun n => n.ctx == ctx && n.r.nodeid == node).any fun n => n.flags.testBit 0
  if restartable then s.rollback ctx node .hardware
  else
    s.raiseRecord (s.ctx ctx).part
      { src := checkSource cause unit engine, code := FaultCode.machineCheck.code, gtc := s.gtc, ctag := ctag, node := node
        det1 := checkHead cause unit engine ctag, time := BitVec.ofNat 64 s.gtc }

/-- A machine check (R454). -/
def State.machineCheck (s : State) (cause unit engine : Nat) : State :=
  let s := { s with checks := s.checks.filter fun c => c != (cause, unit, engine) }
  let served := s.nodesServed cause unit
  let s :=
    if served.isEmpty then
      let e : LogEnt := { d0 := checkHead cause unit engine 0, d1 := BitVec.ofNat 64 s.gtc, d2 := BitVec.ofNat 64 unit, d3 := 0xFFFFFFFF }
      match s.holderOf cause unit with
      | some x => (s.pushLog 1024 e).pushLog (s.ctx x).mgr e
      | none => s.pushLog 1024 e
    else served.foldl (fun s n => s.checkNode cause unit engine n.1 n.2) s
  if cause = 1 then s.updCore unit fun k => { k with suspect := true } else s

/-- MACHINE_CHECK (R454). -/
def execMachineCheck (cause unit engine : Nat) (s : State) : Out := .next (s.machineCheck cause unit engine)

/-! ## Base-die ports -/

/-- Line number of a base-die request. -/
def BdReq.line (b : BdReq) : Nat := (2 ^ 35 + b.stack * 2 ^ 31 + b.addr % 2 ^ 31) / 4

/-- Byte mask, in its line, of the sectors a request covers; a masked write covers its bytes of one sector. -/
def BdReq.lineMask (b : BdReq) : LineMask :=
  let s0 := b.addr % 4
  if b.kind = 2 then BitVec.ofNat 128 (b.mask.toNat <<< (32 * s0))
  else BitVec.ofNat 128 ((2 ^ (32 * (Nat.min (b.len + 1) (4 - s0))) - 1) <<< (32 * s0))

/-- The bytes a request writes, placed in its line. -/
def BdReq.lineData (b : BdReq) : LineData := BitVec.ofNat 1024 (leNat b.data <<< (256 * (b.addr % 4)))

/-- Perform a request at the stack (R448-R450, R455, R456). -/
def State.performBd (s : State) (b : BdReq) : State × BdReq :=
  let sectors := (List.range 4).filter fun i => sectorMask b.lineMask i != 0
  let old := s.mem.linePoison b.line
  let done := { b with performed := true }
  match b.kind with
  | 0 =>
    let corr := sectors.any fun i => s.mem.latent.contains (.corrected (4 * b.line + i))
    let line := s.mem.lineData b.line
    let n := 32 * Nat.min (b.len + 1) (4 - b.addr % 4)
    (s.correctLine b.line b.ctag,
      { done with
        data := (List.range n).map fun i => byteAt line (32 * (b.addr % 4) + i)
        status := if sectors.any (fun i => bit old i) then 2 else if corr then 1 else 0 })
  | 1 | 2 =>
    if b.wb then (s, done)
    else (s.dramLine b.line b.lineMask b.lineData 0 b.ctag 0xFFFFFF,
      { done with status := if (deferredSectors b.lineMask old).isEmpty then 0 else 3 })
  | _ => (match b.nmv with
    | some (c, _, _) => s.chargeMaster c 20 1
    | none => s, done)

/-- The lowest tag of a port that is not in use: a tag whose reply is accepted now is free from the next port edge (R455). -/
def Mem.freeBdTag (m : Mem) (stack port gtc : Nat) : Option Nat :=
  (List.range 8).find? fun t => !(m.bd.any fun b => b.stack == stack && b.port == port && b.tag == t && (!b.replied || b.issued == gtc))

/-- Whether nothing needs a request of a base die any more. -/
def BdReq.over (b : BdReq) (gtc : Nat) : Bool := b.replied && b.nmv.isNone && b.issued != gtc

/-- A base die checks what L2 brings for a request of a core (R334, R335, R348): `some` where the request goes no further. -/
def State.fetchStops (s : State) (b : BdReq) : Option State :=
  match b.fetch.bind s.mem.findReq with
  | none => none
  | some r =>
    match s.mem.dramCheck (128 * b.line) r.master b.ctag r.pa r.kind.need with
    | .denied u => some ((s.refuseReq r (some u)).updMem fun m => { m with bd := m.bd.erase b })
    | _ => none

/-- BASE_DIE_REQUEST (R334, R348, R455, R456): at a port edge the oldest waiting request takes a free tag and is performed after every earlier
one. A stale one is dropped and its tag stays in use; one that the access table refuses ends in a notice. -/
def execBaseDieRequest (stack port : Nat) (s : State) : Out :=
  let here := fun (b : BdReq) => b.stack == stack && b.port == port
  match s.mem.bd.find? fun b => here b && b.tag == 8, s.mem.freeBdTag stack port s.gtc with
  | some b, some t =>
    if s.gtc % 4 != 0 || s.mem.bd.any (fun q => here q && q.tag != 8 && !q.replied && q.issued == s.gtc) then .next s
    else
      let b' := { b with tag := t, issued := s.gtc }
      let put := fun (s : State) (x : BdReq) => s.updMem fun m => { m with bd := modifyAt m.bd (m.bd.idxOf b) fun _ => x }
      if !b.wb && s.mem.staleAt (unitBaseDie stack) b.ctag then
        .next ((put s { b' with dropped := true }).updMem fun m =>
          ((b.fetch.map m.dropReq).getD m).countDrop (unitBaseDie stack) (ctagCtx b.ctag))
      else if 3 < b.kind then .next { put s { b' with performed := true } with checks := s.checks ++ [(4, stack, b.kind)] }
      else
        match s.fetchStops b with
        | some t => .next t
        | none =>
          let r := s.performBd b'
          .next (put r.1 r.2)
  | _, _ => .next s

/-- BASE_DIE_REPLY (R455): the reply is accepted at the port, which frees the tag; L2 then holds the line it asked for, and the block of a
near-memory product completes. -/
def execBaseDieReply (stack port tag : Nat) (s : State) : Out :=
  let mine := fun (b : BdReq) => b.stack == stack && b.port == port && b.tag == tag && b.performed && !b.replied
  let lines := (s.mem.bd.filter fun b => mine b && b.fetch.isSome).map (·.line)
  .next (lines.foldl (fun s l => s.l2Put l none) (s.updMem fun m =>
    { m with bd := (mapIf mine (fun b => { b with replied := true, fetch := none, issued := s.gtc }) m.bd).filter fun b => !b.over s.gtc }))

end Sys2Proof.Machine
end

