-- ==== Sys2Proof/Machine/Host.lean ====
section
/-! DEFINITION. The host's RoCEv2 operations (R457, R458), requests from peers (R460), and the scale-up links (R356, R459). -/

namespace Sys2Proof.Machine

/-! ## Physical accesses of the endpoints and ingresses -/

/-- Answer a host queue pair or a peer. -/
def State.answer (s : State) (master st : Nat) (bs : List Byte) : State :=
  { s with fw := { s.fw with answers := s.fw.answers ++ [(master, st, bs)] } }

/-- What became of one line of a physical access: performed, refused, dropped as stale, poisoned, or beyond a link that is down. -/
inductive Reached where
  | done | refused | stale | poison | unreachable
  deriving DecidableEq, Repr

/-- The checks of one line of a physical access (R334, R348, R460): what came of them, with the location, or the unit where they failed. -/
def State.physCheck (s : State) (master : Nat) (ctag : W16) (pa need : Nat) : Reached × Option Nat :=
  match destOf s.mem pa with
  | .dram loc =>
    match s.mem.checkAt loc master ctag pa need with
    | .pass => (.done, some loc)
    | .stale u => (.stale, some u)
    | .denied u => (.refused, some u)
  | .peer dev _ =>
    if 856 ≤ master || s.peerRefuses pa then (.refused, none) else (if (s.linkFor dev pa).isSome then .done else .unreachable, none)
  | _ => (.refused, none)

/-- The state after a check of a line: a stale or refused one is counted, a packet to a peer brings the device into the fabric set, and stale
versions of the line go. -/
def State.physSeen (s : State) (ctag : W16) (pa : Nat) (c : Reached × Option Nat) : State :=
  match c with
  | (.stale, some u) => s.updMem fun m => (m.countDrop u (ctagCtx ctag)).discardStale (lineOf pa)
  | (.refused, some u) => s.countDenied (some u)
  | (.done, some loc) => s.updMem fun m => m.discardStale (loc / 128)
  | (.done, none) => s.joinAt (ctagCtx ctag) pa
  | _ => s

/-- Write physical bytes in rising order of address, a line at a time, up to the first line that is not performed (R263, R282, R458);
`staged`: into the staged version of a slot. A write to a peer is performed there. -/
def State.physWrite (s : State) (master : Nat) (ctag : W16) (staged : Option Nat) (pa : Nat) (bs : List Byte) : State × Reached :=
  let r := (linePieces pa bs.length).foldl (fun (acc : State × Reached × List Byte) q =>
    match acc.2.1 with
    | .done =>
      let c := acc.1.physCheck master ctag q.1 permW
      let s := acc.1.physSeen ctag q.1 c
      let (mask, data, _) := pieceLine q.1 ((acc.2.2.take q.2).map fun b => (b, false))
      let s := match c with
        | (.done, some _) => s.writeNode (s.ctx (ctagCtx ctag)).part staged ctag 0xFFFFFF 0 (alignDown q.1 128) mask data 0 none
        | _ => s
      (s, c.1, acc.2.2.drop q.2)
    | _ => acc) (s, .done, bs)
  (r.1, r.2.1)

/-- Read physical bytes of the committed version, up to the first line that is not performed (R449, R458). What a peer answers is free. -/
def State.physRead (s : State) (master : Nat) (ctag : W16) (pa n : Nat) : State × Reached × List Byte :=
  (linePieces pa n).foldl (fun (acc : State × Reached × List Byte) q =>
    match acc.2.1 with
    | .done =>
      let c := acc.1.physCheck master ctag q.1 permR
      let s := acc.1.physSeen ctag q.1 c
      match c with
      | (.done, some loc) =>
        let line := (s.mem.lineData (loc / 128), s.mem.linePoison (loc / 128))
        if poisonHit line.2 loc q.2 then (s, .poison, []) else (s.correctLine (loc / 128) ctag, .done, acc.2.2 ++ (pieceBytes line (loc % 128) q.2).map (·.1))
      | (.done, none) =>
        if poisonHit (s.peerPoison q.1) q.1 q.2 then (s.drawn, .poison, [])
        else (s.drawn, .done, acc.2.2 ++ (List.range q.2).map fun i => Config.freeByte (128 * s.free + i))
      | _ => (s, c.1, [])
    | _ => acc) (s, .done, [])

/-- Fetch-and-add of 8 bytes in the committed version (R303, R458): the new state and the old value. -/
def State.physAdd (s : State) (master : Nat) (ctag : W16) (pa : Nat) (add : W64) : State × Reached × List Byte :=
  let c := s.physCheck master ctag pa (permR + permW + permA)
  let s := s.physSeen ctag pa c
  match c with
  | (.done, some loc) =>
    if poisonHit (s.mem.linePoison (loc / 128)) loc 8 then (s, .poison, [])
    else
      let old := lineBytesAt (s.mem.lineData (loc / 128)) loc 8
      let new := (old + add.toNat) % 2 ^ 64
      (s.commitLine (loc / 128) (byteMask loc 8) (byteData loc new) 0 ctag 0xFFFFFF, .done, leBytes old 8)
  | (.done, none) =>
    if poisonHit (s.peerPoison pa) pa 8 then (s.drawn, .poison, [])
    else (s.drawn, .done, (List.range 8).map fun i => Config.freeByte (128 * s.free + i))
  | _ => (s, c.1, [])

/-- The lines under a physical range, for a signature (R287). -/
def physLines (pa n : Nat) : List Nat := (linePieces pa n).map (·.1)

/-! ## Host queue pairs -/

/-- Source number of the endpoint of a queue pair (R403, R457). -/
def endpointSource (qp : Nat) : Nat := (8 + qp / 128) * 4096 + 6 * 64

/-- CTAG that the endpoint stamps on a queue pair's requests: CUR of its bound context (R347, R458). -/
def State.hostTag (s : State) (qp : Nat) : Option W16 :=
  if 256 ≤ qp then none
  else (sfind s.fw.qps qp).map fun x => Sys2Proof.Machine.ctagOf x (s.mem.curAt (unitEndpoint (qp / 128)) x)

/-- How an operation of a queue pair completes (R335, R348, R449): a stale one is not answered. -/
def State.hostAnswer (s : State) (qp pa : Nat) (ctag : W16) (r : Reached) (bs : List Byte) : State :=
  let m := 600 + qp
  match r with
  | .done => s.answer m 0 bs
  | .stale => s
  | .refused => { s with fw := { s.fw with violations := s.fw.violations ++ [(endpointSource qp, m, pa, s.gtc)] } }.answer m 1 []
  | .poison => (s.logEvent 3 (endpointSource qp) (some ctag) 0 (BitVec.ofNat 64 pa) 0xFFFFFFFF).answer m 2 []
  | .unreachable => s.answer m 2 []

/-- An operation of a queue pair; without a bound context it is dropped as an access violation (R458). -/
def State.hostOp (s : State) (qp pa : Nat) (f : W16 → State × Reached × List Byte) : State :=
  match s.hostTag qp with
  | none => s.hostAnswer qp pa 0 .refused []
  | some t =>
    let r := f t
    r.1.hostAnswer qp pa t r.2.1 r.2.2

/-- Perform an operation of a queue pair: a write as an engine write at device scope (R263), a read (R449), a fetch-and-add with release at
device scope (R303). -/
def State.hostRun (s : State) (qp pa : Nat) (op : PeerOp) : State :=
  match op with
  | .write data _ =>
    s.hostOp qp pa fun t =>
      let r := s.physWrite (600 + qp) t none pa data
      (r.1.publishOn (ctagCtx t) 0 3 (sigOf (physLines pa data.length)), r.2, [])
  | .read len => s.hostOp qp pa fun t => s.physRead (600 + qp) t pa len
  | .fetchAdd add =>
    s.hostOp qp pa fun t =>
      let r := s.physAdd (600 + qp) t pa add
      (if r.2.1 = .done then r.1.publishOn (ctagCtx t) 0 3 (sigOf [pa]) else r.1, r.2)

/-- Whether a queue pair has stopped: its context has been killed and not reclaimed (R352, R354). -/
def State.qpStopped (s : State) (qp : Nat) : Bool := (sfind s.fw.qps qp).any fun x => (s.pendingBump x).isSome

/-- An operation comes at a queue pair: behind those that it holds, if it has stopped (R352). -/
def State.hostDo (s : State) (qp pa : Nat) (op : PeerOp) : State :=
  if s.qpStopped qp || s.fw.hostHeld.any (fun h => h.qp == qp) then
    { s with fw := { s.fw with hostHeld := s.fw.hostHeld ++ [{ qp := qp, pa := pa, op := op }] } }
  else s.hostRun qp pa op

/-- A queue pair that has resumed performs the oldest operation that it holds (R354). -/
def State.hostResume (s : State) : State :=
  match s.fw.hostHeld.find? fun h => !s.qpStopped h.qp with
  | some h => { s with fw := { s.fw with hostHeld := s.fw.hostHeld.erase h } }.hostRun h.qp h.pa h.op
  | none => s

/-- HOST_RDMA_WRITE (R263, R458): as an engine write at device scope. -/
def execHostRdmaWrite (qp pa : Nat) (data : List Byte) (s : State) : Out := .next (s.hostDo qp pa (.write data none))

/-- HOST_RDMA_READ (R449, R458). -/
def execHostRdmaRead (qp pa len : Nat) (s : State) : Out := .next (s.hostDo qp pa (.read len))

/-- HOST_RDMA_FETCH_ADD (R303, R458): an address that is no multiple of 8 is an invalid request. -/
def execHostRdmaFetchAdd (qp pa : Nat) (add : W64) (s : State) : Out :=
  if pa % 8 != 0 then .next (s.answer (600 + qp) 3 []) else .next (s.hostDo qp pa (.fetchAdd add))

/-- HOST_SEND (R457, R458): a send on queue pair 0 lands in the firmware's queue; any other is refused. -/
def execHostSend (qp : Nat) (slot : BitVec 512) (s : State) : Out :=
  if qp = 0 then .next { s with fw := { s.fw with cmds := s.fw.cmds ++ [{ slot := slot }] } } else .next (s.answer (600 + qp) 3 [])

/-- HOST_REQUEST_REFUSED (R457): an operation that is not supported has no effect but its answer. -/
def execHostRequestRefused (qp : Nat) (_op : HostOp) (s : State) : Out := .next (s.answer (600 + qp) 3 [])

/-- ETHERNET_LINK_TRAINING (R457): the host side chooses the rate. -/
def execEthernetLinkTraining (port : Nat) (rate400 : Bool) (s : State) : Out :=
  .next { s with fw := { s.fw with rate400 := modifyAt s.fw.rate400 port fun _ => rate400 } }

/-! ## Peers -/

/-- Permissions that a peer's operation needs (R334). -/
def peerNeed : PeerOp → Nat
  | .read _ => permR
  | .write _ _ => permW
  | .fetchAdd _ => permR + permW + permA

/-- Answer a peer: data, a violation notice, or status POISON (R335, R449). -/
def State.peerAnswer (s : State) (link pa : Nat) (ctag : W16) (r : Reached) (bs : List Byte) : State :=
  let m := 856 + link
  match r with
  | .done => s.answer m 0 bs
  | .stale => s
  | .poison => (s.logEvent 3 (checkSource 3 link 0) (some ctag) 0 (BitVec.ofNat 64 pa) 0xFFFFFFFF).answer m 2 []
  | _ => s.answer m 1 []

/-- Perform what a peer asks for; what it writes joins the context's fabric board (R282, R289). -/
def State.peerPerform (s : State) (link : Nat) (ctag : W16) (op : PeerOp) (pa : Nat) : State :=
  let m := 856 + link
  let board := fun (s : State) (n : Nat) => s.publishOn (ctagCtx ctag) 0 4 (sigOf (physLines pa n))
  match op with
  | .read len =>
    let r := s.physRead m ctag pa len
    r.1.peerAnswer link pa ctag r.2.1 r.2.2
  | .write data staged =>
    let r := s.physWrite m ctag staged pa data
    (if staged.isNone then board r.1 data.length else r.1).peerAnswer link pa ctag r.2 []
  | .fetchAdd add =>
    let r := s.physAdd m ctag pa add
    (if r.2.1 = .done then board r.1 8 else r.1).peerAnswer link pa ctag r.2.1 r.2.2

/-- PEER_REQUEST_INGRESS (R335, R348, R460): the incarnation check and the access check at the ingress, then the home's. -/
def execPeerRequestIngress (link : Nat) (ctag : W16) (op : PeerOp) (pa : Nat) (s : State) : Out :=
  match s.mem.check (unitIngress link) (856 + link) ctag pa (peerNeed op) with
  | .stale u => .next (s.updMem fun m => m.countDrop u (ctagCtx ctag))
  | .denied u => .next ((s.countDenied (some u)).answer (856 + link) 1 [])
  | .pass =>
    match op with
    | .fetchAdd _ => if pa % 8 != 0 then .next (s.answer (856 + link) 1 []) else .next (s.peerPerform link ctag op pa)
    | _ => .next (s.peerPerform link ctag op pa)

/-! ## Scale-up links -/

/-- A link. -/
def State.link (s : State) (l : Nat) : Link := sget {} s.links l

/-- Change a link. -/
def State.setLink (s : State) (l : Nat) (x : Link) : State := { s with links := sinsert s.links l x }

/-- LINK_FLIT_RECEIVE (R459): a flit whose CRC fails is to be replayed; one that comes again is acknowledged again; the next in sequence is
taken. -/
def execLinkFlitReceive (link seq : Nat) (crcOk : Bool) (s : State) : Out :=
  let l := s.link link
  if !l.up then .next s
  else if !crcOk then .next (s.setLink link { l with fails := l.fails + 1 })
  else if seq = l.next then .next (s.setLink link { l with next := l.next + 1, acked := l.acked + 1, fails := 0 })
  else if seq < l.next then .next (s.setLink link { l with acked := l.acked + 1 })
  else .next s

/-- LINK_REPLAY_LIMIT (R356, R459): after 16 failed replays the link goes down; what was on it is discarded, and a machine check of cause 3
follows. -/
def execLinkReplayLimit (link : Nat) (s : State) : Out :=
  let l := s.link link
  if !l.up || l.fails ≤ 16 then .next s
  else
    let hit := s.mem.reqs.filter fun r => (r.stage == .home || r.stage == .reply) && match destOf s.mem r.pa with
      | .peer d _ => s.linkFor d r.pa == some link
      | _ => false
    let s := s.updMem fun m => hit.foldl (fun m r => m.setReq { r with stage := .lost }) m
    .next { s.setLink link { l with up := false, fails := 0, next := 0, down := s.gtc } with checks := s.checks ++ [(3, link, 0)] }

/-- LINK_UP (R356, R459): a link has trained; it resynchronises before it passes a packet. Which devices it reaches is fixed by the board. -/
def execLinkUp (link : Nat) (s : State) : Out :=
  if 36 ≤ link || (s.link link).up then .next s
  else
    let devs := (List.range s.mem.domain).filter fun d => d != s.mem.devId && Config.linkReaches link d
    .next (s.setLink link { s.link link with up := true, reaches := devs, next := 0, fails := 0, resync := true })

end Sys2Proof.Machine
end

