-- ==== Sys2Proof/Machine/Firmware.lean ====
section
/-! DEFINITION. Firmware's management commands (R425, R427, R461-R464). Where the spec gives a command's payload no layout, the one used
here is the model's (log entry 44). -/

namespace Sys2Proof.Machine

/-! ## Reading and answering -/

/-- Physical bytes as firmware reads them: no access check (R332). Nothing is read outside DRAM or from poison. -/
def State.fwRead (s : State) (pa n : Nat) : Option (List Byte) :=
  (linePieces pa n).foldlM (fun (acc : List Byte) q =>
    match locOf q.1 with
    | none => none
    | some loc =>
      if poisonHit (s.mem.linePoison (loc / 128)) loc q.2 then none
      else some (acc ++ (pieceBytes (s.mem.lineData (loc / 128), 0) (loc % 128) q.2).map (·.1))) []

/-- A little-endian field of a list of bytes. -/
def leField (bs : List Byte) (off n : Nat) : Nat := leNat ((bs.drop off).take n)

/-- STATUS of a response (R461). -/
inductive FwStatus where
  | ok | badCmd | badArg | denied | busy | conflict
  deriving DecidableEq, Repr

/-- The code of a STATUS (R461). -/
def FwStatus.code : FwStatus → Nat
  | .ok => 0 | .badCmd => 1 | .badArg => 2 | .denied => 3 | .busy => 4 | .conflict => 5

/-- What a command comes to: it waits, or it ends with a status, a reason and data from byte 8 of its response. -/
inductive FwOut where
  | wait (s : State)
  | done (s : State) (st : FwStatus) (reason : Nat) (data : List Byte)

/-- A command that ends without a reason or data. -/
def FwOut.plain (s : State) (st : FwStatus) : FwOut := .done s st 0 []

/-- A command leaves the queue; its packet's server moves on. -/
def State.dropCommand (s : State) (m : Mgmt) : State :=
  let s := { s with fw := { s.fw with cmds := s.fw.cmds.drop 1 } }
  match m.queue with
  | some q => s.serverDone q
  | none => s

/-- The 64-byte response is written as a release (R461); through a registered queue it joins the device board of the queue's context. -/
def State.respond (s : State) (m : Mgmt) (st : FwStatus) (reason : Nat) (data : List Byte) : State :=
  let resp := pf m.slot 0x18 8
  let bs := BitVec.ofNat 8 st.code :: BitVec.ofNat 8 reason :: (leBytes 0 6 ++ (data.take 56 ++ leBytes 0 (56 - data.length)))
  let ok := (linePieces resp 64).all fun q => (locOf q.1).isSome
  let s := if ok then s.writeBytes resp bs 0 0xFFFFFF else s
  match m.queue with
  | some q => if ok then s.publishOn (ctagCtx (s.queue q).ctag) 0 3 (sigOf (physLines resp 64)) else s
  | none => s

/-! ## The queue of commands -/

/-- Whether a slot is a command of the table: KIND 0x40, CMD 1 to 17, reserved bytes zero (R461). -/
def goodCommand (m : BitVec 512) : Bool :=
  pf m 0 1 == 0x40 && decide (1 ≤ pf m 1 1 ∧ pf m 1 1 ≤ 0x11) && pf m 2 6 == 0 && pf m 0x20 31 == 0

/-- Serve the command at the head of the queue if it is command `cmd`, with its payload of `len` bytes (any length where `none`); INFO's
step also turns away what is no command (R461). -/
def serve (cmd : Nat) (len : Option Nat) (f : Mgmt → List Byte → State → FwOut) (s : State) : Out :=
  match s.fw.cmds.head? with
  | none => .next s
  | some m =>
    if isVoid m.slot then .next (if cmd = 1 then s.dropCommand m else s)
    else if !goodCommand m.slot then .next (if cmd = 1 then (s.respond m .badCmd 0 []).dropCommand m else s)
    else if pf m.slot 1 1 != cmd then .next s
    else if s.fw.recovery && cmd != 1 && cmd != 0x0E then .next ((s.respond m .denied 0 []).dropCommand m)
    else
      let n := pf m.slot 0x10 8
      match (if (len.getD n) = n then s.fwRead (pf m.slot 8 8) n else none) with
      | none => .next ((s.respond m .badArg 0 []).dropCommand m)
      | some p =>
        match f m p s with
        | .wait s => .next s
        | .done s st reason data => .next ((s.respond m st reason data).dropCommand m)

/-- The command at the head waits for something. -/
def State.headWaits (s : State) (n : Nat) : State :=
  { s with fw := { s.fw with cmds := modifyAt s.fw.cmds 0 fun c => { c with waits := some n } } }

/-! ## Reports -/

/-- INFO (R461): part, firmware and security versions, DEVID, the size of the pool, the address of the certificate chain, which is free. -/
def execInfo (s : State) : Out :=
  serve 1 (some 0) (fun _ _ s =>
    let pool := ((List.range 512).filter fun c => !(s.core c).suspect).length
    let part : List Byte := [0x46, 0x48, 0x43, 0x2D, 0x53, 0x58, 0x39, 0x2D, 0x4D, 0, 0, 0, 0, 0, 0, 0]
    .done s.drawn .ok 0 (part ++ leBytes (Config.imageField s.fw.image 2) 4 ++ leBytes s.fw.version.toNat 4 ++ leBytes s.mem.devId 2
      ++ leBytes pool 2 ++ leBytes 0 4 ++ leBytes (Config.freeWord s.free).toNat 8)) s

/-- The bytes of a report that are signed (R464). -/
def State.reportBody (s : State) (nonce : List Byte) : List Byte :=
  nonce.take 32 ++ leBytes (Config.imageField s.fw.image 0) 48 ++ leBytes s.fw.version.toNat 4 ++ leBytes s.mem.devId 2 ++ leBytes 0 2
    ++ leBytes s.gtc 8 ++ leBytes s.fw.facility.toNat 16 ++ leBytes s.power.seq.toNat 8

/-- A signature of the device over bytes (R463, R464). -/
def State.signed (s : State) (alg n : Nat) (bs : List Byte) : List Byte := (List.range n).map fun i => Config.signature alg s.fw.boots bs i

/-- ATTEST (R464): the report is written where firmware chooses, at a free address of device memory, and signed twice. -/
def execAttest (s : State) : Out :=
  serve 2 (some 32) (fun _ p s =>
    let body := s.reportBody p
    let at_ := alignDown ((Config.freeWord s.free).toNat % 2 ^ 41) 128
    let s := s.drawn.writeBytes at_ (body ++ s.signed 0 64 body ++ s.signed 1 3309 body) 0 0xFFFFFF
    .done s .ok 0 (leBytes at_ 8)) s

/-- ENERGY (R430). -/
def execEnergy (s : State) : Out :=
  serve 0x0C (some 8) (fun _ p s =>
    if 1024 ≤ leField p 0 8 then .plain s .badArg else .done s .ok 0 (leBytes (s.ctx (leField p 0 8)).energy.toNat 8)) s

/-- FWLOG (R452): the oldest entry, its first seven dwords; an empty log gives zeros. -/
def execFwlog (s : State) : Out :=
  serve 0x11 (some 0) (fun _ _ s =>
    match sget [] s.mem.logs 1024 with
    | [] => .plain s .ok
    | e :: l =>
      .done (s.updMem fun m => { m with logs := sset [] m.logs 1024 l }) .ok 0
        (leBytes e.d0.toNat 8 ++ leBytes e.d1.toNat 8 ++ leBytes e.d2.toNat 8 ++ leBytes e.d3.toNat 8)) s

/-! ## Budgets and power -/

/-- Segment `i` of an object (R424). -/
def objSeg (p : List Byte) (i : Nat) : Seg :=
  { start := leField p (0x40 + 16 * i) 8, limit := leField p (0x48 + 16 * i) 4, ramp := leField p (0x4C + 16 * i) 2
    grade := leField p (0x4E + 16 * i) 1 }

/-- The first failure of an object, by its reason code; 0 where it is accepted (R424, R425). -/
def State.objReason (s : State) (p : List Byte) : Nat :=
  let n := leField p 6 2
  let segs := (List.range n).map (objSeg p)
  let vfrom := leField p 0x20 8
  let vto := leField p 0x28 8
  let body := p.take (0x40 + 16 * n)
  let keyE := s.fw.keys.take 32
  let keyM := s.fw.keys.drop 32
  if p.length < 0x40 || leField p 0 4 != 0x31484D42 || leField p 4 2 != 1 || n < 1 || 256 < n || leField p 0x30 16 != 0
      || p.length != 0xD6D + 16 * n || segs.any (fun g => decide (3 < g.grade)) || (List.range n).any (fun i => leField p (0x4F + 16 * i) 1 != 0) then 1
  else if leField p 8 16 != s.fw.facility.toNat then 2
  else if !Config.verifies 0 keyE body ((p.drop (0x40 + 16 * n)).take 64) then 3
  else if !Config.verifies 1 keyM body (p.drop (0x80 + 16 * n)) then 4
  else if leField p 0x18 8 ≤ s.power.seq.toNat then 5
  else if vto ≤ vfrom || vto ≤ s.gtc then 6
  else if (segs.head?.map (·.start)) != some vfrom || (segs.zip (segs.drop 1)).any (fun g => decide (g.2.start ≤ g.1.start))
      || segs.any (fun g => decide (vto ≤ g.start)) then 7
  else if segs.any (fun g => decide (g.limit < s.power.pmin ∨ 8000 < g.limit)) then 8
  else 0

/-- BUDGET (R424-R426, R475): the check is logged; an object that passes becomes the pending curve. -/
def execBudget (s : State) : Out :=
  serve 3 none (fun _ p s =>
    let r := s.objReason p
    let seq := BitVec.ofNat 64 (leField p 0x18 8)
    let s := s.budgetEvent 0 r seq
    if r = 0 then
      let curve : Curve := { seq := seq, vfrom := leField p 0x20 8, vto := leField p 0x28 8, segs := (List.range (leField p 6 2)).map (objSeg p) }
      .plain (s.updPower fun w => { w with pending := some curve, seq := seq }) .ok
    else .done s (if r = 3 ∨ r = 4 then .denied else .badArg) r []) s

/-- PWRSET (R427): the four parameters, then PCAP. -/
def execPwrset (s : State) : Out :=
  serve 4 (some 136) (fun _ p s =>
    .plain (s.updPower fun w =>
      { w with
        pfloor := leField p 0 2, rfloor := leField p 2 2, pmin := leField p 4 2, pidle := leField p 6 2
        pcap := foldUpTo 64 (fun t i => sset 0 t i (leField p (8 + 2 * i) 2)) [] }) .ok) s

/-- TABLES (R424, R429, R438): energy table, weight tables, facility identifier, and the two keys. Classes 24 to 31 stay zero. -/
def execTables (s : State) : Out :=
  serve 0x0D (some 4048) (fun _ p s =>
    let s := s.updPower fun w =>
      { w with
        etable := foldUpTo 288 (fun t i => sset 0 t i (BitVec.ofNat 32 (leField p (4 * i) 4))) []
        weights := foldUpTo 512 (fun t i => sset 0 t i (leField p (1536 + i) 1)) [] }
    .plain { s with fw := { s.fw with facility := BitVec.ofNat 128 (leField p 2048 16), keys := p.drop 2064 } } .ok) s

/-! ## Tables -/

/-- CTXDEF (R321): SVCQ, VALID, PRIV and MGR of a context that no partition holds. -/
def execCtxdef (s : State) : Out :=
  serve 5 (some 24) (fun _ p s =>
    let id := leField p 0 8
    let e := leField p 8 16
    if 1024 ≤ id || nbits e 46 10 == id then .plain s .badArg
    else if (s.ctx id).res then .plain s .busy
    else .plain (s.updCtx id fun x =>
      { x with svcq := BitVec.ofNat 64 (nbits e 64 64), valid := e.testBit 63, priv := e.testBit 62, mgr := nbits e 46 10 }) .ok) s

/-- Whether two rectangles share a cluster (R323). -/
def rectsMeet (a b : Part) : Bool :=
  decide (a.ox ≤ b.ox + b.wm1 ∧ b.ox ≤ a.ox + a.wm1 ∧ a.oy ≤ b.oy + b.hm1 ∧ b.oy ≤ a.oy + a.hm1)

/-- PARTDEF (R322, R323). -/
def execPartdef (s : State) : Out :=
  serve 6 (some 32) (fun _ p s =>
    let n := leField p 0 8
    let e := leField p 8 24
    let old := s.part n
    let new : Part :=
      { old with
        spill := BitVec.ofNat 64 (nbits e 128 64), stgl2 := BitVec.ofNat 64 (nbits e 64 64), valid := e.testBit 63
        ox := nbits e 49 4, oy := nbits e 47 2, wm1 := nbits e 43 4, hm1 := nbits e 41 2 }
    if 64 ≤ n || nbits e 128 21 != 0 || 15 < new.ox + new.wm1 || 3 < new.oy + new.hm1 then .plain s .badArg
    else if s.ctxs.any (fun x => x.2.res && x.2.part == n) then .plain s .busy
    else if new.valid && s.parts.any (fun q => q.1 != n && q.2.valid && rectsMeet q.2 new) then .plain s .conflict
    else .plain { s with parts := sinsert s.parts n new } .ok) s

/-- ATSET (R333, R336): the write goes through the arbiter, and the command ends when every target holds it. -/
def execAtset (s : State) : Out :=
  serve 7 (some 24) (fun m p s =>
    match m.waits with
    | some id => if s.mem.atq.any fun w => w.id == id then .wait s else .plain s .ok
    | none =>
      let e := BitVec.ofNat 128 (leField p 8 16)
      let lg := field e 106 6
      if 1024 ≤ leField p 0 8 || lg < 12 || 52 < lg || field e 12 40 * 4096 % 2 ^ lg != 0 then .plain s .badArg
      else
        let id := s.mem.nextReq
        .wait ((s.updMem fun w =>
          { w with atq := w.atq ++ [{ id := id, master := leField p 0 8, entry := e, done := [] }], nextReq := id + 1 }).headWaits id)) s

/-- QPBIND (R461): queue pair 1 to 255 to a context, or unbound where the context is all ones. -/
def execQpbind (s : State) : Out :=
  serve 8 (some 16) (fun _ p s =>
    let qp := leField p 0 8
    let x := leField p 8 8
    if qp = 0 || 256 ≤ qp then .plain s .badArg
    else if x = 2 ^ 64 - 1 then .plain { s with fw := { s.fw with qps := serase s.fw.qps qp } } .ok
    else if 1024 ≤ x || !(s.ctx x).valid then .plain s .badArg
    else match sfind s.fw.qps qp with
      | some y => .plain s (if x = y then .ok else .busy)
      | none => .plain { s with fw := { s.fw with qps := sinsert s.fw.qps qp x } } .ok) s

/-- QREG (R260, R262): header, server kind and CTAG. -/
def execQreg (s : State) : Out :=
  serve 9 (some 24) (fun _ p s =>
    let hdr := leField p 0 8
    let ctag := BitVec.ofNat 16 (leField p 16 8)
    if hdr % 64 != 0 || 4 < leField p 8 8 || !s.ctagCurrent ctag || 2 ^ 16 ≤ leField p 16 8 then .plain s .badArg
    else if s.queues.any (fun q => q.2.hdr.toNat == hdr && ctagCtx q.2.ctag == ctagCtx ctag) then .plain s .conflict
    else .plain { s with
      queues := sinsert s.queues s.nextQueue { hdr := BitVec.ofNat 64 hdr, server := leField p 8 8, ctag := ctag }
      nextQueue := s.nextQueue + 1 } .ok) s

/-- DEVID (R460): device ID and size of the domain. -/
def execDevid (s : State) : Out :=
  serve 0x0A (some 16) (fun _ p s =>
    if 1024 ≤ leField p 0 8 || leField p 8 8 = 0 || 1024 < leField p 8 8 then .plain s .badArg
    else .plain (s.updMem fun m => { m with devId := leField p 0 8, domain := leField p 8 8 }) .ok) s

/-- APSET (R460): aperture, device, remote base, valid. -/
def execApset (s : State) : Out :=
  serve 0x0B (some 32) (fun _ p s =>
    let a := leField p 0 8
    if 256 ≤ a || 1024 ≤ leField p 8 8 || leField p 16 8 % 2 ^ 35 != 0 || 1 < leField p 24 8 then .plain s .badArg
    else .plain (s.updMem fun m =>
      { m with aper := if leField p 24 8 = 0 then serase m.aper a else sinsert m.aper a { dev := leField p 8 8, base := leField p 16 8 } }) .ok) s

/-! ## Firmware itself -/

/-- FWSTAGE (R462): an image that verifies waits for the next reset. -/
def execFwstage (s : State) : Out :=
  serve 0x0E none (fun _ p s =>
    if Config.imageGood p && s.fw.fusedMin.toNat ≤ Config.imageField p 1 % 2 ^ 32 then .plain { s with fw := { s.fw with staged := some p } } .ok
    else .plain s .denied) s

/-- RESET (R461, R465): 0 warm, 1 cold. -/
def execReset (s : State) : Out :=
  serve 0x0F (some 8) (fun _ p s =>
    if 1 < leField p 0 8 then .plain s .badArg else .plain { s with fw := { s.fw with wanted := some (leField p 0 8 == 1) } } .ok) s

/-- SWEEP (R453): the command ends when the sweep of its core has run. -/
def execSweep (s : State) : Out :=
  serve 0x10 (some 8) (fun m p s =>
    match m.waits with
    | some c => if s.fw.sweeps.contains c then .wait s else .plain s .ok
    | none =>
      let c := leField p 0 8
      if 512 ≤ c then .plain s .badArg
      else if (s.core c).job.isSome then .plain s .busy
      else .wait ({ s with fw := { s.fw with sweeps := (s.fw.sweeps ++ [c]).eraseDups } }.headWaits c)) s

end Sys2Proof.Machine
end

