-- ==== Sys2Proof/Machine/Issue.lean ====
section
/-! DEFINITION. Issuing words: the dispatch of template instructions, the checks before issue (R80), the staging buffer and the
extended forms (R72-R78). -/

namespace Sys2Proof.Machine

/-- The meaning of a template instruction: `exec` at it, as the word-level forms call it. Other constructors have no template. -/
def issueDispatch (i : Instr) (s : State) : Out :=
  match i with
  | .add t => execAdd t s
  | .sub t => execSub t s
  | .addi t => execAddi t s
  | .mul t => execMul t s
  | .mulh t => execMulh t s
  | .mulhu t => execMulhu t s
  | .div t => execDiv t s
  | .divu t => execDivu t s
  | .rem t => execRem t s
  | .remu t => execRemu t s
  | .and t => execAnd t s
  | .or t => execOr t s
  | .xor t => execXor t s
  | .andn t => execAndn t s
  | .orn t => execOrn t s
  | .shl t => execShl t s
  | .shr t => execShr t s
  | .sra t => execSra t s
  | .rotl t => execRotl t s
  | .clz t => execClz t s
  | .ctz t => execCtz t s
  | .popc t => execPopc t s
  | .min t => execMin t s
  | .max t => execMax t s
  | .minu t => execMinu t s
  | .maxu t => execMaxu t s
  | .sel t => execSel t s
  | .cmp t => execCmp t s
  | .cmpi t => execCmpi t s
  | .li t => execLi t s
  | .liHi t => execLiHi t s
  | .mov t => execMov t s
  | .br t => execBr t s
  | .jmp t => execJmp t s
  | .call t => execCall t s
  | .ret t => execRet t s
  | .jr t => execJr t s
  | .loop t => execLoop t s
  | .ld t => execLd t s
  | .st t => execSt t s
  | .pf t => execPf t s
  | .rpush t => execRpush t s
  | .rpop t => execRpop t s
  | .rpeek t => execRpeek t s
  | .rlevel t => execRlevel t s
  | .fpush t => execFpush t s
  | .wid t => execWid t s
  | .rclaim t => execRclaim t s
  | .tsub t => execTsub t s
  | .tsubRel t => execTsubRel t s
  | .tsubOff t => execTsubOff t s
  | .rdgtc t => execRdgtc t s
  | .rdscnt t => execRdscnt t s
  | .rdvc t => execRdvc t s
  | .rdwarn t => execRdwarn t s
  | .warnclr t => execWarnclr t s
  | .trap t => execTrap t s
  | .nop t => execNop t s
  | .rdv t => execRdv t s
  | .bext t => execBext t s
  | .bdep t => execBdep t s
  | .madd t => execMadd t s
  | .adda t => execAdda t s
  | .fork t => execFork t s
  | .forkR t => execForkR t s
  | .phase t => execPhase t s
  | .pub t => execPub t s
  | .acq t => execAcq t s
  | .fence t => execFence t s
  | .fenceCx t => execFenceCx t s
  | .ldAcq t => execLdAcq t s
  | .stRel t => execStRel t s
  | .amo t => execAmo t s
  | .amof t => execAmof t s
  | .cas t => execCas t s
  | .tbarw t => execTbarw t s
  | .carve t => execCarve t s
  | .cwany t => execCwany t s
  | .cwanyCx t => execCwanyCx t s
  | .cwall t => execCwall t s
  | .cwallCx t => execCwallCx t s
  | .cfirst t => execCfirst t s
  | .cfirstCx t => execCfirstCx t s
  | .ctest t => execCtest t s
  | .ctestCx t => execCtestCx t s
  | .ctclr t => execCtclr t s
  | .ctclrCx t => execCtclrCx t s
  | .fetest t => execFetest t s
  | .fetestCx t => execFetestCx t s
  | .vadd t => execVadd t s
  | .vsub t => execVsub t s
  | .vmul t => execVmul t s
  | .vfma t => execVfma t s
  | .vfms t => execVfms t s
  | .vfnma t => execVfnma t s
  | .vmin t => execVmin t s
  | .vmax t => execVmax t s
  | .vabs t => execVabs t s
  | .vneg t => execVneg t s
  | .vrcp t => execVrcp t s
  | .vrsqrt t => execVrsqrt t s
  | .vsqrt t => execVsqrt t s
  | .vdiv t => execVdiv t s
  | .vexp2 t => execVexp2 t s
  | .vlog2 t => execVlog2 t s
  | .vtanh t => execVtanh t s
  | .vcvt t => execVcvt t s
  | .vand t => execVand t s
  | .vor t => execVor t s
  | .vxor t => execVxor t s
  | .vnot t => execVnot t s
  | .vshl t => execVshl t s
  | .vshr t => execVshr t s
  | .vsra t => execVsra t s
  | .vclz t => execVclz t s
  | .vpopc t => execVpopc t s
  | .vcmp t => execVcmp t s
  | .vsel t => execVsel t s
  | .pand t => execPand t s
  | .por t => execPor t s
  | .pxor t => execPxor t s
  | .pnot t => execPnot t s
  | .pcnt t => execPcnt t s
  | .pfirst t => execPfirst t s
  | .pset t => execPset t s
  | .vquant t => execVquant t s
  | .vdequant t => execVdequant t s
  | .vhad t => execVhad t s
  | .vsmooth t => execVsmooth t s
  | .vamax t => execVamax t s
  | .vred t => execVred t s
  | .vscan t => execVscan t s
  | .vperm t => execVperm t s
  | .vbcast t => execVbcast t s
  | .vsplat t => execVsplat t s
  | .vmov t => execVmov t s
  | .vmovs t => execVmovs t s
  | .vins t => execVins t s
  | .vld t => execVld t s
  | .vst t => execVst t s
  | .vldx t => execVldx t s
  | .vstx t => execVstx t s
  | .vstxAdd t => execVstxAdd t s
  | .vldslc t => execVldslc t s
  | .vstslc t => execVstslc t s
  | .vsrnd t => execVsrnd t s
  | .vsrndRd t => execVsrndRd t s
  | .ckptVx t => execCkptVx t s
  | .nopVx t => execNopVx t s
  | .nopRepVx t => execNopRepVx t s
  | .rdvVx t => execRdvVx t s
  | .mload t => execMload t s
  | .mloadCv t => execMloadCv t s
  | .mloadSc t => execMloadSc t s
  | .mstore t => execMstore t s
  | .mstoreSc t => execMstoreSc t s
  | .mzero t => execMzero t s
  | .mmov t => execMmov t s
  | .mmovCv t => execMmovCv t s
  | .mtr t => execMtr t s
  | .mma t => execMma t s
  | .mdrain t => execMdrain t s
  | .mdrainX t => execMdrainX t s
  | .mkat t => execMkat t s
  | .mslot t => execMslot t s
  | .mcnt t => execMcnt t s
  | .mcntSet t => execMcntSet t s
  | .mclr t => execMclr t s
  | .mthr t => execMthr t s
  | .mpair t => execMpair t s
  | .mstamp t => execMstamp t s
  | .mstampNow t => execMstampNow t s
  | .mstampAdd t => execMstampAdd t s
  | .mscl t => execMscl t s
  | .mwaitScnt t => execMwaitScnt t s
  | .mwaitTags t => execMwaitTags t s
  | .mwaitLine t => execMwaitLine t s
  | .mwaitTake t => execMwaitTake t s
  | .mwaitIdle t => execMwaitIdle t s
  | .mwaitPost t => execMwaitPost t s
  | .nmv t => execNmv t s
  | .nmvAcc t => execNmvAcc t s
  | .nopMx t => execNopMx t s
  | .nopRepMx t => execNopRepMx t s
  | .rdvMx t => execRdvMx t s
  | .tmma t => execTmma t s
  | .tconv t => execTconv t s
  | .tnmv t => execTnmv t s
  | .tmap t => execTmap t s
  | .tred t => execTred t s
  | .tcopy t => execTcopy t s
  | .tkat t => execTkat t s
  | .tbar t => execTbar t s
  | .tdesc t => execTdesc t s
  | .tsync t => execTsync t s
  | .cpost t => execCpost t s
  | .cpostQ t => execCpostQ t s
  | .fefill t => execFefill t s
  | .feempty t => execFeempty t s
  | .lbset t => execLbset t s
  | .lbadv t => execLbadv t s
  | .chalo t => execChalo t s
  | .covl t => execCovl t s
  | .bcpost t => execBcpost t s
  | .bcwait t => execBcwait t s
  | .bcwaitRd t => execBcwaitRd t s
  | .bcwaitArm t => execBcwaitArm t s
  | .nopCx t => execNopCx t s
  | .nopRepCx t => execNopRepCx t s
  | .rdvCx t => execRdvCx t s
  | .csrr t => execCsrr t s
  | .csrw t => execCsrw t s
  | .csrwCtx t => execCsrwCtx t s
  | .eret t => execEret t s
  | .sysc t => execSysc t s
  | .tlbiCtx t => execTlbiCtx t s
  | .tlbiPage t => execTlbiPage t s
  | .atbw t => execAtbw t s
  | .incb t => execIncb t s
  | .reclaim t => execReclaim t s
  | .ctxsave t => execCtxsave t s
  | .ctxload t => execCtxload t s
  | .pstop t => execPstop t s
  | .prun t => execPrun t s
  | .prunCore t => execPrunCore t s
  | .preempt t => execPreempt t s
  | .hltclr t => execHltclr t s
  | .gate t => execGate t s
  | .wake t => execWake t s
  | .alarmclr t => execAlarmclr t s
  | .logrd t => execLogrd t s
  | .logrdPop t => execLogrdPop t s
  | .ckpt t => execCkpt t s
  | _ => .next s

/-- Checks 2 to 6 of R80, in their order: none when the word may issue. -/
def issueCheck (e : StreamId) (j : Job) (w : W128) : Option TrapCause :=
  let o := tplOpc w
  let t := unpackTpl w
  if (decodeOpc o t).isNone then some .illegal
  else if !streamAccepts e o then some .illegal
  else if isSupervisorOp o && j.level == 0 then some .privileged
  else if (badRegister j.regsl o t).isSome then some .illegal
  else if t.slice == 3 then some .illegal
  else none

/-- The template that T names for a stream: the staging buffer's copy, or the table's (R75). -/
def Stream.template (st : Stream) (n : Nat) : W128 :=
  match st.stage with
  | some (m, w) => if m = n then w else sget 0 st.table n
  | none => sget 0 st.table n

/-- Whether the copy that T names comes from the template table. -/
def Stream.readsTable (st : Stream) (n : Nat) : Bool :=
  match st.stage with
  | some (m, _) => m != n
  | none => true

/-- The parity check of a template read (R68): none when the shadow is uncorrectable as well; otherwise the template has been
repaired. -/
def State.parity (s : State) (c : Nat) (e : StreamId) (n : Nat) : Option State :=
  if s.mem.latent.contains (.template c e n true) then none
  else if s.mem.latent.contains (.template c e n false) then
    some (s.updMem fun m => { m with latent := m.latent.filter fun l => l != .template c e n false })
  else some s

/-- After a word that wrote its copy back: the template's shadow is written anew where the word has issued (R68, R72). -/
def freshAfter (c : Nat) (e : StreamId) (n : Nat) (wb : Bool) (s : State) (o : Out) : Out :=
  match o with
  | .next t => .next (if wb && (t.core c).issueOrd != (s.core c).issueOrd then t.freshTemplate c e n else t)
  | o => o

/-- Issue an amended copy of template `n` (R72, R75, R77, R80): the parity of the template it came from, the checks, then the
instruction. `words`: words of the form. `pw`: its rows of the fallback table. A word that fails a check leaves the staging buffer as it
is (log entry 93). -/
def issueAmended (n : Nat) (copy : W128) (wb : Bool) (words : Nat) (pw : W64) (s : State) : Out :=
  let c := s.cur.core
  let e := s.cur.strm
  let st := s.curStrm
  match (if st.readsTable n then s.parity c e n else some s) with
  | none => .next (s.faultCur { code := .templateParity, det1 := BitVec.ofNat 64 n })
  | some s =>
    let s := { s with cur := { s.cur with words := words, tmpl := n, copy := copy, writeBack := wb, patchWarn := pw } }
    match issueCheck e s.curCore.theJob copy with
    | some cause => .next (s.syncCause c e cause 0)
    | none =>
      if e == .cx && s.curCore.postHeld then .next s.blockWord
      else
        match decodeTpl copy with
        | .error _ => .next s.illegal
        | .ok i => freshAfter c e n wb s (issueDispatch i s)

/-- A word-level form that issues no instruction takes its slots and changes its stream by `f` (R75, R76, R78). -/
def State.passForm (s : State) (words : Nat) (f : Stream → Stream) : State :=
  let e := s.cur.strm
  s.updCur fun k =>
    { k.updStrm e fun st => (f st).advance words .seq false false with
      issueOrd := k.issueOrd + 1
      issued := true }

/-- Mode 00 (R72): issue the amended copy of template `n`. -/
def issuePatch (n f h v : Nat) (s : State) : Out :=
  let copy := amend (s.curStrm.template n) f h v
  issueAmended n copy false 1 (patchWarns (tplOpc copy) (unpackTpl copy) f h v) s

/-- ISSUE_AND_WRITE_BACK (R72, mode 01): issue the amended copy and write it into template `t`. -/
def execIssueAndWriteBack (t f h v : Nat) (s : State) : Out :=
  let copy := amend (s.curStrm.template t) f h v
  issueAmended t copy true 1 (patchWarns (tplOpc copy) (unpackTpl copy) f h v) s

/-- STAGE (R75, mode 10): amend the staged copy of template `t`, discarding a copy of another. A stage sets no WARN bit where the
predicate of the amended copy is false (R80). It issues nothing, and the model makes none of checks 2 to 6 on the copy: they are made
when the copy issues (log entry 93). -/
def execStage (t f h v : Nat) (s : State) : Out :=
  let st := s.curStrm
  match (if st.readsTable t then s.parity s.cur.core s.cur.strm t else some s) with
  | none => .next (s.faultCur { code := .templateParity, det1 := BitVec.ofNat 64 t })
  | some s =>
    let drop := match st.stage with
      | some (n, _) => n != t
      | none => false
    let w := warnIf (nbits h 3 1 == 0 && nbits h 0 3 != 0) .hrsv ||| warnIf (2 ^ amendWidth f ≤ v % 65536) .vrsv
      ||| warnIf drop .stgdrop
    let copy := amend (st.template t) f h v
    let s := if s.active (tplOpc copy) (unpackTpl copy) then s.warn w else s
    .next (s.passForm 1 fun st => { st with stage := some (t, copy) })

/-- TEMPLATE_LOAD (R76): the four data words become template `n`. -/
def execTemplateLoad (n rsv : Nat) (d0 d1 d2 d3 : W32) (s : State) : Out :=
  let s := (s.warn (warnIf (rsv != 0) .extrsv)).freshTemplate s.cur.core s.cur.strm n
  .next (s.passForm 5 fun st => { st with table := sset 0 st.table n (wordsTpl d0 d1 d2 d3) })

/-- LONG_IMMEDIATE (R77): the data word replaces IMM of the copy of template `n`, which issues. -/
def execLongImmediate (n : Nat) (wb : Bool) (h rsv : Nat) (data : W32) (s : State) : Out :=
  let copy := overridePred (putField (s.curStrm.template n) 32 32 data.toNat) h
  let w := patchWarns (tplOpc copy) (unpackTpl copy) 12 h 0 ||| warnIf (rsv != 0) .extrsv
  issueAmended n copy wb 2 w s

/-! ## One issue slot (R36, R55, R58, R60, R78) -/

/-- A stream that fetches and has neither ended nor been stopped. -/
def Stream.runs (st : Stream) : Bool :=
  st.started && st.fetching && !st.ended && !st.parked && st.hold.isNone && !st.trapped && !st.blocked

/-- Whether stream `e` of core `c` may take an issue slot now. A form that has begun is finished before a trap or a halt (R78). What
stops control and vector words between engine cycles is settled at the start of the cycle, so a trap or a fault of one word keeps back
no word of another stream in its own cycle (R62, R397); its own stream issues nothing more in it (log entry 97). After a resumption no
stream issues until the windows of the line buffers have been fetched again (R272). -/
def State.mayIssue (s : State) (c : Nat) (e : StreamId) : Bool :=
  let k := s.core c
  let st := k.strm e
  let begun := !st.form.isEmpty
  let engine := e == .mx || e == .cx
  k.job.isSome && st.runs && !(k.cx.queue.any (·.again))
    && (if engine then begun || (!(s.halt k.theJob.part).stops && !s.preemptPending c)
      else k.issuing && !k.holdReq && !k.svcWait && (!k.hm || e == .cc) && (begun || !k.formsOnly))

/-- The meaning of a complete form, `words` being its words (R72-R77). -/
def issueForm (w : W32) (rest : List W32) (s : State) : Out :=
  match decodePatch w with
  | .error _ => .next s.illegal
  | .ok (.issue t f h v) => issuePatch t f h v s
  | .ok (.issueWb t f h v) => execIssueAndWriteBack t f h v s
  | .ok (.stage t f h v) => execStage t f h v s
  | .ok (.loadIntro n rsv) =>
    execTemplateLoad n rsv (rest.getD 0 0) (rest.getD 1 0) (rest.getD 2 0) (rest.getD 3 0) s
  | .ok (.longIntro n wb h rsv) => execLongImmediate n wb h rsv (rest.getD 0 0) s

/-- A stream takes the fetched word `w` (R60, R78): the form waits for its other words, passes annulled, or issues. -/
def issueFetched (w : W32) (s : State) : Out :=
  let st := s.curStrm
  let form := st.form ++ [w]
  let words := wordsOf (form.headD w)
  let s := { s with cur := { s.cur with words := words } }
  if form.length < words then
    .next (s.updCur fun k => { k.updStrm s.cur.strm fun st => { st with form := form } with issued := true })
  else if st.isAnnulled then
    .next (s.updCur fun k =>
      { k.updStrm s.cur.strm fun st => st.passAnnulled words with issueOrd := k.issueOrd + 1, issued := true })
  else issueForm (form.headD w) (form.drop 1) s

/-- One issue slot of a stream: the next word is fetched and taken (R36, R259, R449). -/
def issueSlot (c : Nat) (e : StreamId) (slot : Nat) (s : State) : Out :=
  if s.mayIssue c e then
    let st := (s.core c).strm e
    let s := { s with cur := { core := c, strm := e, slot := slot } }
    let va := st.pc + BitVec.ofNat 64 (4 * st.form.length)
    match s.fetchWord c e va with
    | .ok w => issueFetched w (s.drawn.updCurStrm fun st => { st with fetchBuf := sinsert st.fetchBuf va.toNat w })
    | .wait s => .next s.blockWord
    | .bad f => .next (s.faultCur f)
    | .poison pa => .next ((s.consumePoison c pa).updCurStrm fun st => { st with trapped := true })
    | .stale u => .next ((s.updMem fun m => m.countDrop u (s.core c).theJob.ctx).blockWord)
  else .next s

/-- The state of an outcome of a meaning, which always goes on. -/
def Out.stateOr (o : Out) (s : State) : State :=
  match o with
  | .next t => t
  | _ => s

/-- Whether the control and vector words that core `c` would issue in this engine cycle are held back together (R58, R438): a trial
of the cycle's slots that stand in the turn, those of MX and CX among them, whose 33rd range entry holds the core as well. The state
takes over the hold, the refusal and the walks that the held words started. MX and CX keep issuing, as through a freeze (log entry 98). -/
def State.tryCycle (s : State) (c : Nat) : State :=
  let slots := s.turn.filter fun p => p.1 == c && !(p.2.1 == .mx && p.2.2 == 0)
  let t := slots.foldl (fun (t : State) p => Out.stateOr (issueSlot p.1 p.2.1 p.2.2 t) t) s
  if (t.core c).holdReq then
    (s.updMem fun m => { m with walks := t.mem.walks }).updCore c fun k =>
      { k with holdReq := true, refused := (t.core c).refused, poolHeld := (t.core c).poolHeld }
  else s

end Sys2Proof.Machine
end

