-- ==== Sys2Proof/Machine/Resets.lean ====
section
/-! DEFINITION. Resets, boot and the test access port (R462, R463, R465, R466). -/

namespace Sys2Proof.Machine

/-- Boot (R462, R463): the staged image, if there is one, is in flash. An image that does not verify, or that is older than the fused
minimum, leaves firmware in recovery mode. The image of the factory is taken to verify. -/
def Fw.boot (f : Fw) : Fw :=
  let image := f.staged.getD f.image
  let v := Config.imageField image 1 % 2 ^ 32
  let f := { f with image := image, staged := none, boots := f.boots + 1 }
  if image.isEmpty then { f with recovery := false }
  else if Config.imageGood image && f.fusedMin.toNat ≤ v then
    { f with recovery := false, version := BitVec.ofNat 32 v, fusedMin := BitVec.ofNat 32 (Nat.max f.fusedMin.toNat v) }
  else { f with recovery := true }

/-- What of firmware's state outlives every reset: flash, fuses, the strap, and what has left the device. -/
def Fw.lasting (f : Fw) : Fw :=
  { staged := f.staged, image := f.image, version := f.version, fusedMin := f.fusedMin, boots := f.boots, strap := f.strap
    violations := f.violations, answers := f.answers, rate400 := f.rate400 }

/-- Warm reset (R465): time, DRAM, the curve in force with the power parameters, OCCAUSE, and the cores that are out of the pool stay;
the links go down and train again. -/
def State.warm (s : State) : State :=
  { gtc := s.gtc, free := s.free, agenda := s.agenda
    cores := s.cores.map fun (p : Nat × Core) => (p.1, { suspect := p.2.suspect, errors := p.2.errors, failed := p.2.failed })
    clusters := s.clusters.map fun (p : Nat × Cluster) => (p.1, { eacc := p.2.eacc })
    power := { s.power with pending := none }
    links := s.links.map fun (p : Nat × Link) => (p.1, { p.2 with up := false, down := if p.2.up then s.gtc else p.2.down, next := 0, fails := 0 })
    mem := { bytes := s.mem.bytes, poison := s.mem.poison, latent := s.mem.latent
             logs := s.mem.logs.filter fun p => p.1 == 1024 }
    fw := { s.fw.lasting with facility := s.fw.facility, keys := s.fw.keys }.boot }

/-- Cold reset (R465): everything at its reset value except OCCAUSE, flash and fuses; DRAM is undefined (log entry 1). -/
def State.cold (s : State) : State :=
  { free := s.free, agenda := s.agenda, power := { occause := s.power.occause }, fw := s.fw.lasting.boot
    mem := { latent := s.mem.latent } }

/-- WARM_RESET (R465). -/
def execWarmReset (s : State) : Out := .next s.warm

/-- COLD_RESET (R465). -/
def execColdReset (s : State) : Out := .next s.cold

/-- UNDERVOLTAGE (R466): an input below 44 V for 1 ms, and power back: a cold reset. -/
def execUndervoltage (s : State) : Out := .next s.cold

/-- TAP_INSTRUCTION (R465): boundary scan works only while the board holds the test-mode strap, and then shifts out what the pins show,
which is free; without the strap the instruction selects the bypass. -/
def execTapInstruction (op : TapOp) (s : State) : Out :=
  match op with
  | .bypass tdi => .next { s with fw := { s.fw with bypass := tdi, tapOut := if s.fw.bypass then 1 else 0 } }
  | .idcode => .next { s with fw := { s.fw with tapOut := (Config.idcode 0).setWidth 64 } }
  | .boundaryScan =>
    if s.fw.strap then .next { s.drawn with fw := { s.fw with tapOut := Config.freeWord s.free } }
    else .next { s with fw := { s.fw with tapOut := if s.fw.bypass then 1 else 0 } }

end Sys2Proof.Machine
end

