-- ==== Sys2Proof/Machine/Dispatch.lean ====
section
/-! DEFINITION. The meaning of every instruction, one arm for each constructor. -/

namespace Sys2Proof.Machine

def exec (i : Instr) (s : State) : Host.Outcome State Fault Refusal :=
  match i with
  | .stage t f h v => Sys2Proof.Machine.execStage t f h v s
  | .issueAndWriteBack t f h v => Sys2Proof.Machine.execIssueAndWriteBack t f h v s
  | .templateLoad n rsv d0 d1 d2 d3 => Sys2Proof.Machine.execTemplateLoad n rsv d0 d1 d2 d3 s
  | .longImmediate n wb h rsv data => Sys2Proof.Machine.execLongImmediate n wb h rsv data s
  | .add t => Sys2Proof.Machine.execAdd t s
  | .sub t => Sys2Proof.Machine.execSub t s
  | .addi t => Sys2Proof.Machine.execAddi t s
  | .mul t => Sys2Proof.Machine.execMul t s
  | .mulh t => Sys2Proof.Machine.execMulh t s
  | .mulhu t => Sys2Proof.Machine.execMulhu t s
  | .div t => Sys2Proof.Machine.execDiv t s
  | .divu t => Sys2Proof.Machine.execDivu t s
  | .rem t => Sys2Proof.Machine.execRem t s
  | .remu t => Sys2Proof.Machine.execRemu t s
  | .and t => Sys2Proof.Machine.execAnd t s
  | .or t => Sys2Proof.Machine.execOr t s
  | .xor t => Sys2Proof.Machine.execXor t s
  | .andn t => Sys2Proof.Machine.execAndn t s
  | .orn t => Sys2Proof.Machine.execOrn t s
  | .shl t => Sys2Proof.Machine.execShl t s
  | .shr t => Sys2Proof.Machine.execShr t s
  | .sra t => Sys2Proof.Machine.execSra t s
  | .rotl t => Sys2Proof.Machine.execRotl t s
  | .clz t => Sys2Proof.Machine.execClz t s
  | .ctz t => Sys2Proof.Machine.execCtz t s
  | .popc t => Sys2Proof.Machine.execPopc t s
  | .min t => Sys2Proof.Machine.execMin t s
  | .max t => Sys2Proof.Machine.execMax t s
  | .minu t => Sys2Proof.Machine.execMinu t s
  | .maxu t => Sys2Proof.Machine.execMaxu t s
  | .sel t => Sys2Proof.Machine.execSel t s
  | .cmp t => Sys2Proof.Machine.execCmp t s
  | .cmpi t => Sys2Proof.Machine.execCmpi t s
  | .li t => Sys2Proof.Machine.execLi t s
  | .liHi t => Sys2Proof.Machine.execLiHi t s
  | .mov t => Sys2Proof.Machine.execMov t s
  | .br t => Sys2Proof.Machine.execBr t s
  | .jmp t => Sys2Proof.Machine.execJmp t s
  | .call t => Sys2Proof.Machine.execCall t s
  | .ret t => Sys2Proof.Machine.execRet t s
  | .jr t => Sys2Proof.Machine.execJr t s
  | .loop t => Sys2Proof.Machine.execLoop t s
  | .ld t => Sys2Proof.Machine.execLd t s
  | .st t => Sys2Proof.Machine.execSt t s
  | .pf t => Sys2Proof.Machine.execPf t s
  | .rpush t => Sys2Proof.Machine.execRpush t s
  | .rpop t => Sys2Proof.Machine.execRpop t s
  | .rpeek t => Sys2Proof.Machine.execRpeek t s
  | .rlevel t => Sys2Proof.Machine.execRlevel t s
  | .fpush t => Sys2Proof.Machine.execFpush t s
  | .wid t => Sys2Proof.Machine.execWid t s
  | .rclaim t => Sys2Proof.Machine.execRclaim t s
  | .tsub t => Sys2Proof.Machine.execTsub t s
  | .tsubRel t => Sys2Proof.Machine.execTsubRel t s
  | .tsubOff t => Sys2Proof.Machine.execTsubOff t s
  | .rdgtc t => Sys2Proof.Machine.execRdgtc t s
  | .rdscnt t => Sys2Proof.Machine.execRdscnt t s
  | .rdvc t => Sys2Proof.Machine.execRdvc t s
  | .rdwarn t => Sys2Proof.Machine.execRdwarn t s
  | .warnclr t => Sys2Proof.Machine.execWarnclr t s
  | .trap t => Sys2Proof.Machine.execTrap t s
  | .nop t => Sys2Proof.Machine.execNop t s
  | .rdv t => Sys2Proof.Machine.execRdv t s
  | .bext t => Sys2Proof.Machine.execBext t s
  | .bdep t => Sys2Proof.Machine.execBdep t s
  | .madd t => Sys2Proof.Machine.execMadd t s
  | .adda t => Sys2Proof.Machine.execAdda t s
  | .fork t => Sys2Proof.Machine.execFork t s
  | .forkR t => Sys2Proof.Machine.execForkR t s
  | .phase t => Sys2Proof.Machine.execPhase t s
  | .pub t => Sys2Proof.Machine.execPub t s
  | .acq t => Sys2Proof.Machine.execAcq t s
  | .fence t => Sys2Proof.Machine.execFence t s
  | .fenceCx t => Sys2Proof.Machine.execFenceCx t s
  | .ldAcq t => Sys2Proof.Machine.execLdAcq t s
  | .stRel t => Sys2Proof.Machine.execStRel t s
  | .amo t => Sys2Proof.Machine.execAmo t s
  | .amof t => Sys2Proof.Machine.execAmof t s
  | .cas t => Sys2Proof.Machine.execCas t s
  | .tbarw t => Sys2Proof.Machine.execTbarw t s
  | .carve t => Sys2Proof.Machine.execCarve t s
  | .cwany t => Sys2Proof.Machine.execCwany t s
  | .cwanyCx t => Sys2Proof.Machine.execCwanyCx t s
  | .cwall t => Sys2Proof.Machine.execCwall t s
  | .cwallCx t => Sys2Proof.Machine.execCwallCx t s
  | .cfirst t => Sys2Proof.Machine.execCfirst t s
  | .cfirstCx t => Sys2Proof.Machine.execCfirstCx t s
  | .ctest t => Sys2Proof.Machine.execCtest t s
  | .ctestCx t => Sys2Proof.Machine.execCtestCx t s
  | .ctclr t => Sys2Proof.Machine.execCtclr t s
  | .ctclrCx t => Sys2Proof.Machine.execCtclrCx t s
  | .fetest t => Sys2Proof.Machine.execFetest t s
  | .fetestCx t => Sys2Proof.Machine.execFetestCx t s
  | .vadd t => Sys2Proof.Machine.execVadd t s
  | .vsub t => Sys2Proof.Machine.execVsub t s
  | .vmul t => Sys2Proof.Machine.execVmul t s
  | .vfma t => Sys2Proof.Machine.execVfma t s
  | .vfms t => Sys2Proof.Machine.execVfms t s
  | .vfnma t => Sys2Proof.Machine.execVfnma t s
  | .vmin t => Sys2Proof.Machine.execVmin t s
  | .vmax t => Sys2Proof.Machine.execVmax t s
  | .vabs t => Sys2Proof.Machine.execVabs t s
  | .vneg t => Sys2Proof.Machine.execVneg t s
  | .vrcp t => Sys2Proof.Machine.execVrcp t s
  | .vrsqrt t => Sys2Proof.Machine.execVrsqrt t s
  | .vsqrt t => Sys2Proof.Machine.execVsqrt t s
  | .vdiv t => Sys2Proof.Machine.execVdiv t s
  | .vexp2 t => Sys2Proof.Machine.execVexp2 t s
  | .vlog2 t => Sys2Proof.Machine.execVlog2 t s
  | .vtanh t => Sys2Proof.Machine.execVtanh t s
  | .vcvt t => Sys2Proof.Machine.execVcvt t s
  | .vand t => Sys2Proof.Machine.execVand t s
  | .vor t => Sys2Proof.Machine.execVor t s
  | .vxor t => Sys2Proof.Machine.execVxor t s
  | .vnot t => Sys2Proof.Machine.execVnot t s
  | .vshl t => Sys2Proof.Machine.execVshl t s
  | .vshr t => Sys2Proof.Machine.execVshr t s
  | .vsra t => Sys2Proof.Machine.execVsra t s
  | .vclz t => Sys2Proof.Machine.execVclz t s
  | .vpopc t => Sys2Proof.Machine.execVpopc t s
  | .vcmp t => Sys2Proof.Machine.execVcmp t s
  | .vsel t => Sys2Proof.Machine.execVsel t s
  | .pand t => Sys2Proof.Machine.execPand t s
  | .por t => Sys2Proof.Machine.execPor t s
  | .pxor t => Sys2Proof.Machine.execPxor t s
  | .pnot t => Sys2Proof.Machine.execPnot t s
  | .pcnt t => Sys2Proof.Machine.execPcnt t s
  | .pfirst t => Sys2Proof.Machine.execPfirst t s
  | .pset t => Sys2Proof.Machine.execPset t s
  | .vquant t => Sys2Proof.Machine.execVquant t s
  | .vdequant t => Sys2Proof.Machine.execVdequant t s
  | .vhad t => Sys2Proof.Machine.execVhad t s
  | .vsmooth t => Sys2Proof.Machine.execVsmooth t s
  | .vamax t => Sys2Proof.Machine.execVamax t s
  | .vred t => Sys2Proof.Machine.execVred t s
  | .vscan t => Sys2Proof.Machine.execVscan t s
  | .vperm t => Sys2Proof.Machine.execVperm t s
  | .vbcast t => Sys2Proof.Machine.execVbcast t s
  | .vsplat t => Sys2Proof.Machine.execVsplat t s
  | .vmov t => Sys2Proof.Machine.execVmov t s
  | .vmovs t => Sys2Proof.Machine.execVmovs t s
  | .vins t => Sys2Proof.Machine.execVins t s
  | .vld t => Sys2Proof.Machine.execVld t s
  | .vst t => Sys2Proof.Machine.execVst t s
  | .vldx t => Sys2Proof.Machine.execVldx t s
  | .vstx t => Sys2Proof.Machine.execVstx t s
  | .vstxAdd t => Sys2Proof.Machine.execVstxAdd t s
  | .vldslc t => Sys2Proof.Machine.execVldslc t s
  | .vstslc t => Sys2Proof.Machine.execVstslc t s
  | .vsrnd t => Sys2Proof.Machine.execVsrnd t s
  | .vsrndRd t => Sys2Proof.Machine.execVsrndRd t s
  | .ckptVx t => Sys2Proof.Machine.execCkptVx t s
  | .nopVx t => Sys2Proof.Machine.execNopVx t s
  | .nopRepVx t => Sys2Proof.Machine.execNopRepVx t s
  | .rdvVx t => Sys2Proof.Machine.execRdvVx t s
  | .mload t => Sys2Proof.Machine.execMload t s
  | .mloadCv t => Sys2Proof.Machine.execMloadCv t s
  | .mloadSc t => Sys2Proof.Machine.execMloadSc t s
  | .mstore t => Sys2Proof.Machine.execMstore t s
  | .mstoreSc t => Sys2Proof.Machine.execMstoreSc t s
  | .mzero t => Sys2Proof.Machine.execMzero t s
  | .mmov t => Sys2Proof.Machine.execMmov t s
  | .mmovCv t => Sys2Proof.Machine.execMmovCv t s
  | .mtr t => Sys2Proof.Machine.execMtr t s
  | .mma t => Sys2Proof.Machine.execMma t s
  | .mdrain t => Sys2Proof.Machine.execMdrain t s
  | .mdrainX t => Sys2Proof.Machine.execMdrainX t s
  | .mkat t => Sys2Proof.Machine.execMkat t s
  | .mslot t => Sys2Proof.Machine.execMslot t s
  | .mcnt t => Sys2Proof.Machine.execMcnt t s
  | .mcntSet t => Sys2Proof.Machine.execMcntSet t s
  | .mclr t => Sys2Proof.Machine.execMclr t s
  | .mthr t => Sys2Proof.Machine.execMthr t s
  | .mpair t => Sys2Proof.Machine.execMpair t s
  | .mstamp t => Sys2Proof.Machine.execMstamp t s
  | .mstampNow t => Sys2Proof.Machine.execMstampNow t s
  | .mstampAdd t => Sys2Proof.Machine.execMstampAdd t s
  | .mscl t => Sys2Proof.Machine.execMscl t s
  | .mwaitScnt t => Sys2Proof.Machine.execMwaitScnt t s
  | .mwaitTags t => Sys2Proof.Machine.execMwaitTags t s
  | .mwaitLine t => Sys2Proof.Machine.execMwaitLine t s
  | .mwaitTake t => Sys2Proof.Machine.execMwaitTake t s
  | .mwaitIdle t => Sys2Proof.Machine.execMwaitIdle t s
  | .mwaitPost t => Sys2Proof.Machine.execMwaitPost t s
  | .nmv t => Sys2Proof.Machine.execNmv t s
  | .nmvAcc t => Sys2Proof.Machine.execNmvAcc t s
  | .nopMx t => Sys2Proof.Machine.execNopMx t s
  | .nopRepMx t => Sys2Proof.Machine.execNopRepMx t s
  | .rdvMx t => Sys2Proof.Machine.execRdvMx t s
  | .tmma t => Sys2Proof.Machine.execTmma t s
  | .tconv t => Sys2Proof.Machine.execTconv t s
  | .tnmv t => Sys2Proof.Machine.execTnmv t s
  | .tmap t => Sys2Proof.Machine.execTmap t s
  | .tred t => Sys2Proof.Machine.execTred t s
  | .tcopy t => Sys2Proof.Machine.execTcopy t s
  | .tkat t => Sys2Proof.Machine.execTkat t s
  | .tbar t => Sys2Proof.Machine.execTbar t s
  | .tdesc t => Sys2Proof.Machine.execTdesc t s
  | .tsync t => Sys2Proof.Machine.execTsync t s
  | .cpost t => Sys2Proof.Machine.execCpost t s
  | .cpostQ t => Sys2Proof.Machine.execCpostQ t s
  | .fefill t => Sys2Proof.Machine.execFefill t s
  | .feempty t => Sys2Proof.Machine.execFeempty t s
  | .lbset t => Sys2Proof.Machine.execLbset t s
  | .lbadv t => Sys2Proof.Machine.execLbadv t s
  | .chalo t => Sys2Proof.Machine.execChalo t s
  | .covl t => Sys2Proof.Machine.execCovl t s
  | .bcpost t => Sys2Proof.Machine.execBcpost t s
  | .bcwait t => Sys2Proof.Machine.execBcwait t s
  | .bcwaitRd t => Sys2Proof.Machine.execBcwaitRd t s
  | .bcwaitArm t => Sys2Proof.Machine.execBcwaitArm t s
  | .nopCx t => Sys2Proof.Machine.execNopCx t s
  | .nopRepCx t => Sys2Proof.Machine.execNopRepCx t s
  | .rdvCx t => Sys2Proof.Machine.execRdvCx t s
  | .csrr t => Sys2Proof.Machine.execCsrr t s
  | .csrw t => Sys2Proof.Machine.execCsrw t s
  | .csrwCtx t => Sys2Proof.Machine.execCsrwCtx t s
  | .eret t => Sys2Proof.Machine.execEret t s
  | .sysc t => Sys2Proof.Machine.execSysc t s
  | .tlbiCtx t => Sys2Proof.Machine.execTlbiCtx t s
  | .tlbiPage t => Sys2Proof.Machine.execTlbiPage t s
  | .atbw t => Sys2Proof.Machine.execAtbw t s
  | .incb t => Sys2Proof.Machine.execIncb t s
  | .reclaim t => Sys2Proof.Machine.execReclaim t s
  | .ctxsave t => Sys2Proof.Machine.execCtxsave t s
  | .ctxload t => Sys2Proof.Machine.execCtxload t s
  | .pstop t => Sys2Proof.Machine.execPstop t s
  | .prun t => Sys2Proof.Machine.execPrun t s
  | .prunCore t => Sys2Proof.Machine.execPrunCore t s
  | .preempt t => Sys2Proof.Machine.execPreempt t s
  | .hltclr t => Sys2Proof.Machine.execHltclr t s
  | .gate t => Sys2Proof.Machine.execGate t s
  | .wake t => Sys2Proof.Machine.execWake t s
  | .alarmclr t => Sys2Proof.Machine.execAlarmclr t s
  | .logrd t => Sys2Proof.Machine.execLogrd t s
  | .logrdPop t => Sys2Proof.Machine.execLogrdPop t s
  | .ckpt t => Sys2Proof.Machine.execCkpt t s
  | .carveApply core => Sys2Proof.Machine.execCarveApply core s
  | .mxCommandStart core => Sys2Proof.Machine.execMxCommandStart core s
  | .mxCommandComplete core seq => Sys2Proof.Machine.execMxCommandComplete core seq s
  | .scheduleMiss core => Sys2Proof.Machine.execScheduleMiss core s
  | .counterThresholdTrap core => Sys2Proof.Machine.execCounterThresholdTrap core s
  | .pairPartialArrive core => Sys2Proof.Machine.execPairPartialArrive core s
  | .pairAckArrive core => Sys2Proof.Machine.execPairAckArrive core s
  | .katWindowClose core => Sys2Proof.Machine.execKatWindowClose core s
  | .nmvBlockComplete core seq block => Sys2Proof.Machine.execNmvBlockComplete core seq block s
  | .tileChildAccept tile node => Sys2Proof.Machine.execTileChildAccept tile node s
  | .tileChildComplete tile node => Sys2Proof.Machine.execTileChildComplete tile node s
  | .tileReductionStart tile node => Sys2Proof.Machine.execTileReductionStart tile node s
  | .fabricTilePacket link ctag desc aux ret => Sys2Proof.Machine.execFabricTilePacket link ctag desc aux ret s
  | .fabricTileReturn tile => Sys2Proof.Machine.execFabricTileReturn tile s
  | .copyStart engine seq => Sys2Proof.Machine.execCopyStart engine seq s
  | .copyChunk engine seq => Sys2Proof.Machine.execCopyChunk engine seq s
  | .copyComplete engine seq => Sys2Proof.Machine.execCopyComplete engine seq s
  | .overlayComplete core seq => Sys2Proof.Machine.execOverlayComplete core seq s
  | .queueSlotServe queue => Sys2Proof.Machine.execQueueSlotServe queue s
  | .queueServerAppend ctx => Sys2Proof.Machine.execQueueServerAppend ctx s
  | .resultLand core => Sys2Proof.Machine.execResultLand core s
  | .l1MissFill req => Sys2Proof.Machine.execL1MissFill req s
  | .timerFire core => Sys2Proof.Machine.execTimerFire core s
  | .streamStall core => Sys2Proof.Machine.execStreamStall core s
  | .poolSpillTrap core => Sys2Proof.Machine.execPoolSpillTrap core s
  | .nodeDispatch ctx node => Sys2Proof.Machine.execNodeDispatch ctx node s
  | .streamFetchStart core strm => Sys2Proof.Machine.execStreamFetchStart core strm s
  | .sliceScrubComplete core slice => Sys2Proof.Machine.execSliceScrubComplete core slice s
  | .jobRetire core => Sys2Proof.Machine.execJobRetire core s
  | .workRequest core => Sys2Proof.Machine.execWorkRequest core s
  | .priorityPromotion ctx node => Sys2Proof.Machine.execPriorityPromotion ctx node s
  | .operatingPointSelect ctx node => Sys2Proof.Machine.execOperatingPointSelect ctx node s
  | .nodeRetire ctx node => Sys2Proof.Machine.execNodeRetire ctx node s
  | .signalStallResume ctx node => Sys2Proof.Machine.execSignalStallResume ctx node s
  | .queueOverflowTrap queue => Sys2Proof.Machine.execQueueOverflowTrap queue s
  | .nodeRollback ctx node cause => Sys2Proof.Machine.execNodeRollback ctx node cause s
  | .katSweep core => Sys2Proof.Machine.execKatSweep core s
  | .l2HomeAccess req => Sys2Proof.Machine.execL2HomeAccess req s
  | .atomicPerform req => Sys2Proof.Machine.execAtomicPerform req s
  | .responseAccept req => Sys2Proof.Machine.execResponseAccept req s
  | .accessViolationNotice req => Sys2Proof.Machine.execAccessViolationNotice req s
  | .accessTableEntryApply target => Sys2Proof.Machine.execAccessTableEntryApply target s
  | .translationWalk unit va => Sys2Proof.Machine.execTranslationWalk unit va s
  | .dirtySetWalk req => Sys2Proof.Machine.execDirtySetWalk req s
  | .ptrootWrite ctx => Sys2Proof.Machine.execPtrootWrite ctx s
  | .dlogbaseWrite ctx => Sys2Proof.Machine.execDlogbaseWrite ctx s
  | .dlogidxWrite ctx => Sys2Proof.Machine.execDlogidxWrite ctx s
  | .dlogepWrite ctx => Sys2Proof.Machine.execDlogepWrite ctx s
  | .tsegpoolWrite ctx => Sys2Proof.Machine.execTsegpoolWrite ctx s
  | .stoplogWrite ctx => Sys2Proof.Machine.execStoplogWrite ctx s
  | .queuePoolLimitsWrite ctx => Sys2Proof.Machine.execQueuePoolLimitsWrite ctx s
  | .incarnationInstall unit ctx => Sys2Proof.Machine.execIncarnationInstall unit ctx s
  | .reclaimComplete ctx => Sys2Proof.Machine.execReclaimComplete ctx s
  | .peerInstall device ctx => Sys2Proof.Machine.execPeerInstall device ctx s
  | .peerDrainTimeout device ctx => Sys2Proof.Machine.execPeerDrainTimeout device ctx s
  | .linkResync link => Sys2Proof.Machine.execLinkResync link s
  | .clusterWakeRegister cluster => Sys2Proof.Machine.execClusterWakeRegister cluster s
  | .wakeComplete cluster => Sys2Proof.Machine.execWakeComplete cluster s
  | .unitHaltStop part unit => Sys2Proof.Machine.execUnitHaltStop part unit s
  | .haltComplete ctx => Sys2Proof.Machine.execHaltComplete ctx s
  | .preemptRequestReceive part unit => Sys2Proof.Machine.execPreemptRequestReceive part unit s
  | .ckwdTimeout core => Sys2Proof.Machine.execCkwdTimeout core s
  | .coreSave core => Sys2Proof.Machine.execCoreSave core s
  | .cuffAck part unit => Sys2Proof.Machine.execCuffAck part unit s
  | .curveInForce => Sys2Proof.Machine.execCurveInForce s
  | .curveExpire => Sys2Proof.Machine.execCurveExpire s
  | .curveStep => Sys2Proof.Machine.execCurveStep s
  | .brimWindowEnd => Sys2Proof.Machine.execBrimWindowEnd s
  | .gradeChange => Sys2Proof.Machine.execGradeChange s
  | .cDieParkGate die => Sys2Proof.Machine.execCDieParkGate die s
  | .clockRestart cluster => Sys2Proof.Machine.execClockRestart cluster s
  | .overcurrentAlarm kind cluster => Sys2Proof.Machine.execOvercurrentAlarm kind cluster s
  | .replayLimit cluster => Sys2Proof.Machine.execReplayLimit cluster s
  | .machineCheck cause unit engine => Sys2Proof.Machine.execMachineCheck cause unit engine s
  | .baseDieRequest stack port => Sys2Proof.Machine.execBaseDieRequest stack port s
  | .baseDieReply stack port tag => Sys2Proof.Machine.execBaseDieReply stack port tag s
  | .hostRdmaWrite qp pa data => Sys2Proof.Machine.execHostRdmaWrite qp pa data s
  | .hostRdmaRead qp pa len => Sys2Proof.Machine.execHostRdmaRead qp pa len s
  | .hostRdmaFetchAdd qp pa add => Sys2Proof.Machine.execHostRdmaFetchAdd qp pa add s
  | .hostSend qp slot => Sys2Proof.Machine.execHostSend qp slot s
  | .hostRequestRefused qp op => Sys2Proof.Machine.execHostRequestRefused qp op s
  | .peerRequestIngress link ctag op pa => Sys2Proof.Machine.execPeerRequestIngress link ctag op pa s
  | .linkFlitReceive link seq crcOk => Sys2Proof.Machine.execLinkFlitReceive link seq crcOk s
  | .linkReplayLimit link => Sys2Proof.Machine.execLinkReplayLimit link s
  | .linkUp link => Sys2Proof.Machine.execLinkUp link s
  | .info => Sys2Proof.Machine.execInfo s
  | .attest => Sys2Proof.Machine.execAttest s
  | .budget => Sys2Proof.Machine.execBudget s
  | .pwrset => Sys2Proof.Machine.execPwrset s
  | .ctxdef => Sys2Proof.Machine.execCtxdef s
  | .partdef => Sys2Proof.Machine.execPartdef s
  | .atset => Sys2Proof.Machine.execAtset s
  | .qpbind => Sys2Proof.Machine.execQpbind s
  | .qreg => Sys2Proof.Machine.execQreg s
  | .devid => Sys2Proof.Machine.execDevid s
  | .apset => Sys2Proof.Machine.execApset s
  | .energy => Sys2Proof.Machine.execEnergy s
  | .tables => Sys2Proof.Machine.execTables s
  | .fwstage => Sys2Proof.Machine.execFwstage s
  | .reset => Sys2Proof.Machine.execReset s
  | .sweep => Sys2Proof.Machine.execSweep s
  | .fwlog => Sys2Proof.Machine.execFwlog s
  | .warmReset => Sys2Proof.Machine.execWarmReset s
  | .coldReset => Sys2Proof.Machine.execColdReset s
  | .undervoltage => Sys2Proof.Machine.execUndervoltage s
  | .ethernetLinkTraining port rate400 => Sys2Proof.Machine.execEthernetLinkTraining port rate400 s
  | .tapInstruction op => Sys2Proof.Machine.execTapInstruction op s

end Sys2Proof.Machine
end

