-- ==== Sys2Proof/Machine/Tick.lean ====
section
/-! DEFINITION. One GTC tick of the machine in indivisible steps: what is due at its edge, what the machine may do in any order, the issue
slots of the engine cycles that begin with it, and the end of those cycles (R36, R55-R58, R62). -/

namespace Sys2Proof.Machine

/-! ## Engine edges (R6, R437) -/

/-- Whether the clock of a cluster has an edge at this tick. -/
def State.onEdge (s : State) (k : Nat) : Bool :=
  let u := s.cluster k
  !u.gated && u.restart.isNone && s.gtc % Nat.max 1 u.divisor == 0

/-- Cores that hold anything and whose cluster has an edge now, in rising order. -/
def State.coresNow (s : State) : List Nat := (s.cores.map (·.1)).filter fun c => s.onEdge (clusterOf c)

/-! ## What is due now -/

/-- The first element of a list that satisfies a test, with what to do for it. -/
def dueFor {α : Type} (l : List α) (p : α → Bool) (f : α → State → Out) : Option (State → Out) := (l.find? p).map f

/-- What must be done alone before anything else, if it must. -/
def dueIf (b : Bool) (f : State → Out) : Option (State → Out) := if b then some f else none

/-- A change of the state as a step. -/
def step1 (f : State → State) : State → Out := fun s => .next (f s)

/-- Every ready node of a running context is to be selected (R435). -/
def State.reselectAll (s : State) : State :=
  { s with nodes := s.nodes.map fun n =>
      if n.st == .ready && n.status.isNone && (s.ctx n.ctx).state == .running then { n with sel := true } else n }

/-- The 10 µs step of the MGC, after which the scheduler selects again (R428, R435). -/
def curveTick (s : State) : Out :=
  match execCurveStep s with
  | .next t => .next t.reselectAll
  | o => o

/-- A node that is to be selected now (R435). -/
def State.selectDue (s : State) (n : Node) : Bool := n.sel && n.st == .ready && (s.ctx n.ctx).state == .running && n.status.isNone

/-- Whether a node is promoted now (R44). -/
def State.promoteDue (s : State) (n : Node) : Bool :=
  n.st == .ready && (s.ctx n.ctx).state == .running && decide (n.priority < 7 ∧ n.since + 14000000 ≤ s.gtc)

/-- What is due at this tick, and so happens before anything else: the first of it. -/
def State.due (s : State) : Option (State → Out) :=
  let p := s.power
  let keys := s.cores.map (·.1)
  let clusters := s.clusters.map (·.1)
  (dueIf (s.fw.wanted == some false) execWarmReset)
  <|> (dueIf (s.fw.wanted == some true) execColdReset)
  <|> (dueIf (p.pending.any fun c => decide (c.vfrom ≤ s.gtc)) execCurveInForce)
  <|> (dueIf (p.curve.any fun c => decide (c.vto ≤ s.gtc)) execCurveExpire)
  <|> (dueIf (s.gtc % 7000000 == 0 && s.gtc != 0 && p.windowed != some s.gtc) execBrimWindowEnd)
  <|> (dueIf (s.gtc % 70000 == 0 && p.stepped != some s.gtc) curveTick)
  <|> (dueIf (p.wantGrade s.gtc != p.grade) execGradeChange)
  <|> (dueFor clusters (fun k => (s.cluster k).restart.any fun t => decide (t ≤ s.gtc)) execClockRestart)
  <|> (dueFor clusters (fun k => s.gtc % 420 == 0 && (s.cluster k).want.isSome && (s.cluster k).restart.isNone && !(s.cluster k).gated)
    fun k => step1 (·.applyWant k))
  <|> (dueFor clusters (fun k => (s.cluster k).limited) execReplayLimit)
  <|> (dueFor s.checks (fun _ => true) fun c => execMachineCheck c.1 c.2.1 c.2.2)
  <|> (dueFor s.rollbacks (fun _ => true) fun r => execNodeRollback r.1 r.2.1 r.2.2)
  <|> (dueFor keys (fun c => !(s.core c).mx.crossed.isEmpty) execCounterThresholdTrap)
  <|> (dueFor keys (fun c => (s.core c).mx.katCloses s.gtc) execKatWindowClose)
  <|> (dueFor keys (fun c => s.onEdge (clusterOf c) && s.timersDue c) execTimerFire)
  <|> (dueFor keys (fun c => (s.core c).scrubLate.isSome) fun c => execSliceScrubComplete c ((s.core c).scrubLate.getD 0))
  <|> (dueFor keys (fun c => decide (65536 ≤ (s.core c).stall)) execStreamStall)
  <|> (dueFor keys (fun c => decide (4096 ≤ (s.core c).poolHold)) execPoolSpillTrap)
  <|> (dueFor keys s.ckwdOut execCkwdTimeout)
  <|> (dueFor s.clusters (fun k => k.2.gated && k.2.waking && decide (k.2.wakeBy ≤ s.gtc)) fun k => execWakeComplete k.1)
  <|> (dueFor s.haltLate (fun _ => true) fun u => execUnitHaltStop u.1 u.2)
  <|> (dueFor s.nodes s.selectDue fun n => execOperatingPointSelect n.ctx n.r.nodeid)
  <|> (dueFor s.nodes s.promoteDue fun n => execPriorityPromotion n.ctx n.r.nodeid)

/-! ## What the machine may do next -/

/-- The step that a request waits for (R283, R292, R335, R350, R369). -/
def Req.nextStep (r : Req) : Option (State → Out) :=
  match r.stage with
  | .home =>
    match r.kind with
    | .atomic _ => some (execAtomicPerform r.id)
    | _ => some (execL2HomeAccess r.id)
  | .reply => some (execResponseAccept r.id)
  | .arrived => some (execL1MissFill r.id)
  | .notice => some (execAccessViolationNotice r.id)
  | .dirty => some (execDirtySetWalk r.id)
  | .lost => none

/-- Steps of memory, translation and the access tables. -/
def State.memSteps (s : State) : List (State → Out) :=
  s.mem.reqs.filterMap Req.nextStep
    ++ s.mem.walks.map (fun w => execTranslationWalk w.unit w.va)
    ++ (((List.range 128).filter fun u => isTarget u && s.mem.atq.any fun w => !w.done.contains u).map execAccessTableEntryApply)
    ++ s.mem.bd.flatMap fun b =>
      (if b.tag = 8 then [execBaseDieRequest b.stack b.port] else [])
        ++ (if b.performed && !b.replied then [execBaseDieReply b.stack b.port b.tag] else [])
        ++ (match b.nmv with
          | some (c, q, n) => if b.replied then [execNmvBlockComplete c q n] else []
          | none => [])

/-- Installs: at an edge they come before every packet (R350). -/
def State.installSteps (s : State) : List (State → Out) :=
  if s.moved = some s.gtc then []
  else s.mem.bumps.flatMap fun b => ((List.range unitCount).filter fun u => !b.done.contains u).map fun u => execIncarnationInstall u b.ctx

/-- Other steps of incarnations, and of links. -/
def State.incSteps (s : State) : List (State → Out) :=
  (s.mem.bumps.flatMap fun b =>
    (((s.ctx b.ctx).fabset.filter (· != s.mem.devId)).flatMap fun d => [execPeerInstall d b.ctx, execPeerDrainTimeout d b.ctx])
      ++ (if s.reclaimReady b.ctx then [execReclaimComplete b.ctx] else []))
    ++ ((List.range 36).filterMap fun l =>
      let k := s.link l
      if !k.up then some (execLinkUp l) else if 16 < k.fails then some (execLinkReplayLimit l)
      else if k.resync then some (execLinkResync l) else none)
    ++ (if 1 < s.mem.domain then [step1 (·.peerReport)] else [])
    ++ (if s.fw.hostHeld.any fun h => !s.qpStopped h.qp then [step1 (·.hostResume)] else [])

/-- Steps of the copies of one engine. -/
def copySteps (eng : Nat) (x : Cx) : List (State → Out) :=
  x.queue.flatMap fun q =>
    if !q.started then [execCopyStart eng q.seq]
    else (if q.done < q.total then [execCopyChunk eng q.seq] else [])
      ++ [match q.kind with
        | .copy _ true => execOverlayComplete eng q.seq
        | _ => execCopyComplete eng q.seq]

/-- Steps of one core. -/
def State.coreSteps (s : State) (c : Nat) : List (State → Out) :=
  let k := s.core c
  copySteps c k.cx
    ++ (([StreamId.cl, .cc, .cs, .vx, .mx, .cx].filter fun e => s.fetchDue c e).map fun e => execStreamFetchStart c e)
    ++ (([0, 1].filter fun n => k.job.isSome && !k.scrubbed.contains n).map fun n => execSliceScrubComplete c n)
    ++ (if k.retiring || s.mayRetire c then [execJobRetire c] else [])
    ++ (if k.asks.isSome then [execWorkRequest c] else [])
    ++ (if k.carveTo.isSome then [execCarveApply c] else [])
    ++ (if !k.mx.partials.isEmpty then [execPairPartialArrive c] else [])
    ++ (if !k.mx.acks.isEmpty then [execPairAckArrive c] else [])
    ++ (if s.sweepDue c then [execKatSweep c] else [])

/-- Steps of tile instructions. -/
def TileIns.steps (t : TileIns) : List (State → Out) :=
  (t.nodes.flatMap fun x =>
    if x.complete then []
    else if x.accepted then [execTileChildComplete t.id x.id]
    else if x.reduces.isEmpty then [execTileChildAccept t.id x.id]
    else [execTileReductionStart t.id x.id])
    ++ (if t.remote.isSome || (t.back.isSome && t.done) then [execFabricTileReturn t.id] else [])

/-- Among a context's ready nodes, one node goes before another (R381). -/
def Node.before (a b : Node) : Bool :=
  decide (b.priority < a.priority ∨ (b.priority = a.priority ∧ (a.ready < b.ready ∨ (a.ready = b.ready ∧ a.r.nodeid.toNat < b.r.nodeid.toNat))))

/-- Put a node among others in that order. -/
def insertReady (n : Node) : List Node → List Node
  | [] => [n]
  | m :: l => if n.before m then n :: m :: l else m :: insertReady n l

/-- Whether a step changes a node. -/
def State.moves (_ : State) (n : Node) (o : Out) : Bool :=
  match o with
  | .next t => (t.nodes.find? fun m => m.ctx == n.ctx && m.r.nodeid == n.r.nodeid) != some n
  | _ => false

/-- Dispatch the first node of a context, in the order of R381, that can be placed. -/
def dispatchFirst (ctx : Nat) (s : State) : Out :=
  let order := (s.nodes.filter fun n => n.ctx == ctx && n.point.isSome).foldl (fun a n => insertReady n a) []
  match order.find? fun n => s.moves n (execNodeDispatch ctx n.r.nodeid s) with
  | some n => execNodeDispatch ctx n.r.nodeid s
  | none => .next s

/-- Steps of task graphs and queues. -/
def State.graphSteps (s : State) : List (State → Out) :=
  ((s.nodes.filter fun n => n.point.isSome).map (·.ctx)).eraseDups.map dispatchFirst
    ++ (s.nodes.flatMap fun n =>
      (if n.st == .dispatched || n.status.isSome then [execNodeRetire n.ctx n.r.nodeid] else [])
        ++ (if n.st == .retiring then [execSignalStallResume n.ctx n.r.nodeid] else [])
        ++ (if n.waits.any fun p => n.point.isNone && decide (n.r.deadline.toNat ≤ s.gtc + p.dur) then [execOperatingPointSelect n.ctx n.r.nodeid] else []))
    ++ s.queues.flatMap (fun q =>
      (if q.2.server != 3 || s.taskTurn (ctagCtx q.2.ctag) == some q.1 then [execQueueSlotServe q.1] else [])
        ++ (if q.2.full then [execQueueOverflowTrap q.1] else []))
    ++ ((s.mem.svc.map (·.ctx)).eraseDups.map execQueueServerAppend)

/-- Steps of contexts: halts, pre-emptions, and the events of parameter writes. -/
def State.ctxSteps (s : State) : List (State → Out) :=
  (s.halts.flatMap fun h =>
    if !h.2.raised then []
    else ((s.haltUnits h.1).filter fun u => !h.2.stopped.contains u.1 || h.2.faults.any fun r => r.src == u.1).map fun u => execUnitHaltStop h.1 u.1)
    ++ ((s.ctxs.filter fun x => x.2.res && s.allStopped x.2.part).map fun x => execHaltComplete x.1)
    ++ (s.cuffs.flatMap fun f =>
      f.sends.map (fun u => execPreemptRequestReceive f.part u)
        ++ f.acks.flatMap fun u => (if u < 512 then [execCoreSave u] else []) ++ [execCuffAck f.part u])
    ++ ((s.paramHolds.map fun h => h.2.2.2.1).eraseDups.flatMap fun c =>
      [execPtrootWrite c, execDlogbaseWrite c, execDlogidxWrite c, execDlogepWrite c, execTsegpoolWrite c, execStoplogWrite c,
        execQueuePoolLimitsWrite c])

/-- Steps of firmware and of power. -/
def State.unitSteps (s : State) : List (State → Out) :=
  (if s.fw.cmds.isEmpty then []
    else [execInfo, execAttest, execBudget, execPwrset, execCtxdef, execPartdef, execAtset, execQpbind, execQreg, execDevid, execApset,
      execEnergy, execTables, execFwstage, execReset, execSweep, execFwlog])
    ++ ((s.clusters.filter fun k => k.2.gated && k.2.waking).map fun k => execWakeComplete k.1)
    ++ (if 2 ≤ s.power.grade then (List.range 8).map execCDieParkGate else [])

/-- Everything the machine may do next, in no order that the spec fixes. -/
def State.candidates (s : State) : List (State → Out) :=
  s.memSteps ++ s.incSteps ++ (s.cores.flatMap fun c => s.coreSteps c.1) ++ copySteps 598 s.server0 ++ copySteps 599 s.server1
    ++ s.tiles.flatMap TileIns.steps ++ ((s.fabTiles.map (·.ctag)).eraseDups.map fun g => step1 (·.crownFabric g)) ++ s.graphSteps ++ s.ctxSteps ++ s.unitSteps

/-! ## The turn -/

/-- The issue slots of a core in the order of R55: the commands that MX starts come between VX and the word of MX. -/
def slotsOf (c : Nat) : List (Nat × StreamId × Nat) :=
  [(c, .cc, 0), (c, .cc, 1), (c, .cl, 0), (c, .cs, 0), (c, .vx, 0), (c, .mx, 0), (c, .mx, 1), (c, .cx, 0)]

/-- The start of the engine cycles of this tick: buckets fill, running clusters draw, errors of arrays are found, traps are taken, and frozen words go on (R58, R62,
R430, R438). -/
def State.beginCycles (s : State) : State :=
  let ks := (List.range 64).filter s.onEdge
  let s := ks.foldl (fun (s : State) k => (s.updCluster k fun u => { u with bucket := Nat.min 4096 (u.bucket + u.refill) }).chargeEnergy k 23 0 1) s
  let s := if s.mem.latent.isEmpty then s else s.arrayErrors fun c => s.onEdge (clusterOf c)
  let s := s.coresNow.foldl (fun (s : State) c => if s.trapDue c then s.takeTrap c else s) s
  let s := s.startLeaves s.onEdge
  let s := s.coresNow.foldl (fun (s : State) c =>
    if (s.halt (s.core c).theJob.part).stops || s.coreParked c || (s.core c).job.isNone then s else s.pumpAll c) s
  { s with phase := .issue, turn := (s.coresNow.filter fun c => (s.core c).job.isSome).flatMap slotsOf }

/-- The next virtual cycle of a core opens, unless the last one has not ended or the core is stopped; a timing error or a trial of the cycle's words may hold it
(R58, R438, R454). -/
def State.openCycle (s : State) (c : Nat) : State :=
  let k := s.core c
  let stop := (s.halt k.theJob.part).stops || s.coreParked c || (k.trapBits != 0 && !k.hm)
  if k.job.isSome && !k.frozen && !k.cycleOpen && !k.svcWait && (k.inForm || !stop) then
    let t := (s.updCore c fun k => { k with issuing := true, cycleOpen := true, formsOnly := stop }).timingReplay c
    if (t.core c).holdReq then t else t.tryCycle c
  else s

/-- MX starts commands while it can; then a deadline that has passed is a schedule miss (R201, R208). -/
def mxTurn (c : Nat) (rest : List (Nat × StreamId × Nat)) (s : State) : Out :=
  let x := (s.core c).mx
  if !x.queue.isEmpty && !x.idle then execMxCommandStart c s
  else if (s.mxLate c).isSome then execScheduleMiss c { s with turn := rest }
  else .next { s with turn := rest }

/-- The next slot of the turn. -/
def issueStep (s : State) : Out :=
  match s.turn with
  | [] => .next { s with phase := .finish }
  | (c, .mx, 0) :: rest => mxTurn c rest s
  | (c, .mx, _) :: rest => issueSlot c .mx 0 { s with turn := rest }
  | (c, .cc, 0) :: rest => issueSlot c .cc 0 { s.openCycle c with turn := rest }
  | (c, e, n) :: rest => issueSlot c e n { s with turn := rest }

/-! ## The end of a cycle -/

/-- What of a core takes effect at the end of an engine cycle (R37, R137, R138, R143, R172, R241, R265, R340). -/
def Core.settle (k : Core) : Core :=
  let ring := fun (r : Ring) => { r with start := r.q.length, pops := 0, pushes := 0 }
  let warn := fun (st : Stream) => { st with warn := (st.warn &&& ~~~st.warnClr) ||| st.warnSet, warnSet := 0, warnClr := 0, blocked := false }
  let k := (k.applySp.dropRanges.applyTags).applyCsrs
  { k with
    cl := warn k.cl, cc := warn k.cc, cs := warn k.cs, vx := warn k.vx, mxs := warn k.mxs, cxs := warn k.cxs
    cx := k.cx.passed
    sr := k.srSeed.foldl (fun m p => sset 0 m p.1 p.2) k.sr, srSeed := []
    fmtq := k.fmtq ++ k.fmtqNew, fmtqNew := []
    ring0 := ring k.ring0, ring1 := ring k.ring1
    range := { k.range with lo0 := k.range.lo, hi0 := k.range.hi }
    holdReq := false, refused := false, issuing := false }

/-- The virtual cycle of a core ends with this engine cycle, unless something freezes or holds it; results land, and the count moves
(R56-R58, R328). -/
def Core.endVirtual (k : Core) : Core :=
  let ends := k.cycleOpen && k.memq.isEmpty && !k.holdReq
  let t := ({ k with cycleOpen := ends }).landResults
  { t with
    cycleOpen := k.cycleOpen && !ends && !k.holdReq
    vcyc := if ends && !k.hm then (k.vcyc + 1) % 2 ^ 64 else k.vcyc
    hcyc := if ends && k.hm then (k.hcyc + 1) % 2 ^ 64 else k.hcyc }

/-- Matrix commands that complete in this engine cycle, and the age of the others (R202). -/
def State.endMatrix (s : State) (c : Nat) : State :=
  ((s.core c).mx.landing.foldl (fun (s : State) q => Out.stateOr (execMxCommandComplete c q s) s) s).updCore c Core.mxAge

/-- Whether the words that hold their streams go on in a core. -/
def State.holdsRun (s : State) (c : Nat) : Bool :=
  let k := s.core c
  k.job.isSome && !(s.halt k.theJob.part).stops && !s.coreParked c

/-- The word that holds stream `e` goes on; the words that an interrupted job holds do not end before `eret` (R295, R329). -/
def State.holdStep (s : State) (c : Nat) (e : StreamId) : State :=
  let k := s.core c
  match (k.strm e).hold with
  | none => s
  | some op =>
    if (k.strm e).trapped then s
    else
      let r := s.advanceHeld c op
      let aside := (k.hm && e != .cc && e != .cx) || (k.svcWait && e != .cx)
      if r.2.stage = 4 then (if aside then s else r.1.updStrm c e fun st => { st with hold := none })
      else r.1.updStrm c e fun st => { st with hold := some r.2 }

/-- The word that a trap set aside goes on short of its end. -/
def State.savedStep (s : State) (c : Nat) : State :=
  match (s.core c).savedHold with
  | none => s
  | some op =>
    let r := s.advanceHeld c op
    if r.2.stage = 4 then s else r.1.updCore c fun k => { k with savedHold := some r.2 }

/-- The phase end of a core that saves itself goes on (R407). -/
def State.saveStep (s : State) (c : Nat) : State :=
  match (s.core c).saveOp with
  | none => s
  | some op =>
    let r := s.advanceOp c op
    r.1.updCore c fun k => { k with saveOp := some r.2 }

/-- Held words of a core go on. -/
def State.endHolds (s : State) (c : Nat) : State :=
  let s := if s.holdsRun c then
      ([StreamId.cl, .cc, .cs, .vx, .mx, .cx].foldl (fun s e => s.holdStep c e) s).savedStep c
    else s
  s.saveStep c

/-- The counts of a core at the end of an engine cycle (R38, R331, R400). -/
def State.endCounts (s : State) (c : Nat) : State :=
  let stall := s.stallNext c
  s.updCore c fun k =>
    { k with
      spilled := k.spilled.zipIdx.map fun p => Nat.min p.1 (k.queueLen p.2)
      poolHold := k.poolHoldNext, poolHeld := false, stall := stall, issued := false
      skid := if (s.halt k.theJob.part).raised then k.skid + 1 else 0
      age := if k.job.isSome then k.age + 1 else k.age }

/-- Overlays that complete in this engine cycle replace templates (R67). -/
def State.endOverlays (s : State) (c : Nat) : State :=
  (((s.core c).tplWrites).foldl (fun (s : State) w =>
    (s.freshTemplate c w.1 w.2.1).updStrm c w.1 fun st => { st with table := sset 0 st.table w.2.1 w.2.2 }) s).updCore c fun k =>
      { k with tplWrites := [] }

/-- The end of the engine cycles of this tick: matrix results, held words, virtual cycles, barriers, what settles; then time goes on. -/
def State.endCycles (s : State) : State :=
  let cs := s.coresNow
  let s := cs.foldl (fun (s : State) c => s.endMatrix c) s
  let s := cs.foldl (fun (s : State) c => s.endHolds c) s
  let s := cs.foldl (fun (s : State) c => s.updCore c Core.endVirtual) s
  let s := ((s.clusters.map (·.1)).filter fun k => s.onEdge k && !(s.cluster k).barAdds.isEmpty).foldl (fun (s : State) k => s.endBarriers k) s
  let s := cs.foldl (fun (s : State) c => (s.endOverlays c).updCore c Core.settle) s
  let s := cs.foldl (fun (s : State) c => s.endCounts c) s
  { s with gtc := (s.gtc + 1) % 2 ^ 64, phase := .edge }

/-! ## The edge -/

/-- A freely chosen candidate, or the beginning of the tick's engine cycles. -/
def chooseStep (l : List (State → Out)) (s : State) : Out :=
  match l with
  | [] => .next s.beginCycles
  | f :: fs =>
    match (f :: fs)[Config.choice s.free % (fs.length + 2)]? with
    | some g => g s.drawn
    | none => .next s.drawn.beginCycles

/-- The events from outside that have come by now: the first of them. -/
def State.external (s : State) : Option (Nat × Sys2Proof.Instr) := s.agenda.find? fun e => decide (e.1 ≤ s.gtc)

/-- One step at the edge of a tick: what is due, else what comes from outside, else a free choice. -/
def edgeStep (s : State) : Out :=
  match s.due with
  | some f => f s
  | none =>
    match s.external with
    | some e => exec e.2 { s with agenda := s.agenda.erase e, moved := some s.gtc }
    | none => chooseStep (s.installSteps ++ s.candidates.map fun f s => f { s with moved := some s.gtc }) s

/-- One step of the machine. -/
def tick (s : State) : Out :=
  match s.phase with
  | .edge => edgeStep s
  | .issue => issueStep s
  | .finish => .next s.endCycles

end Sys2Proof.Machine
end

