-- ==== Sys2Proof/Machine/Place.lean ====
section
/-! DEFINITION. Placing one instruction where the next step issues it: what the schedulers and the walkers would have done before the
first word of a job issues, put in place (log entry 6). -/

namespace Sys2Proof.Machine

/-- Physical address at which the instruction is placed: the first byte of the LPDDR6 range. -/
def placePa : Nat := 2 ^ 41

/-- The bytes of an instruction: its bits in little-endian words, and zeros up to the longest form (R5, R76). -/
def placeBytes (nbits w : Nat) : List Byte := leBytes (w % 2 ^ nbits) 20

/-- The translation of virtual page 0 for cluster 0. -/
def placeEntry (ctag : W16) : TEnt := { unit := 0, ctag := ctag, va := 0, size := 12, frame := placePa, perm := 31, epoch := none }

/-- Memory with the instruction, its line in L2, its translation, and an access-table entry that admits core 0. -/
def Mem.placed (m : Mem) (ctag : W16) (bs : List Byte) : Mem :=
  let home := homeOf placePa
  { m with
    bytes := foldUpTo bs.length (fun b i => sset 0 b (placePa + i) (bs.getD i 0)) m.bytes
    poison := m.poison.filter fun n => n != placePa / 32
    vers := m.vers.filter fun v => v.line != placePa / 128
    l2 := m.l2 ++ [{ line := placePa / 128 }]
    latent := m.latent.filter fun l => match l with
      | .template c _ _ _ | .timing c _ | .replaying c _ => c != 0
      | _ => true
    tcache := placeEntry ctag :: m.tcache
    acc := sinsert m.acc (1024 * home) (BitVec.ofNat 128 (2 ^ 127 + 31 <<< 122 + 0x3FF <<< 112 + 52 <<< 106)) }

/-- Core 0 at the point where CC's first word of a job issues. -/
def Core.placed (k : Core) (ctag : W16) : Core :=
  { k with
    job := some { k.theJob with ctx := 0, ctag := ctag, part := 0 }
    cc := { k.cc with
      started := true, fetching := true, ended := false, parked := false, trapped := false, blocked := false
      pc := 0, stage := none, form := [], redirects := [], annul := 0, resume := [], hold := none, fetchBuf := [] }
    memq := [], hm := false, svcWait := false, retiring := false, holdReq := false, refused := false, issuing := false
    cycleOpen := false, formsOnly := false
    trapBits := 0, trapSync := false }

/-- Context 0 runs on partition 0, and CC of core 0 takes the next issue slot with the instruction at virtual address 0. -/
def State.placeWord (s : State) (nbits w : Nat) : State :=
  let ctag := Sys2Proof.Machine.ctagOf 0 (s.mem.curAt (homeOf placePa) 0)
  let t : State :=
    { s with
      phase := .issue, turn := [(0, .cc, 0)]
      halts := serase s.halts 0
      cuffs := s.cuffs.filter fun f => f.part != 0 && !f.full.contains 0 && !f.saved.contains 0
      ctxs := sinsert s.ctxs 0 { s.ctx 0 with valid := true, inc := s.mem.curAt (homeOf placePa) 0, res := true, part := 0, state := .running }
      mem := s.mem.placed ctag (placeBytes nbits w) }
  ((t.updCluster 0 fun u => { u with gated := false, bucket := 4096 }).updCore 0 fun k => k.placed ctag)

end Sys2Proof.Machine
end

