-- ==== Sys2Proof/Machine/Step.lean ====
section
/-! DEFINITION. The step of the machine, and how one instruction is placed for the next step. -/

namespace Sys2Proof.Machine

/-- One step of the machine: an indivisible part of a GTC tick. -/
def step (s : State) : Host.Outcome State Fault Refusal := tick s

/-- The state with one instruction placed as CC's next word on core 0, at the slot that issues next (log entry 6). -/
def State.withFetchWord (s : State) (nbits w : Nat) : State := s.placeWord nbits w

end Sys2Proof.Machine
end

