-- ==== Sys2Proof/Safety.lean ====
section
/-! DEFINITION. What counts as a safe state and a safe run, in the terms that statements use. -/

namespace Sys2Proof.Machine

/-- Memory is in its canonical form: addresses rise, and no listed byte is zero, which is what an unlisted byte reads as. -/
def Mem.wf (m : Mem) : Bool := swf 0 m.bytes

/-- No partition's halt line is raised: no fault stands (R396). -/
def State.unhalted (s : State) : Bool := s.halts.all fun h => !h.2.raised

/-- A safe state: memory in canonical form and no fault standing. -/
def State.safe (s : State) : Bool := s.mem.wf && s.unhalted

/-- Every step of a run of `n` answers a next state that is safe. -/
def safeRun : Nat → State → Bool
  | 0, s => s.safe
  | n + 1, s =>
    s.safe && match step s with
      | .next t => safeRun n t
      | _ => false

/-! ## Words that issue, in the terms that statements use -/

/-- A word of opcode `o` with fields `t` issues and acts: its charge is admitted and its guard holds (R48, R80, R438). -/
def State.acts (s : State) (o : Nat) (t : Tpl) : Prop := s.admits s.cur.core (energyClass o t) = true ∧ s.active o t = true

/-- What a word adds to its core's pending results when it sends `v` to the register that code `d` names, with latency `lat`:
nothing where the code names a register that discards writes (R47, R50-R52, R56). -/
def State.sends (s : State) (d : BitVec 8) (lat : Nat) (v : Val) : List Pend :=
  match bindDst s.curStrm s.cur.strm d.toNat with
  | none => []
  | some x => [{ strm := s.cur.strm, ord := s.curCore.issueOrd, dst := x, due := s.curCore.now + lat - 1, val := v }]

/-- From `s` to `u` the issuing core's pending results grow by `l`. -/
def Gains (s u : State) (l : List Pend) : Prop := (u.core s.cur.core).pend = s.curCore.pend ++ l

/-- From `s` to `u` nothing has changed but what an issued word changes besides its effect: the charge of its cluster, and of its core
the pending results, the issue counts, the generators a word may draw from, and the issuing stream's place in its program, template
table, staging buffer, rotating bases (which a loop or a repeat steps) and WARN bits of the cycle. -/
structure WordFrame (s u : State) : Prop where
  rest : u = { s with cores := u.cores, clusters := u.clusters }
  otherCores : ∀ c, c ≠ s.cur.core → u.core c = s.core c
  otherClusters : ∀ k, k ≠ clusterOf s.cur.core → u.cluster k = s.cluster k
  cluster : u.cluster (clusterOf s.cur.core) = { s.cluster (clusterOf s.cur.core) with
    bucket := (u.cluster (clusterOf s.cur.core)).bucket, eacc := (u.cluster (clusterOf s.cur.core)).eacc }
  core : u.core s.cur.core = { s.curCore.setStrm s.cur.strm ((u.core s.cur.core).strm s.cur.strm) with
    pend := (u.core s.cur.core).pend, issueOrd := s.curCore.issueOrd + 1, issued := true, sr := (u.core s.cur.core).sr }
  stream : (u.core s.cur.core).strm s.cur.strm = { s.curStrm with
    pc := ((u.core s.cur.core).strm s.cur.strm).pc, resume := ((u.core s.cur.core).strm s.cur.strm).resume
    redirects := ((u.core s.cur.core).strm s.cur.strm).redirects, annul := ((u.core s.cur.core).strm s.cur.strm).annul
    rot := ((u.core s.cur.core).strm s.cur.strm).rot, reps := ((u.core s.cur.core).strm s.cur.strm).reps
    rvb := ((u.core s.cur.core).strm s.cur.strm).rvb, rpb := ((u.core s.cur.core).strm s.cur.strm).rpb
    form := ((u.core s.cur.core).strm s.cur.strm).form, table := ((u.core s.cur.core).strm s.cur.strm).table
    stage := ((u.core s.cur.core).strm s.cur.strm).stage, warnSet := ((u.core s.cur.core).strm s.cur.strm).warnSet }

/-- The word `i t`, of opcode `o`, completes wherever it acts, and what it leaves stands to what it found as `P` says. -/
def Does (i : Tpl → Instr) (o : Nat) (P : Tpl → State → State → Prop) : Prop :=
  ∀ t s, s.acts o t → ∃ u, exec (i t) s = .next u ∧ P t s u

/-- As `Does`, where the state besides meets `pre`. -/
def DoesWhen (i : Tpl → Instr) (o : Nat) (pre : Tpl → State → Prop) (P : Tpl → State → State → Prop) : Prop :=
  ∀ t s, s.acts o t → pre t s → ∃ u, exec (i t) s = .next u ∧ P t s u

/-- Issued in `s`, the word leaves `s'` as its effect and adds `l` to the pending results; nothing else changes. -/
def Leaves (s s' u : State) (l : List Pend) : Prop :=
  WordFrame s' u ∧ Gains s u l ∧ (u.core s.cur.core).sr = s.curCore.sr

/-- The word sends the 64-bit value `v` to its destination with latency `lat`, and changes nothing else. -/
def SendsWord (lat : Nat) (v : W64) (t : Tpl) (s u : State) : Prop := Leaves s s u (s.sends t.dst lat (.word v))

/-- The word `i t`, of opcode `o`, completes wherever it acts, sends `f t s` to its destination with latency `lat`, and changes
nothing else. -/
def Results (i : Tpl → Instr) (o lat : Nat) (f : Tpl → State → W64) : Prop := Does i o fun t s u => SendsWord lat (f t s) t s u

/-- The branch `i t`, of opcode `o`, completes wherever its charge is admitted, a false guard counting as not taken: when taken it
adds its target after two more words, when not and nullifying it annuls two words; it adds `l` to the pending results (R60, R128). -/
def Branches (i : Tpl → Instr) (o : Nat) (n : Tpl → Bool) (taken : Tpl → State → Bool) (target : Tpl → State → W64)
    (l : Tpl → State → List Pend) : Prop :=
  ∀ t s, s.admits s.cur.core (energyClass o t) = true → ∃ u, exec (i t) s = .next u ∧ Leaves s s u (l t s)
    ∧ ((u.core s.cur.core).strm s.cur.strm).redirects = ((s.curStrm.redirects.map fun r => (r.1 - 1, r.2)).filter fun r => r.1 != 0)
        ++ (if taken t s then [(2, target t s)] else [])
    ∧ ((u.core s.cur.core).strm s.cur.strm).annul = if !taken t s && n t then 2 else s.curStrm.annul

/-! ## Vector words -/

/-- The byte of the draw after `n` others of generator `i` (R104). -/
def drawOf (bank : Sparse W32) (i n : Nat) : Nat := srByte (Nat.repeat srNext (n + 1) (sget 0 bank i))

/-- A vector word sends, with latency `lat`, the vector whose element `e` of width `w` is `f e d` in the lanes whose guard is true and
the old element elsewhere, where `d` is a draw of the lane's generator if the word draws; each generator of an active lane advances
once for each of the lane's elements, and nothing else changes (R104, R105, R147). -/
def LanesSent (lat w : Nat) (draws : Bool) (f : Nat → Nat → Nat) (t : Tpl) (s u : State) : Prop :=
  ∃ v : Vec, Gains s u (s.sends t.dst lat (.vector v)) ∧ WordFrame s u
    ∧ (∀ e, e < 2048 / w → elem v w e =
        if (s.guard t).getLsbD (e * w / 32) then
          f e (if draws then drawOf s.curCore.sr (e * w / 32) (e % (32 / w)) else 0) % 2 ^ w
        else elem (s.vreg t.dst) w e)
    ∧ ∀ i, i < 64 → sget 0 (u.core s.cur.core).sr i =
        if draws && (s.guard t).getLsbD i then Nat.repeat srNext (32 / w) (sget 0 s.curCore.sr i) else sget 0 s.curCore.sr i

/-- A conversion's vector: element `j` of part `part`, of width `w`, is `f j d` where lane `j`'s guard is true, and every other element
is the old one; a lane draws once (R105, R153). -/
def PartIs (w part : Nat) (draws : Bool) (f : Nat → Nat → Nat) (t : Tpl) (s u : State) (v : Vec) : Prop :=
  (∀ e, e < 2048 / w → elem v w e =
      if e / 64 = part % (32 / w) ∧ (s.guard t).getLsbD (e % 64) = true then
        f (e % 64) (if draws then drawOf s.curCore.sr (e % 64) 0 else 0) % 2 ^ w
      else elem (s.vreg t.dst) w e)
    ∧ ∀ i, i < 64 → sget 0 (u.core s.cur.core).sr i =
        if draws && (s.guard t).getLsbD i then srNext (sget 0 s.curCore.sr i) else sget 0 s.curCore.sr i

/-- A predicate word sends the bits of `v` where the guard is true and the old bits elsewhere (R155, R156). -/
def PredSent (lat : Nat) (v : W64) (t : Tpl) (s u : State) : Prop :=
  SendsWord lat ((v &&& s.guard t) ||| (s.preg t.dst &&& ~~~ s.guard t)) t s u

/-! ## Words that access memory -/

/-- The issuing core has no access outstanding, is not waiting for a carve-out, and its range checker is empty. -/
def State.ready (s : State) : Prop := s.curCore.memq = [] ∧ s.curCore.carveTo = none ∧ s.curCore.ranges = []

/-- What an access adds to a core's pending results (R56). -/
def State.sendsTo (s : State) (d : Dst) (lat : Nat) (v : Val) : List Pend :=
  [{ strm := s.cur.strm, ord := s.curCore.issueOrd, dst := d, due := s.curCore.now + lat - 1, val := v }]

/-- A loaded value of `size` bytes, sign-extended or zero-extended (R131). -/
def extended (signed : Bool) (size v : Nat) : W64 :=
  if signed then (BitVec.ofNat (8 * size) v).signExtend 64 else BitVec.ofNat 64 v

/-- The word stands first and alone in its core's queue of accesses, which freezes the core. -/
def Frozen (s u : State) (op : MemOp) : Prop := (u.core s.cur.core).memq = [op]

/-- One byte of a core's scratchpad, and whether its line is full. -/
def Core.spByte (k : Core) (a : Nat) : Bool × Nat := ((k.spLine (a / 128)).full, lineBytesAt (k.spLine (a / 128)).data a 1)

/-- From `s` to `u` an issued access has changed nothing but its core's results, queue, caches, scratchpad, signatures, phase and range
entries with those of words that are done, its stream's place, WARN bits and hold, the charge of its cluster, what has been requested of memory, the count of free choices,
and the signature boards of its context: no committed byte, no other core, and no other state of the machine. -/
structure AccessFrame (s u : State) : Prop where
  rest : u = { s with cores := u.cores, clusters := u.clusters, mem := u.mem, free := u.free, ctxs := u.ctxs }
  bytes : u.mem.bytes = s.mem.bytes
  otherCores : ∀ c, c ≠ s.cur.core → u.core c = s.core c
  otherClusters : ∀ k, k ≠ clusterOf s.cur.core → u.cluster k = s.cluster k
  core : u.core s.cur.core = { s.curCore.setStrm s.cur.strm ((u.core s.cur.core).strm s.cur.strm) with
    pend := (u.core s.cur.core).pend, issueOrd := s.curCore.issueOrd + 1, issued := true, memq := (u.core s.cur.core).memq
    l1 := (u.core s.cur.core).l1, sp := (u.core s.cur.core).sp, spEvents := (u.core s.cur.core).spEvents
    phase := (u.core s.cur.core).phase, sig1 := (u.core s.cur.core).sig1, sig2 := (u.core s.cur.core).sig2
    sig3 := (u.core s.cur.core).sig3, sig4 := (u.core s.cur.core).sig4, lastEp := (u.core s.cur.core).lastEp
    ranges := (u.core s.cur.core).ranges, rangesDone := (u.core s.cur.core).rangesDone }
  registers : ((u.core s.cur.core).strm s.cur.strm).s = s.curStrm.s ∧ ((u.core s.cur.core).strm s.cur.strm).p = s.curStrm.p
    ∧ ((u.core s.cur.core).strm s.cur.strm).lnk = s.curStrm.lnk

end Sys2Proof.Machine
end

