-- ==== Sys2Proof/WellFormed.lean ====
section
/-! DEFINITION. Well-formed instructions: fields within their widths, a template whose MOD selects its instruction, and units that
exist. -/

namespace Sys2Proof

/-- The forms of patch words and the events: fields within their widths, numbers that name a unit of the machine (R10-R12, R50, R71,
R76, R77, R332, R347, R403). -/
def Instr.fieldsOk : Instr → Bool
  | .stage t f h v => decide (t < 64 ∧ f < 16 ∧ h < 16 ∧ v < 65536)
  | .issueAndWriteBack t f h v => decide (t < 64 ∧ f < 16 ∧ h < 16 ∧ v < 65536)
  | .templateLoad n rsv _ _ _ _ => decide (n < 64 ∧ rsv < 262144)
  | .longImmediate n _ h rsv _ => decide (n < 64 ∧ h < 16 ∧ rsv < 8192)
  | .carveApply core => decide (core < 512)
  | .mxCommandStart core => decide (core < 512)
  | .mxCommandComplete core _ => decide (core < 512)
  | .scheduleMiss core => decide (core < 512)
  | .counterThresholdTrap core => decide (core < 512)
  | .pairPartialArrive core => decide (core < 512)
  | .pairAckArrive core => decide (core < 512)
  | .katWindowClose core => decide (core < 512)
  | .nmvBlockComplete core _ _ => decide (core < 512)
  | .fabricTilePacket link _ _ _ _ => decide (link < 36)
  | .copyStart engine _ => decide (engine < 512 ∨ engine = 598 ∨ engine = 599)
  | .copyChunk engine _ => decide (engine < 512 ∨ engine = 598 ∨ engine = 599)
  | .copyComplete engine _ => decide (engine < 512 ∨ engine = 598 ∨ engine = 599)
  | .overlayComplete core _ => decide (core < 512)
  | .queueServerAppend ctx => decide (ctx < 1024)
  | .resultLand core => decide (core < 512)
  | .timerFire core => decide (core < 512)
  | .streamStall core => decide (core < 512)
  | .poolSpillTrap core => decide (core < 512)
  | .nodeDispatch ctx _ => decide (ctx < 1024)
  | .streamFetchStart core _ => decide (core < 512)
  | .sliceScrubComplete core slice => decide (core < 512 ∧ slice < 2)
  | .jobRetire core => decide (core < 512)
  | .workRequest core => decide (core < 512)
  | .priorityPromotion ctx _ => decide (ctx < 1024)
  | .operatingPointSelect ctx _ => decide (ctx < 1024)
  | .nodeRetire ctx _ => decide (ctx < 1024)
  | .signalStallResume ctx _ => decide (ctx < 1024)
  | .nodeRollback ctx _ _ => decide (ctx < 1024)
  | .katSweep core => decide (core < 512)
  | .accessTableEntryApply target => decide (target < 128)
  | .translationWalk unit _ => decide (unit < 70)
  | .ptrootWrite ctx => decide (ctx < 1024)
  | .dlogbaseWrite ctx => decide (ctx < 1024)
  | .dlogidxWrite ctx => decide (ctx < 1024)
  | .dlogepWrite ctx => decide (ctx < 1024)
  | .tsegpoolWrite ctx => decide (ctx < 1024)
  | .stoplogWrite ctx => decide (ctx < 1024)
  | .queuePoolLimitsWrite ctx => decide (ctx < 1024)
  | .incarnationInstall unit ctx => decide (unit < 756 ∧ ctx < 1024)
  | .reclaimComplete ctx => decide (ctx < 1024)
  | .peerInstall device ctx => decide (device < 1024 ∧ ctx < 1024)
  | .peerDrainTimeout device ctx => decide (device < 1024 ∧ ctx < 1024)
  | .linkResync link => decide (link < 36)
  | .clusterWakeRegister cluster => decide (cluster < 64)
  | .wakeComplete cluster => decide (cluster < 64)
  | .unitHaltStop part unit => decide (part < 64 ∧ unit < 65536)
  | .haltComplete ctx => decide (ctx < 1024)
  | .preemptRequestReceive part unit => decide (part < 64 ∧ unit < 586)
  | .ckwdTimeout core => decide (core < 512)
  | .coreSave core => decide (core < 512)
  | .cuffAck part unit => decide (part < 64 ∧ unit < 586)
  | .cDieParkGate die => decide (die < 8)
  | .clockRestart cluster => decide (cluster < 64)
  | .overcurrentAlarm _ cluster => decide (cluster < 64)
  | .replayLimit cluster => decide (cluster < 64)
  | .machineCheck cause _ _ => decide (cause < 6)
  | .baseDieRequest stack port => decide (stack < 16 ∧ port < 8)
  | .baseDieReply stack port tag => decide (stack < 16 ∧ port < 8 ∧ tag < 8)
  | .hostRdmaWrite qp _ _ => decide (qp < 256)
  | .hostRdmaRead qp _ _ => decide (qp < 256)
  | .hostRdmaFetchAdd qp _ _ => decide (qp < 256)
  | .hostSend qp _ => decide (qp < 256)
  | .hostRequestRefused qp _ => decide (qp < 256)
  | .peerRequestIngress link _ _ _ => decide (link < 36)
  | .linkFlitReceive link _ _ => decide (link < 36)
  | .linkReplayLimit link => decide (link < 36)
  | .linkUp link => decide (link < 36)
  | .ethernetLinkTraining port _ => decide (port < 2)
  | _ => true

/-- A template instruction is well-formed when its opcode and fields decode to it (R69, R81). -/
def Instr.selectsItself (i : Instr) : Bool :=
  match opcTpl? i with
  | some (o, t) => decodeOpc o t == some i
  | none => true

/-- Whether an instruction is well-formed. -/
def Instr.wf (i : Instr) : Bool := i.fieldsOk && i.selectsItself

end Sys2Proof
end

