-- ==== Sys2Proof/Certificates/Slice0/Obligations.lean ====
section
/-! DEFINITION. The statements for the provers. Each name says what it states, each docstring which rule it formalises. -/

open Sys2Proof Sys2Proof.Machine

/-! ## Control words: integer arithmetic -/

/-- Sums wrap, or clamp to the signed range under SAT; products are the low or the high half of the 128-bit product (R120, R121). Completes:
ADD, SUB, ADDI, MUL, MULH, MULHU, MADD, ADDA. -/
def Obligations.ArithmeticResults : Prop :=
  Results .add 0x000 1 (fun t s => if t.sat then clamp64 ((s.opa t).toInt + (s.opb t).toInt) else s.opa t + s.opb t)
  ∧ Results .sub 0x001 1 (fun t s => if t.sat then clamp64 ((s.opa t).toInt - (s.opb t).toInt) else s.opa t - s.opb t)
  ∧ Results .addi 0x002 1 (fun t s => if t.sat then clamp64 ((s.opa t).toInt + (simm t).toInt) else s.opa t + simm t)
  ∧ Results .adda 0x083 1 (fun t s =>
      if t.sat then clamp64 ((s.opa t).toInt + (s.opb t).toInt * 2 ^ (t.mod.toNat % 4) + (simm t).toInt)
      else s.opa t + s.opb t <<< (t.mod.toNat % 4) + simm t)
  ∧ Results .mul 0x003 3 (fun t s => s.opa t * s.opb t)
  ∧ Results .mulh 0x004 3 (fun t s => ((s.opa t).signExtend 128 * (s.opb t).signExtend 128).extractLsb' 64 64)
  ∧ Results .mulhu 0x005 3 (fun t s => ((s.opa t).setWidth 128 * (s.opb t).setWidth 128).extractLsb' 64 64)
  ∧ Results .madd 0x082 3 (fun t s => s.opa t * s.opb t + s.opc t)

/-- Division truncates toward zero, the remainder takes the sign of the dividend, and the corners are those of R122. Completes: DIV, DIVU, REM,
REMU. -/
def Obligations.DivisionResults : Prop :=
  Results .div 0x006 18 (fun t s => if s.opb t = 0 then BitVec.allOnes 64 else (s.opa t).sdiv (s.opb t))
  ∧ Results .rem 0x008 18 (fun t s => if s.opb t = 0 then s.opa t else (s.opa t).srem (s.opb t))
  ∧ Results .divu 0x007 18 (fun t s => if s.opb t = 0 then BitVec.allOnes 64 else s.opa t / s.opb t)
  ∧ Results .remu 0x009 18 (fun t s => if s.opb t = 0 then s.opa t else s.opa t % s.opb t)

/-- Logic, shifts, counts of bits, minima and maxima; `bext` packs the bits of opa at the set positions of opb into the low bits, `bdep`
scatters the low bits of opa to those positions, and every other bit is zero (R120, R123). Completes: AND, OR, XOR, ANDN, ORN, SHL, SHR,
SRA, ROTL, CLZ, CTZ, POPC, MIN, MAX, MINU, MAXU, BEXT, BDEP. -/
def Obligations.LogicResults : Prop :=
  let count := fun (t : Tpl) (s : State) => if t.mod.getLsbD 0 then t.imm.toNat % 64 else (s.opb t).toNat % 64
  let places := fun (m : W64) => (List.range 64).filter m.getLsbD
  Results .and 0x00A 1 (fun t s => s.opa t &&& s.opb t)
  ∧ Results .or 0x00B 1 (fun t s => s.opa t ||| s.opb t)
  ∧ Results .xor 0x00C 1 (fun t s => s.opa t ^^^ s.opb t)
  ∧ Results .andn 0x00D 1 (fun t s => s.opa t &&& ~~~ s.opb t)
  ∧ Results .orn 0x00E 1 (fun t s => s.opa t ||| ~~~ s.opb t)
  ∧ Results .shl 0x00F 1 (fun t s => s.opa t <<< count t s)
  ∧ Results .shr 0x010 1 (fun t s => s.opa t >>> count t s)
  ∧ Results .sra 0x011 1 (fun t s => (s.opa t).sshiftRight (count t s))
  ∧ Results .rotl 0x012 1 (fun t s => s.opa t <<< count t s ||| s.opa t >>> (64 - count t s))
  ∧ Results .clz 0x013 1 (fun t s => (s.opa t).clz)
  ∧ Results .ctz 0x014 1 (fun t s => (s.opa t).ctz)
  ∧ Results .popc 0x015 1 (fun t s => (s.opa t).cpop)
  ∧ Results .min 0x016 1 (fun t s => if (s.opa t).sle (s.opb t) then s.opa t else s.opb t)
  ∧ Results .max 0x017 1 (fun t s => if (s.opa t).sle (s.opb t) then s.opb t else s.opa t)
  ∧ Results .minu 0x018 1 (fun t s => if s.opa t ≤ s.opb t then s.opa t else s.opb t)
  ∧ Results .maxu 0x019 1 (fun t s => if s.opa t ≤ s.opb t then s.opb t else s.opa t)
  ∧ Results .bext 0x080 2 (fun t s => ofBits 64 fun j => ((places (s.opb t))[j]?.map (s.opa t).getLsbD).getD false)
  ∧ Results .bdep 0x081 2 (fun t s => ofBits 64 fun i =>
      (s.opb t).getLsbD i && (s.opa t).getLsbD ((places (s.opb t)).filter (· < i)).length)

/-- Compares write all ones where the condition of MOD[2:0] holds, and zero elsewhere; `sel` chooses by bit 0 of predicate pc, which is read
under the rotating names and is all ones for p0; `li`, `li.hi` and `mov` (R124-R127). Completes: SEL, CMP, CMPI, LI, LI_HI, MOV. -/
def Obligations.SelectionResults : Prop :=
  let holds := fun (cc : Nat) (a b : W64) =>
    [a == b, a != b, a.slt b, b.sle a, a.ult b, b.ule a, a.sle b, b.slt a].getD cc false
  Results .cmp 0x01B 1 (fun t s => if holds (t.mod.toNat % 8) (s.opa t) (s.opb t) then BitVec.allOnes 64 else 0)
  ∧ Results .cmpi 0x01C 1 (fun t s => if holds (t.mod.toNat % 8) (s.opa t) (t.imm.signExtend 64) then BitVec.allOnes 64 else 0)
  ∧ Results .sel 0x01A 1 (fun t s =>
    let n := t.sc.toNat - 128
    let pc := if n = 0 then BitVec.allOnes 64
      else sget 0 s.curStrm.p (if n < 8 then n else 8 + (n - 8 + s.curStrm.rpb.toNat) % 8)
    if pc.getLsbD 0 then s.opa t else s.opb t)
  ∧ Results .li 0x01D 1 (fun t _ => t.imm.signExtend 64)
  ∧ Results .liHi 0x01D 1 (fun t s => (t.imm.setWidth 64 <<< 32) ||| ((s.opa t).setWidth 32).setWidth 64)
  ∧ Results .mov 0x01E 1 (fun t s => s.opa t)

/-! ## Control words: identifiers, counters, timers, rings -/

/-- `wid` by its selector; `rdgtc`, `rdscnt`, `rdvc`, `rlevel` and `rdwarn` (R26, R136, R138, R142, R143). `rclaim` takes the next grain of the
range slot: its bounds go to sd and se after four cycles, and a claim that is not empty sends its start to WID (R29, R139). The three forms
of `tsub` set, or disarm, the stream's timer; `warnclr` clears, at the end of the cycle, the bits of opa in the WARN registers it names: one
stream's, the issuing one's, or all six (R140, R143). Completes: RLEVEL, WID, RCLAIM, TSUB, TSUB_REL, TSUB_OFF, RDGTC, RDSCNT, RDVC, RDWARN,
WARNCLR. -/
def Obligations.IdentifierAndTimerWords : Prop :=
  (Results .wid 0x040 1 (fun t s =>
     let k := s.curCore
     let j := k.theJob
     let p := s.part j.part
     let q := s.cur.core / 8
     let sel := t.mod.toNat % 16
     if sel < 6 then
       if sel < j.nfield then BitVec.ofNat 64 (k.wid.toNat >>> (j.fw.take sel).sum % 2 ^ j.fw.getD sel 0) else 0
     else
       [k.range.lo0, j.header, k.range.hi0, k.range.grain, BitVec.ofNat 64 (s.cur.core % 8), BitVec.ofNat 64 (q % 16 - p.ox),
         BitVec.ofNat 64 (q / 16 - p.oy), BitVec.ofNat 64 j.nfield, BitVec.ofNat 64 ((p.wm1 + 1) * 256 + (p.hm1 + 1))].getD (sel - 6) 0)
   ∧ Results .rdgtc 0x043 1 (fun _ s => BitVec.ofNat 64 s.gtc)
   ∧ Results .rdscnt 0x044 1 (fun _ s => BitVec.ofNat 64 (s.gtc / 4))
   ∧ Results .rdvc 0x045 1 (fun _ s => BitVec.ofNat 64 s.curCore.vcyc)
   ∧ Results .rlevel 0x03B 1 (fun t s => BitVec.ofNat 64 (if t.mod.getLsbD 0 then s.curCore.ring1 else s.curCore.ring0).start)
   ∧ Results .rdwarn 0x046 1 (fun t s =>
       let k := s.curCore
       [k.cl.warn, k.cc.warn, k.cs.warn, k.vx.warn, k.mxs.warn, k.cxs.warn, s.curStrm.warn,
         k.cl.warn ||| k.cc.warn ||| k.cs.warn ||| k.vx.warn ||| k.mxs.warn ||| k.cxs.warn].getD (t.mod.toNat % 8) 0))
  ∧
  (Does .rclaim 0x041 fun t s u =>
     let r := s.curCore.range
     let hi := BitVec.ofNat 64 (min (r.lo.toNat + r.grain.toNat) r.hi.toNat)
     if r.hi ≤ r.lo then Leaves s s u (s.sends t.dst 4 (.word r.hi) ++ s.sends t.sa 4 (.word r.hi))
     else
       Leaves s (s.updCur fun k => { k with range := { r with lo := hi } }) u
         (s.sends t.dst 4 (.word r.lo) ++ s.sends t.sa 4 (.word hi)
           ++ if r.lo = hi then [] else
             [{ strm := s.cur.strm, ord := s.curCore.issueOrd, dst := .wid, due := s.curCore.now + 4 - 1, val := .word r.lo }]))
  ∧
  (Does .tsub 0x042 (fun t s u =>
     Leaves s (s.updCurStrm fun st => { st with tcmp := s.opa t + simm t, armed := true }) u [])
   ∧ Does .tsubRel 0x042 (fun t s u =>
     Leaves s (s.updCurStrm fun st => { st with tcmp := BitVec.ofNat 64 s.gtc + (s.opa t + simm t), armed := true }) u [])
   ∧ Does .tsubOff 0x042 (fun _ s u => Leaves s (s.updCurStrm fun st => { st with armed := false }) u [])
   ∧ Does .warnclr 0x047 (fun t s u =>
     let named := fun (e : StreamId) => e.code = t.mod.toNat % 8 ∨ (t.mod.toNat % 8 = 6 ∧ e = s.cur.strm) ∨ t.mod.toNat % 8 = 7
     Gains s u [] ∧ (∀ c, c ≠ s.cur.core → u.core c = s.core c) ∧ u.mem = s.mem
       ∧ ∀ e : StreamId, ((u.core s.cur.core).strm e).warnClr
           = if named e then (s.curCore.strm e).warnClr ||| s.opa t else (s.curCore.strm e).warnClr))

/-- The words that do nothing, and the words that end their streams: `nop` and `rdv` of every engine. Both are unpredicated and uncharged, so
they complete in every state; `rdv` empties the staging buffer (R34, R75, R145). `fork` starts, in CC, the streams its mask names at their
header entries, and `fork.r` one stream at opa; a stream that has started, or an entry of zero, and any other context, start nothing (R33,
R296). Completes: NOP, RDV, FORK, FORK_R, NOP_VX, RDV_VX, NOP_MX, RDV_MX, NOP_CX, RDV_CX. -/
def Obligations.IdleEndAndForkWords : Prop :=
  ((∀ i ∈ [Instr.nop, Instr.nopVx, Instr.nopMx, Instr.nopCx], ∀ t s, ∃ u, exec (i t) s = .next u ∧ Leaves s s u [])
   ∧ ∀ i ∈ [Instr.rdv, Instr.rdvVx, Instr.rdvMx, Instr.rdvCx], ∀ t s, ∃ u, exec (i t) s = .next u
       ∧ Leaves s (s.updCurStrm fun st => { st with ended := true, stage := none }) u []
       ∧ ((u.core s.cur.core).strm s.cur.strm).stage = none)
  ∧
  (let started := fun (s u : State) (e : StreamId) (a : W64) =>
     (u.core s.cur.core).strm e = { s.curCore.strm e with started := true, pc := a }
   let same := fun (s u : State) (e : StreamId) => (u.core s.cur.core).strm e = s.curCore.strm e
   let frame := fun (s u : State) => Gains s u [] ∧ u.mem = s.mem ∧ (∀ c, c ≠ s.cur.core → u.core c = s.core c)
     ∧ (u.core s.cur.core).job = s.curCore.job
   Does .fork 0x090 (fun t s u => frame s u ∧ ∀ i e, [StreamId.cl, .cs, .vx, .mx, .cx][i]? = some e → e ≠ s.cur.strm →
       let entry := s.curCore.theJob.entry.getD e.code 0
       if s.cur.strm = .cc ∧ t.mod.getLsbD i = true ∧ entry ≠ 0 ∧ (s.curCore.strm e).started = false then started s u e entry
       else same s u e)
   ∧ Does .forkR 0x090 (fun t s u => frame s u ∧ ∀ e, e ≠ s.cur.strm →
       if s.cur.strm = .cc ∧ [StreamId.cl, .cs, .vx, .mx, .cx][t.mod.toNat % 8]? = some e ∧ s.opa t ≠ 0
           ∧ (s.curCore.strm e).started = false then started s u e (s.opa t)
       else same s u e))

/-- The rings: CL produces ring 0 and CC ring 1; CC consumes ring 0 and CS ring 1. A push that finds a place enters opa, a pop or peek of a ring
that held an entry when the cycle began answers the oldest one, a word that must wait leaves its stream blocked, and a word in another
context pushes nothing and reads zero (R37, R136). `fpush` appends opa to the format words of this cycle; into a full queue it holds every
word of its core's cycle (R58, R137). A word that waits though its queue is not at its depth waits for the pool, which the core notes
(R331). Completes: RPUSH, RPOP, RPEEK, FPUSH. -/
def Obligations.RingAndFormatWords : Prop :=
  (let one := fun (t : Tpl) => t.mod.getLsbD 0
   let ring := fun (t : Tpl) (s : State) => if one t then s.curCore.ring1 else s.curCore.ring0
   let put := fun (t : Tpl) (r : Ring) (s : State) => s.updCur fun k => if one t then { k with ring1 := r } else { k with ring0 := r }
   let produces := fun (t : Tpl) (s : State) => s.cur.strm = if one t then StreamId.cc else StreamId.cl
   let consumes := fun (t : Tpl) (s : State) => s.cur.strm = if one t then StreamId.cs else StreamId.cc
   let room := fun (t : Tpl) (s : State) =>
     s.curCore.roomFor (if one t then 4 else 3) ((ring t s).start + (ring t s).pushes) = true
   let held := fun (t : Tpl) (s : State) => (ring t s).pops < (ring t s).start
   let noted := fun (t : Tpl) (s : State) => s.updCur fun k =>
     { k with poolHeld := k.poolHeld || decide ((ring t s).start + (ring t s).pushes < k.theJob.depth (if one t then 4 else 3)) }
   let waits := fun (i : Instr) (s : State) => exec i s = .next (s.updCurStrm fun st => { st with blocked := true })
   DoesWhen .rpush 0x038 (fun t s => produces t s ∧ room t s) (fun t s u =>
     Leaves s (put t { ring t s with q := (ring t s).q ++ [s.opa t], pushes := (ring t s).pushes + 1 } s) u [])
   ∧ DoesWhen .rpush 0x038 (fun t s => ¬ produces t s) (fun _ s u => Leaves s s u [])
   ∧ DoesWhen .rpop 0x039 (fun t s => consumes t s ∧ held t s) (fun t s u =>
     Leaves s (put t { ring t s with q := (ring t s).q.drop 1, pops := (ring t s).pops + 1 } s) u
       (s.sends t.dst 1 (.word ((ring t s).q.headD 0))))
   ∧ DoesWhen .rpeek 0x03A (fun t s => consumes t s ∧ held t s) (fun t s u => SendsWord 1 ((ring t s).q.headD 0) t s u)
   ∧ (∀ p ∈ [(Instr.rpop, 0x039), (Instr.rpeek, 0x03A)], DoesWhen p.1 p.2 (fun t s => ¬ consumes t s) fun t s u => SendsWord 1 0 t s u)
   ∧ (∀ t s, s.guard0 t = true → produces t s → ¬ room t s →
     exec (.rpush t) s = .next ((noted t s).updCurStrm fun st => { st with blocked := true }))
   ∧ ∀ i ∈ [Instr.rpop, Instr.rpeek], ∀ t s, s.guard0 t = true → consumes t s → ¬ held t s → waits (i t) s)
  ∧
  (let room := fun (s : State) => s.curCore.roomFor 2 (s.curCore.fmtq.length + s.curCore.fmtqNew.length) = true
   DoesWhen .fpush 0x03C (fun _ s => room s) (fun t s u =>
     Leaves s (s.updCur fun k => { k with fmtqNew := k.fmtqNew ++ [s.opa t] }) u [])
   ∧ ∀ t s, s.guard0 t = true → ¬ room s → exec (.fpush t) s = .next ((s.updCur fun k =>
     { k with poolHeld := k.poolHeld || decide (k.fmtq.length + k.fmtqNew.length < k.theJob.depth 2) }).updCur fun k => { k with holdReq := true }))

/-! ## Branches -/

/-- When each branch is taken, where it goes and what it writes: `call` its link, after its two delay slots, and `loop` the count (R128, R129,
R130; the link of a two-word form is log entry 10). Completes: BR, JMP, CALL, RET, JR, LOOP. -/
def Obligations.BranchResults : Prop :=
  let label := fun (t : Tpl) (s : State) => s.curStrm.pc + simm t * 4
  let holds := fun (cc : Nat) (a b : W64) =>
    [a == b, a != b, a.slt b, b.sle a, a.ult b, b.ule a, a.sle b, b.slt a].getD cc false
  let never := fun (_ : Tpl) => false
  let mayNull := fun (t : Tpl) => t.mod.getLsbD 0
  Branches .br 0x028 mayNull (fun t s => s.guard0 t && holds (t.mod.toNat / 2 % 8) (s.opa t) (s.opb t)) label (fun _ _ => [])
  ∧ Branches .jmp 0x029 mayNull (fun t s => s.guard0 t) label (fun _ _ => [])
  ∧ Branches .call 0x02A never (fun t s => s.guard0 t) label (fun t s =>
      if s.guard0 t then
        [{ strm := s.cur.strm, ord := s.curCore.issueOrd, dst := .lnk s.cur.strm, due := s.curCore.now
           val := .word (s.curStrm.pc + BitVec.ofNat 64 (4 * s.cur.words + 8)) }]
      else [])
  ∧ Branches .ret 0x02B never (fun t s => s.guard0 t) (fun _ s => s.curStrm.lnk) (fun _ _ => [])
  ∧ Branches .jr 0x02C never (fun t s => s.guard0 t) (fun t s => s.opa t + simm t) (fun _ _ => [])
  ∧ Branches .loop 0x02D mayNull (fun t s => s.guard0 t && s.opa t - 1 != 0) label (fun t s =>
      if s.guard0 t then s.sends t.dst 1 (.word (s.opa t - 1)) else [])

/-- Delay slots and base rotation, seen at a `nop` in a stream with nothing reinstated and no repeat open: the next address is the word
after it, or the target of the taken branch whose second slot it is; the entry of a branch whose first slot it is waits one word more;
the second word after a `loop`, taken or not, steps both bases down (R53, R60, R130). -/
def Obligations.DelaySlots : Prop :=
  (∀ t s, s.admits s.cur.core (energyClass 0x02D t) = true → s.curStrm.rot = [] →
    ∃ u, exec (.loop t) s = .next u ∧ ((u.core s.cur.core).strm s.cur.strm).rot = [2])
  ∧ ∀ t s, s.curStrm.resume = [] → s.curStrm.reps = [] → ∃ u, exec (.nop t) s = .next u ∧
    let st := s.curStrm
    let st' := (u.core s.cur.core).strm s.cur.strm
    let next := st.pc + BitVec.ofNat 64 (4 * s.cur.words)
    (st.redirects = [] → st'.pc = next ∧ st'.redirects = [])
    ∧ (∀ a, st.redirects = [(2, a)] → st'.pc = next ∧ st'.redirects = [(1, a)])
    ∧ (∀ a, st.redirects = [(1, a)] → st'.pc = a ∧ st'.redirects = [])
    ∧ (∀ a b, st.redirects = [(1, a), (2, b)] → st'.pc = a ∧ st'.redirects = [(1, b)])
    ∧ (st.rot = [] → st'.rot = [] ∧ st'.rvb = st.rvb ∧ st'.rpb = st.rpb)
    ∧ (st.rot = [2] → st'.rot = [1] ∧ st'.rvb = st.rvb ∧ st'.rpb = st.rpb)
    ∧ (st.rot = [1] → st'.rot = [] ∧ st'.rvb = st.rvb - 1 ∧ st'.rpb = st.rpb - 1)

/-! ## Vector words -/

/-- Element-wise arithmetic: exact values of the elements rounded once, or exact integers wrapped or clamped; minima, maxima, sign changes
(R148, R149, R151). Completes: VADD, VSUB, VMUL, VFMA, VFMS, VFNMA, VMIN, VMAX, VABS, VNEG. -/
def Obligations.VectorArithmetic : Prop :=
  let word := fun (i : Tpl → Instr) (o lat : Nat) (g : Fmt → Bool → Machine.Num → Machine.Num → Machine.Num → Machine.Num) (h : Int → Int → Int → Int) =>
    DoesWhen i o (fun t _ => vtypeOf o t ≠ 7) fun t s u =>
      let ty := vtypeOf o t
      let w := vwidth ty
      let at' := fun (c : BitVec 8) (e : Nat) => elem (s.vreg c) w e
      LanesSent lat w (rndOf o t == .sr) (fun e d =>
        match vfloat? ty with
        | some f => (roundTo (g f (rndOf o t == .rdn) (decodeFmt f (at' t.sa e) true) (decodeFmt f (at' t.sb e) true)
            (decodeFmt f (at' t.sc e) true)) f (rndOf o t) (satOf o t) true d).code
        | none => vintOut ty (satOf o t) (h (vint ty (at' t.sa e)) (vint ty (at' t.sb e)) (vint ty (at' t.sc e)))) t s u
  let choose := fun (i : Tpl → Instr) (o : Nat) (fl : Fmt → Nat → Nat → Nat) (h : Int → Int → Int) =>
    Does i o fun t s u =>
      let ty := vtypeOf o t
      let w := vwidth ty
      LanesSent 4 w false (fun e _ =>
        match vfloat? ty with
        | some f => fl f (elem (s.vreg t.sa) w e) (elem (s.vreg t.sb) w e)
        | none => vintOut ty (satOf o t) (h (vint ty (elem (s.vreg t.sa) w e)) (vint ty (elem (s.vreg t.sb) w e)))) t s u
  word .vadd 0x100 4 (fun _ dn a b _ => a.add dn b) (fun a b _ => a + b)
  ∧ word .vsub 0x101 4 (fun _ dn a b _ => a.add dn b.negate) (fun a b _ => a - b)
  ∧ word .vmul 0x102 6 (fun _ _ a b _ => a.mul b) (fun a b _ => a * b)
  ∧ word .vfma 0x103 6 (fun _ dn a b c => (a.mul b).add dn c) (fun a b c => a * b + c)
  ∧ word .vfms 0x104 6 (fun _ dn a b c => (a.mul b).add dn c.negate) (fun a b c => a * b - c)
  ∧ word .vfnma 0x105 6 (fun _ dn a b c => (a.mul b).negate.add dn c) (fun a b c => c - a * b)
  ∧ choose .vmin 0x106 (fun f a b => fminmax f false a b) min
  ∧ choose .vmax 0x107 (fun f a b => fminmax f true a b) max
  ∧ choose .vabs 0x108 (fun f a _ => if (decodeFmt f a true).isNaN then f.nanCode else a % 2 ^ (f.width - 1)) (fun a _ => a.natAbs)
  ∧ choose .vneg 0x109 (fun f a _ => if (decodeFmt f a true).isNaN then f.nanCode else a ^^^ 2 ^ (f.width - 1)) (fun a _ => -a)

/-- The correctly rounded functions: the exact value, where its enclosure decides it, rounded once; a value that no enclosure decides is a free
value (log entry 7); and what the exact value is at the zeros, the infinities, a negative number and NaN (R152). Completes: VRCP, VRSQRT,
VSQRT, VDIV, VEXP2, VLOG2, VTANH. -/
def Obligations.VectorFunctions : Prop :=
  let zero := fun (n : Bool) => Num.fin n 0 0 false
  let one := fun (n : Bool) => Num.fin n 1 0 false
  let word := fun (i : Tpl → Instr) (o lat : Nat) (g : Machine.Num → Machine.Num → Option Machine.Num) =>
    Does i o fun t s u =>
      let f := (vfloat? (vtypeOf o t)).getD .fp32
      let w := vwidth (vtypeOf o t)
      LanesSent lat w false (fun e _ =>
        match g (decodeFmt f (elem (s.vreg t.sa) w e) true) (decodeFmt f (elem (s.vreg t.sb) w e) true) with
        | some x => (roundTo x f (rndOf o t) (satOf o t) true 0).code
        | none => Config.undecided (undecidedKey o f (rndOf o t) (satOf o t) (elem (s.vreg t.sa) w e))) t s u
  word .vrcp 0x10A 12 (fun x _ => some ((Num.fin false 1 0 false).div x))
  ∧ word .vrsqrt 0x10B 12 (fun x _ => transNum 0x10B x x)
  ∧ word .vsqrt 0x10C 12 (fun x _ => transNum 0x10C x x)
  ∧ word .vdiv 0x10D 18 (fun x y => some (x.div y))
  ∧ word .vexp2 0x10E 12 (fun x _ => exp2Num x)
  ∧ word .vlog2 0x10F 12 (fun x _ => log2Num x)
  ∧ word .vtanh 0x110 12 (fun x _ => tanhNum x)
  ∧ (∀ n, (one false).div (zero n) = .inf n) ∧ (∀ n, ((one false).div (.inf n)).isZero = true ∧ ((one false).div (.inf n)).neg? = n)
  ∧ (∀ n, transNum 0x10B (zero n) .nan = some (.inf n)) ∧ transNum 0x10B (.inf true) .nan = some .nan
  ∧ (∀ m e st, m ≠ 0 → transNum 0x10B (.fin true m e st) .nan = some .nan ∧ transNum 0x10C (.fin true m e st) .nan = some .nan)
  ∧ (∀ n, ((transNum 0x10C (zero n) .nan).map fun x => (x.isZero, x.neg?)) = some (true, n))
  ∧ transNum 0x10C (.inf false) .nan = some (.inf false) ∧ transNum 0x10C (.inf true) .nan = some .nan
  ∧ exp2Num (.inf false) = some (.inf false) ∧ ((exp2Num (.inf true)).map fun x => (x.isZero, x.neg?)) = some (true, false)
  ∧ (∀ n, log2Num (zero n) = some (.inf true)) ∧ log2Num (.inf false) = some (.inf false) ∧ log2Num (.inf true) = some .nan
  ∧ (∀ m e st, m ≠ 0 → log2Num (.fin true m e st) = some .nan)
  ∧ ∀ o ∈ [0x10A, 0x10B, 0x10C, 0x10D, 0x10E, 0x10F, 0x110], transNum o .nan .nan = some .nan

/-- The scalar forms of the vector words (type `.s`) act on VX's scalar file with latency 4, as bit 0 of the guard decides (R157). Completes:
VADD, VSUB, VAND, VOR, VXOR, VSHL, VSHR, VSRA. -/
def Obligations.VectorScalarForms : Prop :=
  let word := fun (i : Tpl → Instr) (o : Nat) (f : Tpl → State → W64) =>
    DoesWhen i o (fun t _ => vtypeOf o t = 7) fun t s u => if s.guard0 t then SendsWord 4 (f t s) t s u else Leaves s s u []
  let count := fun (t : Tpl) (s : State) => if t.mod.getLsbD 3 then t.imm.toNat % 64 else (s.opb t).toNat % 64
  word .vadd 0x100 (fun t s =>
    if t.sat then clamp64 ((s.opa t).toInt + (s.opb t).toInt + (simm t).toInt) else s.opa t + s.opb t + simm t)
  ∧ word .vsub 0x101 (fun t s =>
    if t.sat then clamp64 ((s.opa t).toInt - (s.opb t).toInt + (simm t).toInt) else s.opa t - s.opb t + simm t)
  ∧ word .vand 0x118 (fun t s => s.opa t &&& s.opb t)
  ∧ word .vor 0x119 (fun t s => s.opa t ||| s.opb t)
  ∧ word .vxor 0x11A (fun t s => s.opa t ^^^ s.opb t)
  ∧ word .vshl 0x11C (fun t s => s.opa t <<< count t s)
  ∧ word .vshr 0x11D (fun t s => s.opa t >>> count t s)
  ∧ word .vsra 0x11E (fun t s => (s.opa t).sshiftRight (count t s))

/-- Bitwise logic, shifts and counts of bits on every element (R154). Completes: VAND, VOR, VXOR, VSHL, VSHR, VSRA, VNOT, VCLZ, VPOPC. -/
def Obligations.VectorLogic : Prop :=
  let bits := fun (i : Tpl → Instr) (o : Nat) (g : W32 → W32 → W32) =>
    DoesWhen i o (fun t _ => vtypeOf o t ≠ 7) fun t s u =>
      LanesSent 4 32 false (fun e _ => (g (BitVec.ofNat 32 (elem (s.vreg t.sa) 32 e)) (BitVec.ofNat 32 (elem (s.vreg t.sb) 32 e))).toNat) t s u
  let shift := fun (i : Tpl → Instr) (o : Nat) (g : (w : Nat) → BitVec w → Nat → BitVec w) =>
    DoesWhen i o (fun t _ => vtypeOf o t ≠ 7) fun t s u =>
      let w := vwidth (vtypeOf o t)
      LanesSent 4 w false (fun e _ =>
        (g w (BitVec.ofNat w (elem (s.vreg t.sa) w e))
          ((if t.mod.getLsbD 3 then t.imm.toNat else elem (s.vreg t.sb) w e) % w)).toNat) t s u
  let count := fun (i : Tpl → Instr) (o : Nat) (g : (w : Nat) → BitVec w → BitVec w) =>
    Does i o fun t s u =>
      let w := vwidth (vtypeOf o t)
      LanesSent 4 w false (fun e _ => (g w (BitVec.ofNat w (elem (s.vreg t.sa) w e))).toNat) t s u
  bits .vand 0x118 (fun a b => a &&& b) ∧ bits .vor 0x119 (fun a b => a ||| b) ∧ bits .vxor 0x11A (fun a b => a ^^^ b)
  ∧ Does .vnot 0x11B (fun t s u =>
      LanesSent 4 32 false (fun e _ => (~~~ BitVec.ofNat 32 (elem (s.vreg t.sa) 32 e)).toNat) t s u)
  ∧ shift .vshl 0x11C (fun _ a n => a <<< n) ∧ shift .vshr 0x11D (fun _ a n => a >>> n)
  ∧ shift .vsra 0x11E (fun _ a n => a.sshiftRight n)
  ∧ count .vclz 0x11F (fun _ a => a.clz) ∧ count .vpopc 0x120 (fun _ a => a.cpop)

/-- Permutes and moves of 32-bit lanes (R166). Completes: VSEL, VPERM, VBCAST, VSPLAT, VMOV, VMOVS, VINS, VSRND, VSRND_RD. -/
def Obligations.VectorMoves : Prop :=
  let word := fun (i : Tpl → Instr) (o lat : Nat) (f : Tpl → State → Nat → Nat) =>
    Does i o fun t s u => LanesSent lat 32 false (fun e _ => f t s e) t s u
  let at' := fun (s : State) (c : BitVec 8) (e : Nat) => elem (s.vreg c) 32 e
  word .vperm 0x18A 8 (fun t s e =>
    let k := at' s t.sb e
    if k < 64 then at' s t.sa k else if k < 128 then at' s t.sc (k - 64) else 0)
  ∧ word .vbcast 0x18B 4 (fun t s e =>
    at' s t.sa (if t.mod.getLsbD 0 then 16 * (e / 16) + t.imm.toNat % 16 else t.imm.toNat % 64))
  ∧ word .vsplat 0x18C 4 (fun t s _ => if t.mod.getLsbD 0 then t.imm.toNat else (s.opa t).toNat % 2 ^ 32)
  ∧ word .vmov 0x18D 4 (fun t s e => at' s t.sa e)
  ∧ word .vsel 0x122 4 (fun t s e => if (s.preg t.sc).getLsbD e then at' s t.sa e else at' s t.sb e)
  ∧ word .vsrndRd 0x197 4 (fun _ s e => (sget 0 s.curCore.sr e).toNat)
  ∧ Does .vmovs 0x18E (fun t s u =>
      let x := BitVec.ofNat 32 (at' s t.sa (t.imm.toNat % 64))
      if s.guard0 t then SendsWord 8 (if t.mod.getLsbD 0 then x.signExtend 64 else x.setWidth 64) t s u else Leaves s s u [])
  ∧ Does .vins 0x18F (fun t s u => ∃ v : Vec, Leaves s s u (s.sends t.dst 8 (.vector v))
      ∧ ∀ e, e < 64 → elem v 32 e =
          if e = t.imm.toNat % 64 ∧ (s.guard t).getLsbD e = true then (s.opa t).toNat % 2 ^ 32 else at' s t.dst e)
  ∧ Does .vsrnd 0x197 (fun t s u => ∃ seeds : Sparse W32, Leaves s (s.updCur fun k => { k with srSeed := seeds }) u []
      ∧ ∀ i, i < 64 → sfind seeds i =
          if (s.guard t).getLsbD i then some (BitVec.ofNat 32 (at' s t.sa i)) else sfind s.curCore.srSeed i)

/-- Compares and the words on predicates write only the bits whose guard is true; `pcnt` writes a whole scalar (R155, R156). Completes: VCMP,
PAND, POR, PXOR, PNOT, PCNT, PFIRST, PSET. -/
def Obligations.PredicateWords : Prop :=
  let word := fun (i : Tpl → Instr) (o lat : Nat) (f : Tpl → State → W64) => Does i o fun t s u => PredSent lat (f t s) t s u
  word .vcmp 0x121 4 (fun t s =>
    let ty := vtypeOf 0x121 t
    let w := vwidth ty
    ofBits 64 fun i => (List.range (32 / w)).all fun j =>
      vcond (t.mod.toNat / 8 % 8) ty (elem (s.vreg t.sa) w (i * (32 / w) + j)) (elem (s.vreg t.sb) w (i * (32 / w) + j)))
  ∧ word .pand 0x128 2 (fun t s => s.preg t.sa &&& s.preg t.sb)
  ∧ word .por 0x129 2 (fun t s => s.preg t.sa ||| s.preg t.sb)
  ∧ word .pxor 0x12A 2 (fun t s => s.preg t.sa ^^^ s.preg t.sb)
  ∧ word .pnot 0x12B 2 (fun t s => ~~~ s.preg t.sa)
  ∧ word .pfirst 0x12D 2 (fun t s => if s.preg t.sa = 0 then 0 else 1#64 <<< (s.preg t.sa).ctz.toNat)
  ∧ word .pset 0x12E 2 (fun t s =>
    [ofBits 64 fun i => decide (i < t.imm.toNat), s.opa t, ofBits 64 fun i => t.imm.getLsbD (i / 16),
      ofBits 64 fun i => t.imm.toNat % 128 != 0 && i % (t.imm.toNat % 128) == 0].getD (t.mod.toNat % 4) 0)
  ∧ Results .pcnt 0x12C 2 (fun t s => (s.preg t.sa &&& s.guard t).cpop)

/-- `vcvt` converts the 64 elements of one part to the destination's format in one part; formats that R115 does not give, or a reserved bit of
IMM, are the format-invalid fault (R153). Completes: VCVT. -/
def Obligations.VectorConvert : Prop :=
  let good := fun (c : Nat) => c ≤ 6 ∨ (8 ≤ c ∧ c ≤ 14) ∨ (16 ≤ c ∧ c ≤ 23)
  let valid := fun (t : Tpl) => good (t.imm.toNat % 32) ∧ good (t.imm.toNat / 2 ^ 8 % 32) ∧ t.imm.toNat / 2 ^ 5 % 8 = 0 ∧ t.imm.toNat / 2 ^ 15 = 0
  DoesWhen .vcvt 0x111 (fun t _ => valid t) (fun t s u =>
    let fs := (Fmt.ofCode? (t.imm.toNat % 32)).getD .fp32
    let fd := (Fmt.ofCode? (t.imm.toNat / 2 ^ 8 % 32)).getD .fp32
    let part := t.mod.toNat % 8 % (32 / fs.width)
    ∃ v : Vec, Gains s u (s.sends t.dst 6 (.vector v)) ∧ WordFrame s u
      ∧ PartIs fd.width (t.mod.toNat / 8 % 8) (rndOf 0x111 t == .sr) (fun j d =>
          (roundTo (decodeFmt fs (elem (s.vreg t.sa) fs.width (64 * part + j)) (t.imm.getLsbD 13)) fd (rndOf 0x111 t) (satOf 0x111 t)
            (t.imm.getLsbD 14) d).code) t s u v)
  ∧ ∀ t s, s.acts 0x111 t → ¬ valid t →
      exec (.vcvt t) s = .next (s.faultCur { code := .formatInvalid, det1 := t.imm.setWidth 64 })

/-- `vquant` and `vdequant` under a valid format word: elements over, or times, their block's scale, rounded once; `vquant` also sends the scale
codes, the lanes of blocks with an event to FMASK and their number to the conversion counters, all after eight cycles. A format word that
fails the checks is the format-invalid fault (R111, R159, R160). Completes: VQUANT, VDEQUANT. -/
def Obligations.VectorQuantise : Prop :=
  let invalid := fun (w : W64) =>
    let a := w.toNat / 2 ^ 59
    let wide := a = 17 ∨ a = 18 ∨ 20 ≤ a
    ¬ (a ≤ 6 ∨ (8 ≤ a ∧ a ≤ 14) ∨ (16 ≤ a ∧ a ≤ 18) ∨ a = 20 ∨ a = 21) ∨ (w.toNat / 2 ^ 52 % 4 ≠ 0 ∧ wide)
      ∨ w.toNat / 2 ^ 47 % 4 = 3 ∨ (w.toNat / 2 ^ 47 % 4 ≠ 0 ∧ 20 ≤ a) ∨ w.toNat % 2 ^ 21 ≠ 0
  let fmt := fun (w : W64) => (Fmt.ofCode? (w.toNat / 2 ^ 59)).getD .bf16
  let blk := fun (w : W64) => [64, 8, 16, 32].getD (w.toNat / 2 ^ 52 % 4) 0
  DoesWhen .vquant 0x180 (fun t s => ¬ invalid (s.opb t)) (fun t s u =>
    let w := s.opb t
    let none' := w.toNat / 2 ^ 52 % 4 = 0
    let xs := if w.toNat / 2 ^ 47 % 4 = 1 then hadamard64 (if w.getLsbD 46 then 32 else 16) (lanesFp32 (s.vreg t.sa))
      else lanesFp32 (s.vreg t.sa)
    let scales := (List.range (64 / blk w)).map fun b =>
      blockScale ((xs.drop (b * blk w)).take (blk w)) (fmt w) (w.getLsbD 45) (w.getLsbD 51)
    let scale := fun (j : Nat) => scales.getD (j / blk w) ⟨0, .fin false 1 0 false, false, false⟩
    let events := (scales.filter fun b => b.event).length
    let late := fun (d : Dst) (v : Val) =>
      ({ strm := .vx, ord := s.curCore.issueOrd, dst := d, due := s.curCore.now + 8 - 1, val := v } : Pend)
    ∃ (v : Vec) (sc fm : W64), WordFrame s u
      ∧ Gains s u (s.sends t.dst 8 (.vector v) ++ s.sends t.sc 8 (.word sc)
          ++ (if fm = 0 then [] else [late .fmask (.orBits fm)])
          ++ if none' ∨ events = 0 then [] else [late (.count 9 2) (.word (BitVec.ofNat 64 events))])
      ∧ PartIs (fmt w).width (t.mod.toNat % 8) (rndOf 0x180 t == .sr) (fun j d =>
          if ¬ none' ∧ (scale j).bad = true then zeroCode (fmt w) false
          else
            (roundTo ((xs.getD j .nan).div (if none' then .fin false 1 0 false else (scale j).value)) (fmt w) (rndOf 0x180 t)
              (satOf 0x180 t) (w.getLsbD 45) d).code) t s u v
      ∧ (∀ b, b < 8 → elem sc 8 b = if ¬ none' ∧ b < 64 / blk w then (scale (b * blk w)).code % 256 else 0)
      ∧ ∀ j, j < 64 → fm.getLsbD j = (!decide none' && (scale j).event))
  ∧ DoesWhen .vdequant 0x181 (fun t s => ¬ invalid (s.opb t)) (fun t s u =>
    let w := s.opb t
    let part := t.mod.toNat % 8 % (32 / (fmt w).width)
    LanesSent 6 32 (rndOf 0x181 t == .sr) (fun j d =>
      (roundTo ((decodeFmt (fmt w) (elem (s.vreg t.sa) (fmt w).width (64 * part + j)) (w.getLsbD 45)).mul
          (if w.toNat / 2 ^ 52 % 4 = 0 then .fin false 1 0 false else decodeScale (w.getLsbD 51) (elem (s.opc t) 8 (j / blk w))))
        .fp32 (rndOf 0x181 t) (satOf 0x181 t) true d).code) t s u)
  ∧ ∀ p ∈ [(Instr.vquant, 0x180), (Instr.vdequant, 0x181)], ∀ t s, s.acts p.2 t → invalid (s.opb t) →
      exec (p.1 t) s = .next (s.faultCur { code := .formatInvalid, det1 := s.opb t })

/-- `vhad`, `vsmooth` and `vamax` on the FP32 lanes (R112, R113, R161, R162). Completes: VHAD, VSMOOTH, VAMAX. -/
def Obligations.VectorBlocks : Prop :=
  let xs := fun (s : State) (c : BitVec 8) => (List.range 64).map fun i => fp32Val (elem (s.vreg c) 32 i)
  Does .vhad 0x182 (fun t s u =>
    let n := if t.mod.getLsbD 0 then 32 else 16
    LanesSent 8 32 false (fun j _ =>
      fp32Code ((hadamardBlock (((xs s t.sa).drop (j / n * n)).take n)).getD (j % n) .nan)) t s u)
  ∧ Does .vsmooth 0x183 (fun t s u =>
    LanesSent 6 32 (rndOf 0x183 t == .sr) (fun j d =>
      let x := (xs s t.sa).getD j .nan
      let k := (xs s t.sb).getD j .nan
      (roundTo (if smoothOk k then x.mul (if t.mod.getLsbD 0 then k else fp32 ((Num.fin false 1 0 false).div k)) else .nan)
        .fp32 (rndOf 0x183 t) (satOf 0x183 t) true d).code) t s u)
  ∧ Does .vamax 0x184 (fun t s u =>
    let n := 8 * 2 ^ (t.mod.toNat % 4)
    LanesSent 10 32 false (fun j _ =>
      let b := ((xs s t.sa).drop (j / n * n)).take n
      fp32Code (if b.any Num.isNaN then .nan else if b.any Num.isInf then .inf false else amaxOf b)) t s u)

/-- Reductions and scans of each segment: the pairwise tree's result in its first element and zero elsewhere, or the running prefix in every
element; a lane whose guard is false counts as the identity (R163, R164, R165). Completes: VRED, VSCAN. -/
def Obligations.VectorReductions : Prop :=
  let ty := vtypeOf
  let op := fun (t : Tpl) => if t.mod.toNat / 8 % 8 < 6 then t.mod.toNat / 8 % 8 else 0
  let seg := fun (o : Nat) (t : Tpl) => 2048 / vwidth (ty o t) / if t.imm.getLsbD 1 then 4 else 1
  let items := fun (o : Nat) (t : Tpl) (s : State) (e : Nat) =>
    ((redElems (op t) (ty o t) (t.imm.getLsbD 0) (s.guard t) (s.vreg t.sa)).drop (e / seg o t * seg o t)).take (seg o t)
  let join := fun (o : Nat) (t : Tpl) => redCombine (op t) (ty o t) (rndOf o t) (satOf o t)
  let fin := fun (o : Nat) (t : Tpl) (x : RedVal) => redFinish (ty o t) (rndOf o t) (satOf o t) x % 2 ^ vwidth (ty o t)
  Does .vred 0x188 (fun t s u => ∃ v : Vec, Leaves s s u (s.sends t.dst 10 (.vector v))
    ∧ ∀ e, e < 2048 / vwidth (ty 0x188 t) → elem v (vwidth (ty 0x188 t)) e =
        if e % seg 0x188 t = 0 then fin 0x188 t ((redTree (join 0x188 t) 8 (items 0x188 t s e)).headD (.code 0)) else 0)
  ∧ Does .vscan 0x189 (fun t s u => ∃ v : Vec, Leaves s s u (s.sends t.dst 12 (.vector v))
    ∧ ∀ e, e < 2048 / vwidth (ty 0x189 t) → elem v (vwidth (ty 0x189 t)) e =
        fin 0x189 t (((items 0x189 t s e).take (e % seg 0x189 t + if t.imm.getLsbD 2 then 0 else 1)).foldl (join 0x189 t)
          (redLift (op t) (ty 0x189 t) (t.imm.getLsbD 0) (redIdentity (op t) (ty 0x189 t)))))

/-- The pairwise tree over 64, 128 or 256 integers is their exact sum, wrapped or clamped once: order plays no part (R164). -/
def Obligations.IntegerReductionExact : Prop :=
  ∀ (ty : Nat) (md : Rnd) (sat : Bool) (n : Nat) (l : List Int), l.length = 2 ^ n → n ≤ 8 →
    redFinish ty md sat ((redTree (redCombine 0 ty md sat) 8 (l.map RedVal.int)).headD (.code 0)) = vintOut ty sat l.sum

/-- Tile slices: `vldslc` merges the bytes of the slice into its part of the vector, `vstslc` sends the bytes of a part to the slice six cycles
on; a whole selector is the illegal-instruction trap (R54, R171). Completes: VLDSLC, VSTSLC. -/
def Obligations.TileSlices : Prop :=
  DoesWhen .vldslc 0x195 (fun t _ => t.slice ≠ 0) (fun t s u =>
    let sl := (sliceOf s t.sa t).1
    let part := t.imm.toNat % (256 / sl.size)
    ∃ v : Vec, Leaves s s u (s.sends t.dst 6 (.vector v)) ∧ ∀ i, i < 256 → elem v 8 i =
      if part * sl.size ≤ i ∧ i < (part + 1) * sl.size ∧ (s.guard t).getLsbD (i / 4) = true then
        s.curCore.sliceByte sl (i - part * sl.size) % 256
      else elem (s.vreg t.dst) 8 i)
  ∧ DoesWhen .vstslc 0x196 (fun t _ => t.slice ≠ 0) (fun t s u =>
    let sl := (sliceOf s t.dst t).1
    let part := t.imm.toNat % (256 / sl.size)
    ∃ l : List (Nat × Byte × Byte),
      Leaves s s u [{ strm := .vx, ord := s.curCore.issueOrd, dst := if sl.accum then .accum sl.reg else .tile sl.reg,
                      due := s.curCore.now + 6 - 1, val := .bytes l }]
      ∧ ∀ w, w ∈ l ↔ ∃ i, i < sl.size ∧ (s.guard t).getLsbD ((part * sl.size + i) / 4) = true
          ∧ w ∈ sl.write i (elem (s.vreg t.sa) 8 (part * sl.size + i)))
  ∧ ∀ i ∈ [Instr.vldslc, Instr.vstslc], ∀ t s, t.slice = 0 → exec (i t) s = .next s.illegal

/-- `nop.rep` in VX, MX and CX: a count or body of zero goes on after the body; otherwise a level opens with the body's first and last word and
the count; a third level, or a body that ends past the one around it, is the illegal-instruction trap (R158). Completes: NOP_REP_VX,
NOP_REP_MX, NOP_REP_CX. -/
def Obligations.RepeatWords : Prop :=
  ∀ i ∈ [Instr.nopRepVx, Instr.nopRepMx, Instr.nopRepCx], ∀ t s,
    (i t = .nopRepMx t → s.curCore.mx.scalarBusy [t.sa.toNat] = false) →
    let n := t.imm.toNat % 65536
    let start := s.curStrm.pc + BitVec.ofNat 64 (4 * s.cur.words)
    let last := start + BitVec.ofNat 64 (4 * (n - 1))
    let level : Rep := { start := start, last := last, left := s.opa t }
    let opens := ∃ u, exec (i t) s = .next u ∧ Leaves s s u []
      ∧ (s.cur.words ≤ 5 → ((u.core s.cur.core).strm s.cur.strm).reps = level :: s.curStrm.reps)
    ((s.opa t = 0 ∨ n = 0) → ∃ u, exec (i t) s = .next u ∧ Leaves s s u []
      ∧ (s.curStrm.resume = [] → s.curStrm.reps = [] →
          ((u.core s.cur.core).strm s.cur.strm).pc = start + BitVec.ofNat 64 (4 * n)))
    ∧ (s.opa t ≠ 0 → n ≠ 0 → s.curStrm.reps = [] → opens)
    ∧ (∀ r, s.opa t ≠ 0 → n ≠ 0 → s.curStrm.reps = [r] →
        if (last - r.start).toNat ≤ (r.last - r.start).toNat then opens else exec (i t) s = .next s.illegal)
    ∧ (∀ r q l, s.opa t ≠ 0 → n ≠ 0 → s.curStrm.reps = r :: q :: l → exec (i t) s = .next s.illegal)

/-! ## Scalar accesses -/

/-- `ld`: its checks, its two outcomes in the scratchpad, its hit in L1, and what it sends for when a line or a translation is not there (R131,
R133, R134, R242, R245, R364). Completes: LD. -/
def Obligations.ScalarLoads : Prop :=
  let size := fun (t : Tpl) => 2 ^ (t.mod.toNat % 4)
  let sp := fun (t : Tpl) => t.mod.getLsbD 3
  let aligned := fun (t : Tpl) (s : State) => (s.ea t).toNat % size t = 0
  let op := fun (t : Tpl) (s : State) => loadOp 0x030 t (sp t) s
  let ctag := fun (s : State) => s.curCore.theJob.ctag
  (∀ t s, s.acts 0x030 t → ¬ aligned t s →
    exec (.ld t) s = .next (s.faultCur { code := .dataAlignment, addr := s.ea t, det1 := BitVec.ofNat 64 (size t) }))
  ∧ (∀ t s, s.acts 0x030 t → aligned t s → sp t = true → s.spTarget s.cur.core (s.ea t).toNat false = none →
    exec (.ld t) s = .next (s.faultCur { code := .scratchpadRange, addr := s.ea t, det1 := BitVec.ofNat 64 (spSize s.curCore.theJob) }))
  ∧ (∀ t s d off, s.acts 0x030 t → aligned t s → sp t = true → s.ready → ordOf 0x030 t = 0 →
    s.spTarget s.cur.core (s.ea t).toNat false = some (d, off) →
    let line := (s.core d).spLine (off / 128)
    if line.full then
      line.poison = 0 → ∃ u, exec (.ld t) s = .next u
        ∧ SendsWord 4 (extended (t.mod.getLsbD 2) (size t) (lineBytesAt line.data off (size t))) t s u
    else ∃ u, exec (.ld t) s = .next u ∧ Leaves s (s.updCur fun k => { k with memq := [{ op t s with stage := 2 }] }) u [])
  ∧ (∀ t s pa e l, s.acts 0x030 t → aligned t s → sp t = false → s.ready → ordOf 0x030 t = 0 →
    s.mem.translate (clusterOf s.cur.core) (ctag s) (s.ea t) permR = .hit pa e → (locOf pa).isSome = true →
    s.curCore.l1Find (lineOf pa) (ctag s) = some l → byteMask pa (size t) &&& l.valid = byteMask pa (size t) → l.poison = 0 →
    ∃ u, exec (.ld t) s = .next u ∧ SendsWord 12 (extended (t.mod.getLsbD 2) (size t) (lineBytesAt l.data pa (size t))) t s u)
  ∧ (∀ t s pa e, s.acts 0x030 t → aligned t s → sp t = false → s.ready → ordOf 0x030 t = 0 →
    s.mem.translate (clusterOf s.cur.core) (ctag s) (s.ea t) permR = .hit pa e → (locOf pa).isSome = true →
    s.curCore.l1Find (lineOf pa) (ctag s) = none → s.mem.reqs = [] →
    ∃ u r, exec (.ld t) s = .next u ∧ AccessFrame s u ∧ Gains s u [] ∧ Frozen s u { op t s with stage := 2 }
      ∧ u.mem.reqs = [r] ∧ r.kind = .fill ∧ r.master = s.cur.core ∧ r.pa = pa ∧ r.line = lineOf pa ∧ r.va = s.ea t)
  ∧ (∀ t s, s.acts 0x030 t → aligned t s → sp t = false → s.ready → ordOf 0x030 t = 0 →
    s.mem.translate (clusterOf s.cur.core) (ctag s) (s.ea t) permR = .miss →
    ∃ u, exec (.ld t) s = .next u ∧ AccessFrame s u ∧ Gains s u [] ∧ Frozen s u { op t s with stage := 2 }
      ∧ ∃ w ∈ u.mem.walks, w.unit = clusterOf s.cur.core ∧ w.ctag = ctag s ∧ w.va = pageOf (s.ea t))

/-- `st`: its checks; in the scratchpad exactly its bytes change, or an empty line is to be filled when the cycle ends; elsewhere its bytes
enter L1, where room is made for the line, or the core's pending version of a peer's line, both where the translation keeps the alignment of
the address; a releasing store holds its stream for its commits (R131, R133, R241, R245, R282, R302). Completes: ST. -/
def Obligations.ScalarStores : Prop :=
  let size := fun (t : Tpl) => 2 ^ (t.mod.toNat % 4)
  let sp := fun (t : Tpl) => t.mod.getLsbD 3
  let aligned := fun (t : Tpl) (s : State) => (s.ea t).toNat % size t = 0
  let data := fun (t : Tpl) (s : State) => (s.opb t).toNat % 256 ^ size t
  let ctag := fun (s : State) => s.curCore.theJob.ctag
  (∀ t s, s.acts 0x031 t → ¬ aligned t s →
    exec (.st t) s = .next (s.faultCur { code := .dataAlignment, addr := s.ea t, det1 := BitVec.ofNat 64 (size t) }))
  ∧ (∀ t s, s.acts 0x031 t → aligned t s → sp t = true → s.spTarget s.cur.core (s.ea t).toNat true = none →
    exec (.st t) s = .next (s.faultCur { code := .scratchpadRange, addr := s.ea t, det1 := BitVec.ofNat 64 (spSize s.curCore.theJob) }))
  ∧ (∀ t s d off, s.acts 0x031 t → aligned t s → sp t = true → s.ready → ordOf 0x031 t = 0 →
    s.spTarget s.cur.core (s.ea t).toNat true = some (d, off) →
    if (s.curCore.spLine (off / 128)).full then
      (s.curCore.spLine (off / 128)).poison = 0 →
      ∃ u, exec (.st t) s = .next u ∧ Leaves s (s.updCur fun k => { k with sp := (u.core s.cur.core).sp }) u []
        ∧ ∀ a, (u.core s.cur.core).spByte a =
            if off ≤ a ∧ a < off + size t then (true, (s.opb t).toNat / 256 ^ (a - off) % 256) else s.curCore.spByte a
    else
      ∃ u, exec (.st t) s = .next u ∧ Leaves s (s.updCur fun k => { k with spEvents := k.spEvents ++
        [{ rank := 0, line := off / 128, fill := some (byteMask off (size t), byteData off (data t s)) }] }) u [])
  ∧ (∀ t s pa e, s.acts 0x031 t → aligned t s → sp t = false → s.ready → ordOf 0x031 t = 0 →
    s.mem.translate (clusterOf s.cur.core) (ctag s) (s.ea t) permW = .hit pa e → (locOf pa).isSome = true →
    ∃ u, exec (.st t) s = .next u
      ∧ Leaves s (s.l1Store s.cur.core pa (s.ea t) (ctag s) (byteMask pa (size t)) (byteData pa (data t s))) u []
      ∧ (pa % size t = 0 → ∃ l, (u.core s.cur.core).l1Find (lineOf pa) (ctag s) = some l
        ∧ l.dirty &&& byteMask pa (size t) = byteMask pa (size t) ∧ lineBytesAt l.data pa (size t) = data t s)
      ∧ (s.curCore.l1.length < 16 → ∀ x, x ∈ (u.core s.cur.core).l1 → x.loc ≠ lineOf pa → x ∈ s.curCore.l1))
  ∧ (∀ t s pa e dev at', s.acts 0x031 t → aligned t s → sp t = false → s.ready → ordOf 0x031 t = 0 → pa % size t = 0 →
    s.mem.translate (clusterOf s.cur.core) (ctag s) (s.ea t) permW = .hit pa e → destOf s.mem pa = .peer dev at' →
    ∃ u, exec (.st t) s = .next u ∧ AccessFrame s u ∧ Gains s u [] ∧ (u.core s.cur.core).memq = []
      ∧ ∃ v ∈ u.mem.vers, v.owner = .pending s.cur.core s.curCore.phase.toNat ∧ v.line = lineOf pa
        ∧ v.mask &&& byteMask pa (size t) = byteMask pa (size t)
        ∧ lineBytesAt v.data pa (size t) = data t s)
  ∧ (∀ t s, s.acts 0x031 t → aligned t s → s.ready → (ordOf 0x031 t).testBit 1 = true →
    ∃ u reqs lines, exec (.st t) s = .next u ∧ AccessFrame s u ∧ Gains s u [] ∧ (u.core s.cur.core).memq = []
      ∧ ((u.core s.cur.core).strm s.cur.strm).hold =
          some { storeOp 0x031 t false (some (scopeOf 0x031 t)) s with stage := 1, reqs := reqs, lines := lines })

/-- `pf` sends for the line of its address and waits for nothing; an address without a translation starts a walk that no stream waits for, and
what lacks the permission or lies outside DRAM is dropped. `ld.acq` reads at the home and not in L1: it freezes its core with a read of the
line, and its acquire is still to come (R135, R301). Completes: PF, LD_ACQ. -/
def Obligations.PrefetchAndAcquireLoad : Prop :=
  let ctag := fun (s : State) => s.curCore.theJob.ctag
  let tr := fun (t : Tpl) (s : State) => s.mem.translate (clusterOf s.cur.core) (ctag s) (s.ea t) permR
  let size := fun (t : Tpl) => 2 ^ (t.mod.toNat % 4)
  Does .pf 0x032 (fun t s u => AccessFrame s u ∧ Gains s u [] ∧ (u.core s.cur.core).memq = s.curCore.memq ∧ u.mem.vers = s.mem.vers
    ∧ match tr t s with
      | .hit pa _ =>
        if (locOf pa).isSome then
          ∃ r, u.mem.reqs = s.mem.reqs ++ [r] ∧ r.kind = .prefetch (t.mod.getLsbD 0) ∧ r.line = lineOf pa ∧ r.master = s.cur.core
        else u.mem = s.mem
      | .lacks _ => u.mem = s.mem
      | .miss => u.mem.reqs = s.mem.reqs ∧ ∃ w ∈ u.mem.walks, w.unit = clusterOf s.cur.core ∧ w.ctag = ctag s ∧ w.va = pageOf (s.ea t))
  ∧ (∀ t s, s.acts 0x095 t → (s.ea t).toNat % size t ≠ 0 →
    exec (.ldAcq t) s = .next (s.faultCur { code := .dataAlignment, addr := s.ea t, det1 := BitVec.ofNat 64 (size t) }))
  ∧ ∀ t s pa e, s.acts 0x095 t → (s.ea t).toNat % size t = 0 → s.ready → s.mem.reqs = [] →
    s.mem.translate (clusterOf s.cur.core) (ctag s) (s.ea t) permR = .hit pa e → (locOf pa).isSome = true →
    ∃ u r q, exec (.ldAcq t) s = .next u ∧ AccessFrame s u ∧ Gains s u [] ∧ Frozen s u q ∧ q.acq = some (scopeOf 0x095 t)
      ∧ q.kind = .load (t.mod.getLsbD 2) ∧ q.dst = bindDst s.curStrm s.cur.strm t.dst.toNat ∧ q.due = s.curCore.now + 12 - 1
      ∧ u.mem.reqs = [r] ∧ r.kind = .read ∧ r.pa = pa ∧ r.line = lineOf pa ∧ r.master = s.cur.core

/-- `amo`, `amof` and `cas` without an order, on a DRAM address that the core may read, write and perform atomics on: the operation leaves for
its home, an `amo` waits for nothing, and an `amof` or `cas` freezes its core for the answer; a misaligned address faults, and one without a
translation waits for its walk (R292, R303, R304). Completes: AMO, AMOF, CAS. -/
def Obligations.AtomicWords : Prop :=
  let ctag := fun (s : State) => s.curCore.theJob.ctag
  let code := fun (t : Tpl) => if t.mod.toNat % 16 ≤ 9 then t.mod.toNat % 16 else 0
  let amoBytes := fun (t : Tpl) => if t.mod.getLsbD 4 && code t != 9 then 8 else 4
  let casBytes := fun (t : Tpl) => if t.mod.getLsbD 4 then 8 else 4
  let word := fun (i : Tpl → Instr) (o : Nat) (size : Tpl → Nat) (op : Tpl → State → AtomOp) (waits : Bool) =>
    (∀ t s, s.acts o t → (s.ea t).toNat % size t ≠ 0 →
      exec (i t) s = .next (s.faultCur { code := .dataAlignment, addr := s.ea t, det1 := BitVec.ofNat 64 (size t) }))
    ∧ (∀ t s pa e, s.acts o t → (s.ea t).toNat % size t = 0 → s.ready → ordOf o t = 0 →
      s.mem.translate (clusterOf s.cur.core) (ctag s) (s.ea t) (permR + permW + permA) = .hit pa e → (locOf pa).isSome = true →
      ∃ u r, exec (i t) s = .next u ∧ AccessFrame s u ∧ Gains s u []
        ∧ r ∈ u.mem.reqs ∧ r.kind = .atomic (op t s) ∧ r.pa = pa ∧ r.va = s.ea t ∧ r.master = s.cur.core ∧ r.ctag = ctag s
        ∧ (∀ l ∈ (u.core s.cur.core).l1, l.loc ≠ lineOf pa)
        ∧ if waits then ∃ q, Frozen s u q ∧ q.reqs = [r.id] ∧ q.stage = 3
            ∧ q.dst = bindDst s.curStrm s.cur.strm t.dst.toNat ∧ q.due = s.curCore.now + 12 - 1
          else (u.core s.cur.core).memq = [])
    ∧ ∀ t s, s.acts o t → (s.ea t).toNat % size t = 0 → s.ready → ordOf o t = 0 →
      s.mem.translate (clusterOf s.cur.core) (ctag s) (s.ea t) (permR + permW + permA) = .miss →
      ∃ u q, exec (i t) s = .next u ∧ AccessFrame s u ∧ Gains s u [] ∧ Frozen s u q ∧ q.stage = 2
        ∧ ∃ w ∈ u.mem.walks, w.unit = clusterOf s.cur.core ∧ w.ctag = ctag s ∧ w.va = pageOf (s.ea t)
  word .amo 0x097 amoBytes (fun t s => .amo (code t) (rndOf 0x097 t) (s.opb t) (amoBytes t)) false
  ∧ word .amof 0x098 amoBytes (fun t s => .amo (code t) (rndOf 0x098 t) (s.opb t) (amoBytes t)) true
  ∧ word .cas 0x099 casBytes (fun t s => .cas (s.opb t) (s.opc t) (casBytes t)) true

/-- The words that hold their stream, and not their core: `phase`, `pub`, `acq`, `st.rel`, `tbarw` and `carve`, and an `amo` with an order. Each
stands in its stream with what it commits, publishes and acquires; `phase` begins the next phase; a ranged `pub` commits the lines that meet
its range; a barrier word of CC arrives (R280, R295, R297, R298, R299, R302, R303, R305, R306). A fence that waits for nothing falls
through; any other holds its context, or the later CX operations, with the work it names: VX words, MX and CX commands, tile instructions,
atomics, whether they have left the core or not; its acquire is at the widest scope among them (R300). Completes: AMO, PHASE, PUB, ACQ,
FENCE, FENCE_CX, ST_REL, TBARW, CARVE. -/
def Obligations.FencesAndHolds : Prop :=
  (let word := fun (i : Tpl → Instr) (o : Nat) (pre : Tpl → State → Prop) (fields : Tpl → State → MemOp → Prop) (step : Nat) =>
     DoesWhen i o (fun t s => s.ready ∧ pre t s) fun t s u =>
       ∃ q, AccessFrame s u ∧ Gains s u [] ∧ (u.core s.cur.core).memq = []
         ∧ ((u.core s.cur.core).strm s.cur.strm).hold = some q ∧ q.stage = 1 ∧ q.strm = s.cur.strm ∧ q.ord = s.curCore.issueOrd
         ∧ fields t s q ∧ (u.core s.cur.core).phase = s.curCore.phase + BitVec.ofNat 32 step
   let any := fun (_ : Tpl) (_ : State) => True
   let rel := fun (o : Nat) (t : Tpl) => if (ordOf o t).testBit 1 then some (scopeOf o t) else none
   let acq := fun (o : Nat) (t : Tpl) => if (ordOf o t).testBit 0 then some (scopeOf o t) else none
   let barrier := fun (o : Nat) (t : Tpl) (s : State) (q : MemOp) (carve : Option W64) =>
     q.acq = (if (ordOf o t).testBit 0 then some 1 else none)
     ∧ q.pub = (if s.cur.strm = .cc ∧ (ordOf o t).testBit 1 = true then some 1 else none)
     ∧ ∃ gen, q.hold = some (.barrier carve (s.cur.strm != .cc) gen)
   word .phase 0x091 any (fun t _ q => q.hold = some .mem ∧ q.commit = some .all ∧ q.pub = rel 0x091 t ∧ q.acq = acq 0x091 t) 1
   ∧ word .pub 0x092 any (fun t s q => q.hold = some .mem ∧ q.pub = some (scopeOf 0x092 t) ∧ q.acq = none
       ∧ q.commit = some (if s.opb t = 0 then .all
         else .range (s.opa t).toNat (min ((s.opa t).toNat + (s.opb t).toNat) (2 ^ 64)))) 0
   ∧ word .acq 0x093 any (fun t _ q => q.hold = some .mem ∧ q.commit = none ∧ q.pub = none ∧ q.acq = some (scopeOf 0x093 t)) 0
   ∧ word .stRel 0x096 (fun t s => (s.ea t).toNat % 2 ^ (t.mod.toNat % 4) = 0) (fun t s q =>
       q.hold = some .mem ∧ q.commit = some .all ∧ q.pub = some (scopeOf 0x096 t) ∧ q.acq = none ∧ q.kind = .store
         ∧ q.lanes = [{ lane := 0, va := (s.ea t).toNat, size := 2 ^ (t.mod.toNat % 4)
                        data := (s.opb t).toNat % 256 ^ 2 ^ (t.mod.toNat % 4) }]) 0
   ∧ word .amo 0x097 (fun t s => (s.ea t).toNat % 8 = 0 ∧ ordOf 0x097 t ≠ 0) (fun t _ q =>
       q.hold = some .mem ∧ q.pub = rel 0x097 t ∧ q.acq = acq 0x097 t
         ∧ q.commit = if (ordOf 0x097 t).testBit 1 then some .all else none) 0
   ∧ word .tbarw 0x09A any (fun t s q => barrier 0x09A t s q none) 0
   ∧ word .carve 0x09B (fun t s => s.cur.strm = .cc ∧ 16 ≤ (s.opa t).toNat ∧ (s.opa t).toNat ≤ 48)
       (fun t s q => barrier 0x09B t s q (some (s.opa t))) 0
   ∧ ∀ t s, s.guard0 t = true → (s.cur.strm ≠ .cc ∨ (s.opa t).toNat < 16 ∨ 48 < (s.opa t).toNat) →
       exec (.carve t) s = .next (s.faultCur { code := .carveInvalid, det1 := s.opa t }))
  ∧
  (∀ p ∈ [(Instr.fence, 0x094), (Instr.fenceCx, 0x318)], Does p.1 p.2 fun t s u =>
     let k := s.curCore
     let named := fun (i : Nat) (l : List Nat) => if t.mod.getLsbD i then l else []
     let vx := named 0 ((k.ranges.filter fun a => a.engine == .vx && !k.rangesDone.contains (a.engine, a.seq)).map (·.seq))
     let mx := named 1 k.mx.outstanding
     let cx := named 2 (k.cx.queue.map (·.seq))
     let tile := named 3 k.tilesOut
     let out := if t.mod.getLsbD 4 then s.atomicsOut s.cur.core else []
     let amo := (out.map (·.1)).eraseDups
     let widest := (((k.cx.queue.filter fun (q : CopyCmd) => cx.contains q.seq).map fun (q : CopyCmd) => q.completion.2.2)
       ++ ((s.tiles.filter fun (x : TileIns) => tile.contains x.id).map fun (x : TileIns) => x.level - 1) ++ out.map (·.2)).foldl max 0
     if vx = [] ∧ mx = [] ∧ cx = [] ∧ tile = [] ∧ amo = [] then Leaves s s u []
     else ∃ q : MemOp, Leaves s (s.updCurStrm fun st => { st with hold := some q }) u []
       ∧ q.hold = some (.fence vx mx cx tile amo) ∧ q.stage = 2 ∧ q.acq = if widest = 0 then none else some widest)

/-- The tag words of the control contexts and of CX: `cwany`, `cwall`, `cfirst` that are satisfied, and `ctest`, complete: they answer from the
tags as they stood and acquire at the tags' widest scope, which is nothing where no engine has set them; a wait with CLR, and `ctclr`, clear
at the end of the cycle; a wait that is not satisfied blocks its stream (R265, R266, R291). An acquire at level j drops from its core's L1
the lines that the boards of levels 1 to j may name, remembers their epochs, and changes no committed byte (R290). `fetest` answers the full
bits of the 64 lines from its address, zero past the scratchpad's end; a misaligned or absent address faults (R268). Completes: CWANY,
CWANY_CX, CWALL, CWALL_CX, CFIRST, CFIRST_CX, CTEST, CTEST_CX, CTCLR, CTCLR_CX, FETEST, FETEST_CX. -/
def Obligations.TagAndFullTestWords : Prop :=
  (let T := fun (s : State) => s.curCore.tags
   let lowest := fun (x : W64) => x.ctz
   let observed := fun (m : W64) (s : State) =>
     s.acquire s.cur.core (s.curCore.tagScope.foldl (fun a e => if m.getLsbD e.1 then max a e.2 else a) 0)
   let word := fun (is : List ((Tpl → Instr) × Nat)) (ready : W64 → W64 → Prop) (res clr : W64 → W64 → W64) =>
     ∀ p ∈ is, DoesWhen p.1 p.2 (fun t s => ready (T s) (s.opa t)) (fun t s u =>
         Leaves s ((observed (T s &&& s.opa t) s).updCur fun k => { k with
             tagsClr := if t.mod.getLsbD 0 then k.tagsClr ||| clr (T s) (s.opa t) else k.tagsClr }) u
           (s.sends t.dst 1 (.word (res (T s) (s.opa t)))))
       ∧ ∀ t s, s.guard0 t = true → ¬ ready (T s) (s.opa t) →
           exec (p.1 t) s = .next (s.updCurStrm fun st => { st with blocked := true })
   word [(.cwany, 0x0A0), (.cwanyCx, 0x301)] (fun g m => g &&& m ≠ 0 ∨ m = 0) (fun g m => g &&& m) (fun g m => g &&& m)
   ∧ word [(.cwall, 0x0A1), (.cwallCx, 0x302)] (fun g m => g &&& m = m) (fun g m => g &&& m) (fun _ m => m)
   ∧ word [(.cfirst, 0x0A2), (.cfirstCx, 0x303)] (fun g m => g &&& m ≠ 0 ∨ m = 0) (fun g m => lowest (g &&& m))
       (fun g m => if g &&& m = 0 then 0 else 1#64 <<< (lowest (g &&& m)).toNat)
   ∧ (∀ p ∈ [(Instr.ctest, 0x0A3), (Instr.ctestCx, 0x304)], Does p.1 p.2 fun t s u =>
       Leaves s (observed (T s &&& s.opa t) s) u (s.sends t.dst 1 (.word (T s &&& s.opa t))))
   ∧ (∀ p ∈ [(Instr.ctclr, 0x0A4), (Instr.ctclrCx, 0x305)], Does p.1 p.2 fun t s u =>
       Leaves s ((observed (T s &&& s.opa t) s).updCur fun k => { k with tagsClr := k.tagsClr ||| s.opa t }) u [])
   ∧ ∀ (s : State) (c j : Nat),
       let board := fun (i : Nat) => sget {} (s.ctx (s.core c).theJob.ctx).boards (boardKey c (i + 1))
       let since := fun (i : Nat) => (board i).epoch - (s.core c).lastEp.getD i 0
       let named := fun (l : L1Line) => ∃ i < j,
         (since i = 0 ∧ sigMatch (board i).cur l.pa = true) ∨ (since i = 1 ∧ sigMatch ((board i).cur ||| (board i).prev) l.pa = true) ∨ 1 < since i
       let u := s.acquire c j
       u.mem.bytes = s.mem.bytes ∧ (∀ d, d ≠ c → u.core d = s.core d)
         ∧ (∀ l, l ∈ (u.core c).l1 ↔ l ∈ (s.core c).l1 ∧ ¬ named l)
         ∧ (∀ i < j, i < (s.core c).lastEp.length → (u.core c).lastEp.getD i 0 = (board i).epoch))
  ∧
  (∀ p ∈ [(Instr.fetest, 0x0A5), (Instr.fetestCx, 0x308)],
     (∀ t s d off, s.acts p.2 t → s.guard0 t = true → (s.opa t).toNat % 128 = 0 → s.curCore.carveTo = none →
       s.spTarget s.cur.core (s.opa t).toNat false = some (d, off) → ∃ u, exec (p.1 t) s = .next u
         ∧ SendsWord 1 (ofBits 64 fun i => decide (off + 128 * i < spSize s.curCore.theJob) && ((s.core d).spLine (off / 128 + i)).full) t s u)
     ∧ (∀ t s, s.guard0 t = true → (s.opa t).toNat % 128 ≠ 0 →
       exec (p.1 t) s = .next (s.faultCur { code := .dataAlignment, addr := s.opa t, det1 := 128 }))
     ∧ ∀ t s, s.guard0 t = true → (s.opa t).toNat % 128 = 0 → s.spTarget s.cur.core (s.opa t).toNat false = none →
       exec (p.1 t) s = .next (s.faultCur (spFault s s.cur.core (s.opa t).toNat)))

/-! ## Vector accesses -/

/-- `vld`, `vst`, `vldx`, `vstx` and `vstx.add` without an order: their faults, their outcome in the scratchpad and in L1, the entry in the
range checker that leaves with the cycle in which the word is done, the wait for an empty line or a translation, the post-increment, the
lanes that an index skips or puts out of bounds, and the adds of one location in ascending lane order (R167, R168, R169, R170, R242).
Completes: VLD, VST, VLDX, VSTX, VSTX_ADD. -/
def Obligations.VectorAccesses : Prop :=
  let tr := fun (s : State) (a : W64) (need : Nat) => s.mem.translate (clusterOf s.cur.core) s.curCore.theJob.ctag a need
  let sp := fun (t : Tpl) => t.mod.getLsbD 3
  let index := fun (t : Tpl) (s : State) (i : Nat) => elem (s.vreg t.sb) 32 i
  let consecutive := fun (t : Tpl) (s : State) (i : Nat) => s.ea t + BitVec.ofNat 64 (4 * i)
  let indexed := fun (t : Tpl) (s : State) (i : Nat) => s.opa t + BitVec.ofNat 64 (4 * index t s i)
  let guarded := fun (t : Tpl) (s : State) (i : Nat) => (s.guard t).getLsbD i
  let beyond := fun (t : Tpl) (s : State) (i : Nat) =>
    (s.guard t).getLsbD i && index t s i != 0xFFFFFFFF && t.imm != 0 && decide (t.imm.toNat ≤ index t s i)
  let within := fun (t : Tpl) (s : State) (i : Nat) => (s.guard t).getLsbD i && index t s i != 0xFFFFFFFF && !beyond t s i
  let never := fun (_ : Tpl) (_ : State) (_ : Nat) => false
  let stepped := fun (t : Tpl) (s : State) => if t.mod.getLsbD 2 then s.sends t.sa 4 (.word (s.ea t)) else []
  let marked := fun (lat : Nat) (t : Tpl) (s : State) =>
    let m := ofBits 64 (beyond t s)
    if m = 0 then [] else s.sendsTo .fmask lat (.orBits m)
  let nothing := fun (_ : Tpl) (_ : State) => ([] : List Pend)
  let checked := fun (s u : State) =>
    s.updCur fun k => { k with ranges := (u.core s.cur.core).ranges, rangesDone := (u.core s.cur.core).rangesDone }
  let done := fun (u : State) => (u.core u.cur.core).dropRanges.ranges = []
  let word := fun (i : Tpl → Instr) (o need : Nat) (write : Bool) (base : Tpl → State → W64) (on : Tpl → State → Nat → Bool)
      (at' : Tpl → State → Nat → W64) (first : Tpl → State → List Pend) =>
    (∀ t s, s.acts o t → (∃ j < 64, on t s j = true) → (base t s).toNat % 4 ≠ 0 →
      exec (i t) s = .next (s.faultCur { code := .dataAlignment, addr := base t s, det1 := 4 }))
    ∧ (∀ t s j, s.acts o t → sp t = true → (base t s).toNat % 4 = 0 → j < 64 → on t s j = true →
      s.spTarget s.cur.core (at' t s j).toNat write = none →
      (∀ l < j, on t s l = true → s.spTarget s.cur.core (at' t s l).toNat write ≠ none) →
      exec (i t) s = .next (s.faultCur
        { code := .scratchpadRange, addr := at' t s j, det1 := BitVec.ofNat 64 (spSize s.curCore.theJob) }))
    ∧ ∀ t s j, s.acts o t → sp t = false → (base t s).toNat % 4 = 0 → s.ready → ordOf o t = 0 → j < 64 → on t s j = true →
      tr s (at' t s j) need = .miss → (∀ l < j, on t s l = true → ∃ pa e, tr s (at' t s l) need = .hit pa e ∧ (locOf pa).isSome = true) →
      ∃ u q, exec (i t) s = .next u ∧ AccessFrame s u ∧ Gains s u (first t s) ∧ Frozen s u q ∧ q.stage = 2
        ∧ ∃ w ∈ u.mem.walks, w.unit = clusterOf s.cur.core ∧ w.ctag = s.curCore.theJob.ctag ∧ w.va = pageOf (at' t s j)
  let load := fun (i : Tpl → Instr) (o latSp latL1 : Nat) (base : Tpl → State → W64) (on : Tpl → State → Nat → Bool)
      (at' : Tpl → State → Nat → W64) (zero : Tpl → State → Nat → Bool) (first : Tpl → State → List Pend)
      (last : Nat → Tpl → State → List Pend) =>
    let merged := fun (lat : Nat) (t : Tpl) (s u : State) (f : Nat → Nat) => ∃ v : Vec,
      Leaves s (checked s u) u (first t s ++ s.sends t.dst lat (.vector v) ++ last lat t s) ∧ done u
        ∧ ∀ j, j < 64 → elem v 32 j = if on t s j then f j else if zero t s j then 0 else elem (s.vreg t.dst) 32 j
    word i o permR false base on at' first
    ∧ (∀ t s (pos : Nat → Nat × Nat), s.acts o t → sp t = true → (base t s).toNat % 4 = 0 → s.ready → ordOf o t = 0 →
      (∀ j < 64, on t s j = true → s.spTarget s.cur.core (at' t s j).toNat false = some (pos j)) →
      let line := fun (j : Nat) => (s.core (pos j).1).spLine ((pos j).2 / 128)
      ((∀ j < 64, on t s j = true → (line j).full = true ∧ (line j).poison = 0) →
        ∃ u, exec (i t) s = .next u ∧ merged latSp t s u fun j => lineBytesAt (line j).data (pos j).2 4)
      ∧ ((∃ j < 64, on t s j = true ∧ (line j).full = false) → ∃ u q, exec (i t) s = .next u
        ∧ Leaves s (s.updCur fun k => { k with memq := [q], ranges := (u.core s.cur.core).ranges }) u (first t s)
        ∧ q.stage = 2 ∧ q.sp = true ∧ q.dst = bindDst s.curStrm s.cur.strm t.dst.toNat ∧ q.due = s.curCore.now + latSp - 1))
    ∧ ∀ t s (pos : Nat → Nat) (line : Nat → L1Line), s.acts o t → sp t = false → (base t s).toNat % 4 = 0 → s.ready → ordOf o t = 0 →
      (∀ j < 64, on t s j = true → (∃ e, tr s (at' t s j) permR = .hit (pos j) e) ∧ (locOf (pos j)).isSome = true
        ∧ s.curCore.l1Find (lineOf (pos j)) s.curCore.theJob.ctag = some (line j)
        ∧ byteMask (pos j) 4 &&& (line j).valid = byteMask (pos j) 4 ∧ (line j).poison = 0) →
      ∃ u, exec (i t) s = .next u ∧ merged latL1 t s u fun j => lineBytesAt (line j).data (pos j) 4
  let store := fun (i : Tpl → Instr) (o : Nat) (base : Tpl → State → W64) (on : Tpl → State → Nat → Bool)
      (at' : Tpl → State → Nat → W64) (data : Tpl → State → Nat → Nat) (first : Tpl → State → List Pend) =>
    word i o permW true base on at' first
    ∧ (∀ t s (pos : Nat → Nat), s.acts o t → sp t = true → (base t s).toNat % 4 = 0 → s.ready → ordOf o t = 0 →
      let full := fun (j : Nat) => (s.curCore.spLine (pos j / 128)).full
      (∀ j < 64, on t s j = true → s.spTarget s.cur.core (at' t s j).toNat true = some (s.cur.core, pos j)
        ∧ (full j = true → (s.curCore.spLine (pos j / 128)).poison = 0)) →
      ∃ u, exec (i t) s = .next u
        ∧ done u ∧ Leaves s ((checked s u).updCur fun k => { k with
            sp := (u.core s.cur.core).sp
            spEvents := k.spEvents ++ ((List.range 64).filter fun j => on t s j && !full j).map fun j =>
              { rank := 0, line := pos j / 128, fill := some (byteMask (pos j) 4, byteData (pos j) (data t s j)) } }) u (first t s)
        ∧ ∀ a, (u.core s.cur.core).spByte a =
            match (List.range 64).reverse.find? fun j => on t s j && decide (pos j ≤ a ∧ a < pos j + 4) with
            | some j => if full j then (true, data t s j / 256 ^ (a - pos j) % 256) else s.curCore.spByte a
            | none => s.curCore.spByte a)
    ∧ ∀ t s (pos : Nat → Nat), s.acts o t → sp t = false → (base t s).toNat % 4 = 0 → s.ready → ordOf o t = 0 →
      (∀ j < 64, on t s j = true → (∃ e, tr s (at' t s j) permW = .hit (pos j) e) ∧ (locOf (pos j)).isSome = true) →
      ∃ u, exec (i t) s = .next u
        ∧ Leaves s (((List.range 64).filter (on t s)).foldl (fun s' j =>
            s'.l1Store s.cur.core (pos j) (at' t s j) s.curCore.theJob.ctag (byteMask (pos j) 4) (byteData (pos j) (data t s j))) s) u (first t s)
  load .vld 0x190 6 14 (fun t s => s.ea t) guarded consecutive never stepped (fun _ => nothing)
  ∧ load .vldx 0x192 16 16 (fun t s => s.opa t) within indexed beyond nothing marked
  ∧ store .vst 0x191 (fun t s => s.ea t) guarded consecutive (fun t s j => elem (s.vreg t.sb) 32 j) stepped
  ∧ store .vstx 0x193 (fun t s => s.opa t) within indexed (fun t s j => elem (s.vreg t.sc) 32 j) (marked 4)
  ∧ word .vstxAdd 0x194 (permR + permW + permA) true (fun t s => s.opa t) within indexed (marked 4)
  ∧ (∀ t s (pos : Nat → Nat), s.acts 0x194 t → vtypeOf 0x194 t ∈ [0, 3, 4] → sp t = true → (s.opa t).toNat % 4 = 0 → s.ready →
    ordOf 0x194 t = 0 → s.curCore.spEvents = [] →
    (∀ j < 64, within t s j = true → s.spTarget s.cur.core (indexed t s j).toNat true = some (s.cur.core, pos j)
      ∧ (s.curCore.spLine (pos j / 128)).full = true ∧ (s.curCore.spLine (pos j / 128)).poison = 0) →
    ∃ u, exec (.vstxAdd t) s = .next u
      ∧ done u ∧ Leaves s ((checked s u).updCur fun k => { k with sp := (u.core s.cur.core).sp }) u (marked 4 t s)
      ∧ (∀ j < 64, within t s j = true → lineBytesAt ((u.core s.cur.core).spLine (pos j / 128)).data (pos j) 4 =
          ((List.range 64).filter fun l => within t s l && pos l == pos j).foldl (fun x l =>
            velem 0x100 (vtypeOf 0x194 t) (rndOf 0x194 t) (satOf 0x194 t) 0 x (elem (s.vreg t.sc) 32 l) 0)
            (lineBytesAt (s.curCore.spLine (pos j / 128)).data (pos j) 4))
      ∧ ∀ a, (∀ j < 64, within t s j = true → ¬ (pos j ≤ a ∧ a < pos j + 4)) → (u.core s.cur.core).spByte a = s.curCore.spByte a)
  ∧ ∀ t s (pos : Nat → Nat), s.acts 0x194 t → sp t = false → (s.opa t).toNat % 4 = 0 → s.ready → ordOf 0x194 t = 0 →
    (∀ j < 64, within t s j = true → (∃ e, tr s (indexed t s j) (permR + permW + permA) = .hit (pos j) e) ∧ (locOf (pos j)).isSome = true) →
    ∃ u, exec (.vstxAdd t) s = .next u ∧ AccessFrame s u ∧ Gains s u (marked 4 t s) ∧ (u.core s.cur.core).memq = []
      ∧ ∀ j < 64, within t s j = true → ∃ r ∈ u.mem.reqs, r.master = s.cur.core ∧ r.pa = pos j
        ∧ r.kind = .atomic (.vadd (vtypeOf 0x194 t) (rndOf 0x194 t) (satOf 0x194 t)
            (((List.range 64).filter fun l => within t s l && pos l == pos j).map fun l => elem (s.vreg t.sc) 32 l))

/-! ## Exceptions and control registers -/

/-- `trap` and `sysc` issue and record their cause, with IMM as its code unless a synchronous cause stands already; the trap itself is taken
between engine cycles, and until then their stream issues nothing. `eret` outside handler mode is the illegal-instruction trap; in it, once
the frame can be read and the answers set aside have come, handler mode ends and the registers come back from the frame, while the control
streams resume at their EPCs (R64, R144, R326, R327, R328, R329, R337). Completes: TRAP, ERET, SYSC. -/
def Obligations.ExceptionWords : Prop :=
  let caused := fun (n : Nat) (t : Tpl) (s : State) => s.updCur fun k =>
    { k with
      trapBits := k.trapBits ||| 2 ^ n, trapSync := true
      trapCode := if k.trapSync then k.trapCode else t.imm
      trapStrm := if k.trapSync then k.trapStrm else s.cur.strm.code }.updStrm s.cur.strm fun st => { st with trapped := true }
  Does .trap 0x048 (fun t s u => Leaves s (caused 0 t s) u [])
  ∧ Does .sysc 0x383 (fun t s u => Leaves s (caused 5 t s) u [])
  ∧ (∀ t s, s.guard0 t = true → s.curCore.hm = false → exec (.eret t) s = .next s.illegal)
  ∧ (∀ t s, s.guard0 t = true → s.curCore.hm = true → (∃ o ∈ s.curCore.savedOps, ∃ r ∈ s.mem.reqs, r.id ∈ o.reqs) →
    exec (.eret t) s = .next (s.updCurStrm fun st => { st with blocked := true }))
  ∧ ∀ t s bs, s.acts 0x382 t → s.guard0 t = true → s.curCore.hm = true → s.curCore.savedOps = [] →
    s.readVirt (s.engineParty s.cur.core .cc) true permR s.curCore.tframe.toNat 0x13000 = .ok bs → (∀ b ∈ bs, b.2 = false) →
    ∃ u, exec (.eret t) s = .next u
      ∧ let r := fun (off n : Nat) => leNat ((List.range n).map fun i => (bs.map (·.1)).getD (off + i) 0)
        let k := u.core s.cur.core
        let old := s.curCore
        u = { s with cores := u.cores, clusters := u.clusters } ∧ (∀ c, c ≠ s.cur.core → u.core c = s.core c)
        ∧ (∀ c, c ≠ clusterOf s.cur.core → u.cluster c = s.cluster c)
        ∧ k.hm = false ∧ k.vcyc = r 0 8 ∧ k.fmask = BitVec.ofNat 64 (r 0x10 8) ∧ k.wid = BitVec.ofNat 64 (r 0x40 8)
        ∧ k.tcause = old.tcause ∧ k.tvec = old.tvec ∧ k.tframe = old.tframe ∧ k.tdeleg = old.tdeleg ∧ k.tags = old.tags
        ∧ k.vec = old.vec ∧ k.tile = old.tile ∧ k.acc = old.acc ∧ k.job = old.job ∧ k.sp = old.sp ∧ k.l1 = old.l1
        ∧ k.mxs.s = old.mxs.s ∧ k.cxs.s = old.cxs.s
        ∧ ∀ e : StreamId, e ∈ [StreamId.cl, .cc, .cs, .vx] →
            let q := fun (off n : Nat) => r (0x1000 + 4096 * e.code + off) n
            let was := old.strm e
            let st := k.strm e
            (∀ n, 0 < n → n < 64 → sget 0 st.s n = BitVec.ofNat 64 (q (8 * n) 8))
            ∧ (∀ n, 0 < n → n < 16 → sget 0 st.p n = BitVec.ofNat 64 (q (0x200 + 8 * n) 8))
            ∧ st.lnk = BitVec.ofNat 64 (q 0x298 8) ∧ st.rvb = BitVec.ofNat 5 (q 0x2B0 1) ∧ st.rpb = BitVec.ofNat 3 (q 0x2B1 1)
            ∧ (e ≠ .vx → st.started = true → st.pc = was.epc0 &&& ~~~ 3#64
              ∧ st.resume = [(was.epc0 &&& ~~~ 3#64, was.epc0.getLsbD 0), (was.epc1 &&& ~~~ 3#64, was.epc1.getLsbD 0),
                  (was.epc2 &&& ~~~ 3#64, was.epc2.getLsbD 0)])

/-- Taking a trap that is handled in the job: the frame is written, each control stream's EPCs are those of the words it would issue
next, TCAUSE tells the cause, handler mode begins, and CC goes on at TVEC; nothing is pending any more. A synchronous cause in handler
mode is the double-trap fault; a cause that is neither delegated nor a system call is the unhandled-trap fault (R62, R63, R326, R328,
R329). -/
def Obligations.TrapEntry : Prop :=
  let word := fun (k : Core) => BitVec.ofNat 64 (k.trapCode.toNat * 2 ^ 32 + k.trapStrm * 2 ^ 24 + k.trapTmr * 2 ^ 21 + k.trapBits)
  (∀ (s : State) (c : Nat) (t : State), (s.core c).hm = false → (s.core c).tvec ≠ 0 → (s.core c).trapBits &&& (s.core c).tdeleg.toNat = (s.core c).trapBits →
    s.writePhased (s.engineParty c .cc) c (s.core c).tframe.toNat ((s.frame c).map fun b => (b, false)) = .ok t →
    let k := (s.takeTrap c).core c
    k.hm = true ∧ k.hcyc = 0 ∧ k.tcause = word (t.core c) ∧ k.cc.pc = (t.core c).tvec ∧ k.cc.redirects = [] ∧ k.cc.annul = 0
    ∧ k.trapBits = 0 ∧ k.trapSync = false ∧ k.memq = [] ∧ (∀ p ∈ k.pend, p.strm = .mx ∨ p.strm = .cx) ∧ k.vcyc = (t.core c).vcyc
    ∧ (∀ e : StreamId, e ∈ [StreamId.cl, .cc, .cs] →
        [(k.strm e).epc0, (k.strm e).epc1, (k.strm e).epc2] = (List.range 3).map fun i => (t.epcsOf c e).getD i 0)
    ∧ (∀ e : StreamId, (k.strm e).s = ((t.core c).strm e).s ∧ (k.strm e).p = ((t.core c).strm e).p)
    ∧ (∀ d, d ≠ c → (s.takeTrap c).core d = t.core d) ∧ (s.takeTrap c).mem = t.mem)
  ∧ (∀ (s : State) (c : Nat), (s.core c).hm = true → (s.core c).trapSync = true →
    s.takeTrap c = (s.fault c .cc { code := .doubleTrap, det1 := word (s.core c) }).updCore c fun k =>
      { k with trapBits := 0, trapSync := false })
  ∧ (∀ (s : State) (c : Nat), (s.core c).hm = true → (s.core c).trapSync = false → s.takeTrap c = s)
  ∧ ∀ (s : State) (c : Nat), (s.core c).hm = false → ((s.core c).tvec = 0 ∨ (s.core c).trapBits &&& (s.core c).tdeleg.toNat ≠ (s.core c).trapBits) →
    (s.core c).trapBits.testBit 5 = false →
    s.takeTrap c = (s.fault c .cc { code := .unhandledTrap, det1 := word (s.core c) }).updCore c fun k =>
      { k with trapBits := 0, trapSync := false }

/-- `csrr` answers, after two cycles, the register that IMM names: mode, cause, vector, frame, delegation, the EPCs, the context's parameters,
the context and partition words; an unlisted number is the illegal-instruction trap. `csrw` and `csrw.ctx` leave a read-only register as it
is, set a register of the job at the end of the engine cycle, hold their stream for a context parameter, and at user level trap on what is
the supervisor's; a context that the issuer does not manage is the access-violation fault. `ckpt` and `ckpt.vx` fall through where no
pre-emption is pending or the job has no table, and park their stream where the table's entry is theirs (R325, R326, R338, R340, R408,
R409). Completes: CKPT_VX, CSRR, CSRW, CSRW_CTX, CKPT. -/
def Obligations.ControlRegisterWords : Prop :=
  let number := fun (t : Tpl) => t.imm.toNat % 4096
  let listed := fun (n : Nat) => n ≤ 4 ∨ (8 ≤ n ∧ n ≤ 0x10) ∨ (0x18 ≤ n ∧ n ≤ 0x24)
  let isParam := fun (n : Nat) => (0x18 ≤ n ∧ n ≤ 0x1F) ∨ (0x22 ≤ n ∧ n ≤ 0x24)
  let fixed := fun (n : Nat) => n ∈ [0, 1, 0x20, 0x21]
  let value := fun (s : State) (n : Nat) =>
    let k := s.curCore
    let j := k.theJob
    let x := s.ctx j.ctx
    let p := s.part j.part
    let epc := fun (st : Stream) => [st.epc0, st.epc1, st.epc2]
    if 8 ≤ n ∧ n ≤ 0x10 then (epc k.cl ++ epc k.cc ++ epc k.cs).getD (n - 8) 0
    else if 0x18 ≤ n then
      [x.mxslack, x.ckwd, x.qpmin, x.qpcap, x.ptroot, x.dlogbase, x.dlogidx, x.dlogep, BitVec.ofNat 64 (j.level * 2 ^ 16 + j.ctag.toNat),
        BitVec.ofNat 64 (j.part * 2 ^ 16 + p.ox * 2 ^ 12 + p.oy * 2 ^ 10 + (p.wm1 + 1) * 2 ^ 5 + (p.hm1 + 1)), x.tsegpool, x.stoplog,
        x.savebase].getD (n - 0x18) 0
    else [BitVec.ofNat 64 ((if k.hm then 4 else 0) + j.level), k.tcause, k.tvec, k.tframe, k.tdeleg].getD n 0
  let held := fun (t : Tpl) (s : State) (ctx : Nat) (other : Bool) (u : State) => ∃ q, Gains s u [] ∧ AccessFrame s u
    ∧ ((u.core s.cur.core).strm s.cur.strm).hold = some q
    ∧ q.hold = some (.system 0x381 t.mod.toNat (s.opa t) (s.opb t) (s.opc t) 0 [number t, ctx])
    ∧ q.pub = if other then some 3 else none
  DoesWhen .csrr 0x380 (fun t _ => listed (number t) ∧ number t ≠ 0x1E) (fun t s u => SendsWord 2 (value s (number t)) t s u)
  ∧ DoesWhen .csrr 0x380 (fun t _ => number t = 0x1E) (fun t s u =>
      Leaves s (s.acquire s.cur.core 3) u (s.sends t.dst 2 (.word (value s 0x1E))))
  ∧ (∀ i ∈ [Instr.csrr, Instr.csrw, Instr.csrwCtx], ∀ t s, s.guard0 t = true → ¬ listed (number t) → exec (i t) s = .next s.illegal)
  ∧ (∀ i ∈ [Instr.csrw, Instr.csrwCtx], DoesWhen i 0x381 (fun t s => s.guard0 t = true ∧ fixed (number t)) fun _ s u => Leaves s s u [])
  ∧ (∀ i ∈ [Instr.csrw, Instr.csrwCtx], DoesWhen i 0x381
      (fun t s => s.guard0 t = true ∧ number t ∈ [2, 3, 4, 8, 9, 10, 11, 12, 13, 14, 15, 16]
        ∧ (s.curCore.theJob.level ≠ 0 ∨ number t ≤ 4)) fun t s u =>
      let n := number t
      let v := s.opa t
      let new := if n = 2 then v &&& ~~~ 3#64 else if n = 3 then v &&& ~~~ 0xFFF#64
        else if n = 4 then
          if s.curCore.theJob.level = 0 then (s.curCore.tdeleg &&& 0x38) ||| (v &&& 7) else v &&& 0x3F
        else v &&& ~~~ 2#64
      Leaves s (s.updCur fun k => { k with csrNew := k.csrNew ++ [(n, new)] }) u [])
  ∧ (∀ i ∈ [Instr.csrw, Instr.csrwCtx], ∀ t s, s.guard0 t = true → s.curCore.theJob.level = 0 →
      (isParam (number t) ∨ (8 ≤ number t ∧ number t ≤ 0x10)) → exec (i t) s = .next s.privileged)
  ∧ DoesWhen .csrw 0x381 (fun t s => s.guard0 t = true ∧ isParam (number t) ∧ s.curCore.theJob.level ≠ 0 ∧ s.curCore.memq = [])
      (fun t s u => held t s s.curCore.theJob.ctx false u)
  ∧ DoesWhen .csrwCtx 0x381 (fun t s => s.guard0 t = true ∧ isParam (number t) ∧ s.curCore.theJob.level ≠ 0 ∧ s.curCore.memq = []
        ∧ s.manages s.curCore.theJob.ctx ((s.opb t).toNat % 1024) = true)
      (fun t s u => held t s ((s.opb t).toNat % 1024) true u)
  ∧ (∀ t s, s.guard0 t = true → isParam (number t) → s.curCore.theJob.level ≠ 0 →
      s.manages s.curCore.theJob.ctx ((s.opb t).toNat % 1024) = false →
      exec (.csrwCtx t) s = .next (s.faultCur { code := .accessViolation, addr := s.opb t }))
  ∧ ∀ p ∈ [(Instr.ckpt, 0x392), (Instr.ckptVx, 0x1FD)],
      DoesWhen p.1 p.2 (fun t s => s.preemptPending s.cur.core = false ∨ s.curCore.theJob.ckpt = 0
          ∨ s.curCore.theJob.ckptN ≤ t.imm.toNat % 65536) (fun _ s u => Leaves s s u [])
      ∧ ∀ t s bs, s.acts p.2 t → s.preemptPending s.cur.core = true → s.curCore.theJob.ckpt ≠ 0 →
          t.imm.toNat % 65536 < s.curCore.theJob.ckptN →
          s.readVirt (s.engineParty s.cur.core s.cur.strm) true permR
            ((s.curCore.theJob.ckpt.toNat + 64 * (t.imm.toNat % 65536)) % 2 ^ 64) 64 = .ok bs → (∀ b ∈ bs, b.2 = false) →
          let r := fun (off n : Nat) => leNat ((List.range n).map fun i => (bs.map (·.1)).getD (off + i) 0)
          ∃ u live, exec (p.1 t) s = .next u
            ∧ Leaves s (s.updCurStrm fun st =>
                if r 0x1A 1 = s.cur.strm.code ∧ r 0 8 = st.pc.toNat then
                  { st with parked := true, ckptAt := some (t.imm.toNat % 65536), live := live }
                else st) u []
            ∧ live.smask = BitVec.ofNat 64 (r 8 8) ∧ live.vmask = BitVec.ofNat 64 (r 0x10 8) ∧ live.pmask = BitVec.ofNat 16 (r 0x18 2)

/-! ## System words -/

/-- A system word holds its stream with what it will do: one on a context or on the access tables first commits and publishes at fabric scope;
one that names a context, or a cluster of a context, that its issuer does not manage, or an entry that the issuer may not write, is the
access-violation fault (R333, R337, R338, R342, R343, R344). Completes: TLBI_CTX, TLBI_PAGE, ATBW, INCB, RECLAIM, CTXSAVE, CTXLOAD, PSTOP,
PRUN, PRUN_CORE, PREEMPT, HLTCLR, GATE, WAKE, ALARMCLR, LOGRD, LOGRD_POP. -/
def Obligations.SystemWords : Prop :=
  let holds := fun (o : Nat) (release result : Bool) (aux : List Nat) (t : Tpl) (s u : State) =>
    ∃ q, AccessFrame s u ∧ Gains s u [] ∧ (u.core s.cur.core).memq = [] ∧ ((u.core s.cur.core).strm s.cur.strm).hold = some q
      ∧ q.hold = some (.system o t.mod.toNat (s.opa t) (s.opb t) (s.opc t) 0 aux) ∧ q.stage = 1 ∧ q.kind = .none
      ∧ q.pub = (if release then some 3 else none) ∧ q.commit = (if release then some .all else none)
      ∧ q.dst = (if result then bindDst s.curStrm s.cur.strm t.dst.toNat else none)
  let denied := fun (t : Tpl) (s : State) => Host.Outcome.next (s.faultCur { code := .accessViolation, addr := s.opa t })
  let named := fun (t : Tpl) (s : State) => (s.opa t).toNat % 1024
  let manages := fun (s : State) (x : Nat) => (s.ctx x).valid = true ∧ (s.ctx x).mgr = s.curCore.theJob.ctx ∧ x ≠ s.curCore.theJob.ctx
  let cluster := fun (t : Tpl) (s : State) => s.contextOfCluster ((s.opa t).toNat % 64)
  (∀ p ∈ [(Instr.tlbiCtx, 0x384, false), (.tlbiPage, 0x384, false), (.incb, 0x386, true), (.reclaim, 0x387, false), (.ctxsave, 0x388, true),
      (.ctxload, 0x389, true), (.pstop, 0x38A, true), (.prun, 0x38B, true), (.prunCore, 0x38B, true), (.preempt, 0x38C, true),
      (.hltclr, 0x38D, true)],
    DoesWhen p.1 p.2.1 (fun t s => s.curCore.memq = [] ∧ manages s (named t s))
      (fun t s u => holds p.2.1 true p.2.2 [named t s] t s u)
    ∧ ∀ t s, s.guard0 t = true → ¬ manages s (named t s) → exec (p.1 t) s = denied t s)
  ∧ DoesWhen .atbw 0x385 (fun t s => s.curCore.memq = [] ∧ s.atbwOk s.curCore.theJob.ctx (named t s) (s.opc t ++ s.opb t) = true)
      (fun t s u => holds 0x385 true false [] t s u)
  ∧ (∀ t s, s.guard0 t = true → s.atbwOk s.curCore.theJob.ctx (named t s) (s.opc t ++ s.opb t) = false → exec (.atbw t) s = denied t s)
  ∧ (∀ p ∈ [(Instr.gate, 0x38E), (.wake, 0x38F)],
    DoesWhen p.1 p.2 (fun t s => s.curCore.memq = [] ∧ ∃ x, cluster t s = some x ∧ manages s x)
      (fun t s u => holds p.2 false true [] t s u)
    ∧ ∀ t s, s.guard0 t = true → (∀ x, cluster t s = some x → ¬ manages s x) → exec (p.1 t) s = denied t s)
  ∧ ∀ p ∈ [(Instr.alarmclr, 0x390), (.logrd, 0x391), (.logrdPop, 0x391)],
    DoesWhen p.1 p.2 (fun _ s => s.curCore.memq = []) (fun t s u => holds p.2 false true [] t s u)

/-- What a held system word then does, in its steps, until it ends and its answer lands: the statuses of the context-state words and the state each leaves, the translations
that `tlbi` removes and the writes through them that it waits for, the entry that `atbw` sends, unless the entry it would replace has
become another's, the incarnation that `incb` begins and the CTAG it answers, the bump that `reclaim` waits for, the halt line that
`hltclr` releases, and the registers and log dwords that the others answer (R336, R339, R341, R342, R343). -/
def Obligations.SystemEffects : Prop :=
  (∀ (s : State) (c : Nat) (op : MemOp) (o m : Nat) (a b d : W64) (step : Nat) (aux : List Nat), 2 ≤ op.stage →
    op.hold = some (.system o m a b d step aux) →
    let r := s.systemStep (s.issuer c) o m a b d step aux
    (∀ t, r = .wait t → s.advanceHeld c op = (t, op))
    ∧ (∀ t n l, r = .go t n l → s.advanceHeld c op = (t, { op with hold := some (.system o m a b d n l) }))
    ∧ (∀ t, r = .done t none → s.advanceHeld c op = t.finishOp c op)
    ∧ (∀ t v, r = .done t (some v) → s.advanceHeld c op = (t.landHeld c op v).finishOp c op)
    ∧ ∀ f, r = .fault f → s.advanceHeld c op = (s.stopStrm c op.strm (.bad f) op.pc 0, op))
  ∧ ∀ (s : State) (i : Issuer) (m : Nat) (a b c : W64) (step : Nat) (aux : List Nat),
    let x := a.toNat % 1024
    let k := a.toNat % 64
    let does := fun (o : Nat) => s.systemStep i o m a b c step aux
    let answers := fun (r : SysStep) (u : State) (n : Nat) => r = .done u (some (BitVec.ofNat 64 n))
    let busy := (s.mem.bumps.find? fun u => u.ctx == x && !u.reclaimed).isSome
    let st := (s.ctx x).state
    let part := (s.ctx x).part
    let raised := (s.halt part).raised
    let through := s.mem.writesThrough x (if m % 4 = 1 then some b else none)
    (step = 0 → ∃ u, does 0x384 = (if u.mem.unperformed through then .go u 1 through else .done u none) ∧ u = { s with mem := u.mem } ∧ u.mem = { s.mem with tcache := u.mem.tcache, walks := u.mem.walks }
      ∧ u.mem.tcache = s.mem.tcache.filter (fun e => !(e.ctag.toNat / 64 == x
          && (m % 4 != 1 || decide (e.va ≤ b.toNat ∧ b.toNat < e.va + 2 ^ e.size))))
      ∧ ∀ w ∈ u.mem.walks, w.ctag.toNat / 64 = x → w.discard = true)
    ∧ (step ≠ 0 → does 0x384 = if s.mem.unperformed aux then .go s 1 aux else .done s none)
    ∧ (step = 0 → s.atbwOk i.ctx x (c ++ b) = false → does 0x385 = .fault { code := .accessViolation, addr := a })
    ∧ (step = 0 → s.atbwOk i.ctx x (c ++ b) = true → ∃ u, does 0x385 = .go u 1 [s.mem.nextReq] ∧ u = { s with mem := { s.mem with
          atq := s.mem.atq ++ [{ id := s.mem.nextReq, master := x, entry := c ++ b, done := [] }], nextReq := s.mem.nextReq + 1 } })
    ∧ (step ≠ 0 → does 0x385 = if s.mem.atq.any (fun w => aux.contains w.id) then .wait s else .done s none)
    ∧ (step = 0 → busy = true → does 0x386 = .wait s)
    ∧ (step = 0 → busy = false → ∃ u, does 0x386 = .go u 1 [(u.ctagOf x).toNat] ∧ (u.ctx x).inc = (s.ctx x).inc + 1
        ∧ (u.ctx x).state = .halted ∧ ∃ v ∈ u.mem.bumps, v.ctx = x ∧ v.inc = (u.ctx x).inc ∧ v.done = [])
    ∧ (step ≠ 0 → (∀ v ∈ s.mem.bumps, v.ctx ≠ x) → does 0x386 = .done s (some ((BitVec.ofNat 16 (aux.headD 0)).setWidth 64)))
    ∧ (busy = false → does 0x387 = .done s none)
    ∧ (∀ v, s.mem.bumps.find? (fun u => u.ctx == x && !u.reclaimed) = some v →
        does 0x387 = if step = 0 then .go s 1 [v.inc.toNat] else if aux = [v.inc.toNat] then .wait s else .done s none)
    ∧ (∀ o ∈ [0x389, 0x38D], busy = true → answers (does o) s 4)
    ∧ (busy = true → answers (does 0x388) s 4 ∧ (step = 0 → answers (does 0x38A) s 4 ∧ answers (does 0x38C) s 4) ∧ answers (does 0x38B) s 4)
    ∧ (busy = false →
      (step = 0 → st ≠ .running → answers (does 0x38A) s 1)
      ∧ (step = 0 → st = .running → ∃ u, does 0x38A = .go u 1 [] ∧ (u.halt part).raised = true
          ∧ (raised = false → (u.halt part).pstop = true ∧ (u.halt part).gtc = s.gtc))
      ∧ (step ≠ 0 → st = .stopped → answers (does 0x38A) s 0)
      ∧ (step ≠ 0 → st = .running → does 0x38A = .wait s)
      ∧ (step = 0 → (st ≠ .running ∨ raised = true) → answers (does 0x38C) s 1)
      ∧ (step = 0 → st = .running → raised = false → (s.ctx x).savebase.toNat / 2 ^ 12 % 2 ^ 40 ≠ 0 →
          does 0x38C = .go (s.preempt x false) 1 [])
      ∧ (step ≠ 0 → (∀ f ∈ s.cuffs, f.part ≠ part) → answers (does 0x38C) s (if st = .preempted then 0 else 1))
      ∧ (st ≠ .halted → answers (does 0x38D) s 1)
      ∧ (st = .halted → answers (does 0x38D) ((s.updCtx x fun y => { y with state := .stopped }).updHalt part fun h =>
          { h with raised := false, cleared := true }) 0)
      ∧ (st ≠ .stopped → st ≠ .preempted → answers (does 0x388) s 1)
      ∧ ((st = .stopped ∨ st = .preempted) →
          let pa := b.toNat / 4096 * 4096
          if s.mayWritePhys i.core i.ctag pa (s.savedImage x).length then
            answers (does 0x388) ((s.pokeRelease x pa (s.savedImage x)).updCtx x fun y => { y with parked := false }) 0
          else does 0x388 = .fault { code := .accessViolation, addr := b, det1 := BitVec.ofNat 64 (i.core + permW <<< 10) })
      ∧ (st ≠ .empty → answers (does 0x389) s 1)
      ∧ (m.testBit 0 = false → st ≠ .stopped → st ≠ .preempted → answers (does 0x38B) s 1)
      ∧ (m.testBit 0 = false → st = .stopped → answers (does 0x38B) (s.resumeInPlace x) 0)
      ∧ (m.testBit 0 = true → (st ≠ .running ∨ (s.core (b.toNat % 512)).svcWait = false) → answers (does 0x38B) s 1))
    ∧ ((s.cluster k).gated = true → answers (does 0x38E) s 0)
    ∧ ((s.cluster k).gated = false → s.clusterBusy k = true → answers (does 0x38E) s 4)
    ∧ ((s.cluster k).gated = false → s.clusterBusy k = false → answers (does 0x38E) (s.gateCluster k) 0 ∧ ((s.gateCluster k).cluster k).gated = true)
    ∧ (step = 0 → (s.cluster k).gated = false → answers (does 0x38F) s 1)
    ∧ (step = 0 → (s.cluster k).gated = true → s.parkedDies.contains (dieOf k) = false → ∃ u, does 0x38F = .go u 1 [] ∧ (u.cluster k).waking = true)
    ∧ (step ≠ 0 → does 0x38F = if (s.cluster k).gated then .wait s else .done s (some 0))
    ∧ does 0x390 = .done { s with power := { s.power with occause := 0 } } (some s.power.occause)
    ∧ (∃ u, does 0x391 = .done u (some (match (sget [] s.mem.logs i.ctx).head? with
          | some e => [e.d0, e.d1, e.d2, e.d3].getD (a.toNat % 8) 0
          | none => 0))
        ∧ sget [] u.mem.logs i.ctx = if m.testBit 0 then (sget [] s.mem.logs i.ctx).drop 1 else sget [] s.mem.logs i.ctx)

/-! ## Copy words -/

/-- The words that queue a command of the copy engine: `cpost` and `covl` under a valid packet, `cpost.q` with the index it claims once the
core's own bytes of the queue's line have gone home, `fefill`, `feempty`, `lbset`, `lbadv` and `chalo`, each with its place in the issue
order and the ranges it gives the checker, those of `lbadv` spanning the slots of the rows that come new into the window of the buffer as
the queue will leave it; a void packet, and a count of no lines, do nothing; a packet or record outside its limits, a misaligned address, an
absent scratchpad range and an unset buffer fault; a full queue makes CX wait (R251, R252, R253, R254, R259, R261, R267, R269, R271, R272,
R273). Completes: CPOST, CPOST_Q, FEFILL, FEEMPTY, LBSET, LBADV, CHALO, COVL. -/
def Obligations.CopyWords : Prop :=
  let fld := fun (p : BitVec 512) (off n : Nat) => p.toNat / 2 ^ (8 * off) % 2 ^ (8 * n)
  let room := fun (s : State) => s.curCore.roomFor 1 (s.curCore.queueLen 1) = true
  let free := fun (s : State) => room s ∧ s.curCore.ranges.length < 32 ∧ s.curCore.carveTo = none
  let queued := fun (s : State) (kind : CopyKind) (rd wr : List (Nat × Nat)) => s.updCur fun k => { k with
    cx := { k.cx with queue := k.cx.queue ++ [{ seq := k.cx.nextSeq, pc := k.cxs.pc, kind := kind, ord := k.issueOrd }], nextSeq := k.cx.nextSeq + 1 }
    ranges := if rd = [] ∧ wr = [] then k.ranges
      else k.ranges ++ [{ stamp := s.gtc, engine := .cx, seq := k.cx.nextSeq, reads := rd, writes := wr }] }
  let posts := fun (i : Tpl → Instr) (t : Tpl) (s : State) (kind : CopyKind) (rd wr : List (Nat × Nat)) =>
    ∃ u, exec (i t) s = .next u ∧ Leaves s (queued s kind rd wr) u []
  let faults := fun (i : Tpl → Instr) (t : Tpl) (s : State) (f : FaultInfo) => exec (i t) s = .next (s.faultCur f)
  let badPacket := fun (off : Nat) => ({ code := .copyInvalid, det1 := BitVec.ofNat 64 off } : FaultInfo)
  let outside := fun (s : State) (a : Nat) =>
    ({ code := .scratchpadRange, addr := BitVec.ofNat 64 a, det1 := BitVec.ofNat 64 (spSize s.curCore.theJob) } : FaultInfo)
  let aligned := fun (a : W64) (n : Nat) => ({ code := .dataAlignment, addr := a, det1 := BitVec.ofNat 64 n } : FaultInfo)
  let record := fun (t : Tpl) (s : State) (p : BitVec 512) => (s.ea t).toNat % 64 = 0 ∧ ∃ bs : List PByte,
    s.readRecord s.cur.core s.cur.strm (t.mod.getLsbD 3) (s.ea t).toNat 64 = .ok bs ∧ (∀ b ∈ bs, b.2 = false)
      ∧ p = BitVec.ofNat 512 (leNat (bs.map (·.1)))
  let valid := fun (overlay : Bool) (p : BitVec 512) =>
    let dk := fld p 5 1
    let dst := fld p 0x10 8
    let rowb := fld p 0x18 4
    let rows := fld p 0x1C 4
    let dstr := fld p 0x28 8
    fld p 0 1 = 0x10 ∧ fld p 1 1 < 16 ∧ fld p 2 1 < 64 ∧ fld p 3 1 < 16 ∧ fld p 4 1 < 2 ∧ dk < 4 ∧ (overlay = true ↔ 2 ≤ dk)
      ∧ fld p 6 1 < 5 ∧ fld p 7 1 = 0 ∧ 0 < rowb ∧ rowb ≤ 2 ^ 24 ∧ 0 < rows ∧ rows ≤ 65536
      ∧ (dk = 2 → dst % 4 = 0 ∧ rowb % 4 = 0)
      ∧ (dk = 3 → dst % 8 ≤ 5 ∧ dst / 8 % 32 = 0 ∧ dst < 2 ^ 14 ∧ rowb * rows % 16 = 0 ∧ dst / 256 % 64 + rowb * rows / 16 ≤ 64)
      ∧ (dstr ≠ 0 → dk < 2 ∧ rowb ≤ dstr) ∧ fld p 0x30 8 % 8 = 0 ∧ fld p 0x38 7 = 0
  let window := fun (t : Tpl) (s : State) =>
    s.curCore.cx.queue.foldl (LineBuffer.after (t.mod.toNat % 4)) (sfind s.curCore.cx.lbs (t.mod.toNat % 4))
  let buffer := fun (s : State) (r : BitVec 512) =>
    let slot := (fld r 0x14 4 + 127) / 128 * 128
    0 < fld r 0x14 4 ∧ fld r 0x14 4 ≤ 2 ^ 20 ∧ fld r 0x14 4 ≤ fld r 8 8 ∧ 0 < fld r 0x18 1 ∧ fld r 0x18 1 ≤ 16 ∧ fld r 0x19 3 = 0
      ∧ 0 < fld r 0x1C 4 ∧ fld r 0x1C 4 ≤ 2 ^ 24 ∧ fld r 0x24 28 = 0 ∧ fld r 0x10 4 % 128 = 0 ∧ fld r 0x10 4 < 2 ^ 24
      ∧ fld r 0x10 4 + fld r 0x18 1 * slot ≤ spSize s.curCore.theJob
  (∀ q ∈ [(Instr.cpost, 0x300, false), (.covl, 0x30C, true)],
    (∀ t s p, s.acts q.2.1 t → free s → record t s p → fld p 0 1 = 0xFF → ∃ u, exec (q.1 t) s = .next u ∧ Leaves s s u [])
    ∧ (∀ t s p, s.acts q.2.1 t → free s → record t s p → valid q.2.2 p →
        posts q.1 t s (.copy p q.2.2) (copyRanges s.cur.core p).1 (copyRanges s.cur.core p).2)
    ∧ (∀ t s p, s.acts q.2.1 t → free s → record t s p → fld p 0 1 ≠ 0xFF → ¬ valid q.2.2 p → ∃ off, faults q.1 t s (badPacket off))
    ∧ ∀ t s p, s.acts q.2.1 t → s.curCore.carveTo = none → record t s p → valid q.2.2 p → ¬ room s →
        exec (q.1 t) s = .next ((s.updCur fun k =>
          { k with poolHeld := k.poolHeld || decide (k.cx.queue.length < k.theJob.depth 1) }).updCurStrm fun st => { st with blocked := true }))
  ∧ (∀ i ∈ [Instr.cpost, .covl, .cpostQ, .lbset], ∀ t s, s.guard0 t = true → s.curCore.carveTo = none → (s.ea t).toNat % 64 ≠ 0 →
      faults i t s (aligned (s.ea t) 64))
  ∧ (∀ t s p, s.acts 0x300 t → s.curCore.carveTo = none → record t s p → (s.opb t).toNat % 64 ≠ 0 →
      faults .cpostQ t s (aligned (s.opb t) 64))
  ∧ (∀ t s p v s' i, s.acts 0x300 t → free s → record t s p → (s.opb t).toNat % 64 = 0 →
      s.clearWay s.cur.core (s.opb t).toNat = .ok v →
      v.unitAdd { s.engineParty s.cur.core .cx with slot := none } (s.opb t).toNat 1 = .ok (s', i) → s'.acts 0x300 t →
      ∃ u, exec (.cpostQ t) s = .next u
        ∧ Leaves s' (queued s' (.post p (s'.opb t) i) [] []) u (s'.sends t.dst 1 (.word (BitVec.ofNat 64 i))))
  ∧ (∀ q ∈ [(Instr.fefill, 0x306, true), (.feempty, 0x307, false)],
    let n := fun (t : Tpl) => t.imm.toNat % 65536
    let fits := fun (t : Tpl) (s : State) => (s.opa t).toNat < 2 ^ 24 ∧ (s.opa t).toNat + 128 * n t ≤ spSize s.curCore.theJob
    (∀ t s, s.guard0 t = true → n t ≠ 0 → (s.opa t).toNat % 128 ≠ 0 → faults q.1 t s (aligned (s.opa t) 128))
    ∧ (∀ t s, s.guard0 t = true → n t ≠ 0 → (s.opa t).toNat % 128 = 0 → s.curCore.carveTo = none → ¬ fits t s →
        faults q.1 t s (outside s (s.opa t).toNat))
    ∧ (∀ t s, s.acts q.2.1 t → n t = 0 → ∃ u, exec (q.1 t) s = .next u ∧ Leaves s s u [])
    ∧ ∀ t s, s.acts q.2.1 t → free s → (s.opa t).toNat % 128 = 0 → fits t s → n t ≠ 0 →
        posts q.1 t s (.fe q.2.2 (s.opa t).toNat (n t)) [] [((s.opa t).toNat, (s.opa t).toNat + 128 * n t - 1)])
  ∧ (∀ t s r, s.acts 0x309 t → free s → record t s r → buffer s r → posts .lbset t s (.lbset (t.mod.toNat % 4) r) [] [])
  ∧ (∀ t s r, s.acts 0x309 t → free s → record t s r → ¬ buffer s r → ∃ f, faults .lbset t s f ∧ (f.code = .copyInvalid ∨ f.code = .scratchpadRange))
  ∧ (∀ t s b, s.acts 0x30A t → free s → window t s = some b →
      posts .lbadv t s (.advance (t.mod.toNat % 4) (t.imm.toNat % 256) (t.imm.toNat / 256 % 64) (t.imm.getLsbD 14)) []
        (rowsSpan b.record (b.newRows (t.imm.toNat % 256))))
  ∧ (∀ t s, s.guard0 t = true → s.curCore.carveTo = none → window t s = none → faults .lbadv t s (badPacket 0x18))
  ∧ ∀ t s, s.acts 0x30B t → free s →
      let n := t.imm.toNat % 65536
      let dst := (s.opa t).toNat
      let src := (s.opb t).toNat
      let size := spSize s.curCore.theJob
      let x := s.cur.core % 4
      let y := s.cur.core % 8 / 4
      let near := match t.mod.toNat % 4 with
        | 0 => if x = 0 then none else some (s.cur.core - 1)
        | 1 => if x = 3 then none else some (s.cur.core + 1)
        | 2 => if y = 0 then none else some (s.cur.core - 4)
        | _ => if y = 1 then none else some (s.cur.core + 4)
      if n = 0 then faults .chalo t s (badPacket 0)
      else if dst % 128 ≠ 0 then faults .chalo t s (aligned (s.opa t) 128)
      else if src % 128 ≠ 0 then faults .chalo t s (aligned (s.opb t) 128)
      else if size < dst + 128 * n then faults .chalo t s (outside s dst)
      else if size < src + 128 * n then faults .chalo t s (outside s src)
      else if near.any (fun d => !s.sameTeam s.cur.core d) then faults .chalo t s (outside s src)
      else posts .chalo t s (.halo (t.mod.toNat % 4) n dst src (t.imm.toNat / 2 ^ 16 % 16) (t.imm.toNat / 2 ^ 21 % 64) (t.imm.getLsbD 20)
        (t.imm.getLsbD 27)) [] [(dst, dst + 128 * n - 1)]

/-- The byte-counting barriers of a cluster: `bcpost` adds to the expected bytes and answers the generation, or faults where 2^48 would be
reached; `bcwait` waits while the generation is the one given, then answers it with a cluster acquire; `bcwait.rd` answers it at once;
`bcwait.arm` arms a tag on its change, or sets the tag (R274, R275, R277). Completes: BCPOST, BCWAIT, BCWAIT_RD, BCWAIT_ARM. -/
def Obligations.BarrierWords : Prop :=
  let b := fun (t : Tpl) => t.imm.toNat % 16
  let k := fun (s : State) => clusterOf s.cur.core
  let bar := fun (t : Tpl) (s : State) => sget {} (s.cluster (k s)).bars (b t)
  let posted := fun (t : Tpl) (s : State) =>
    (((s.cluster (k s)).barAdds.filter fun e => e.1 == b t).map fun e => e.2.1.getD 0).sum
  let past := fun (t : Tpl) (s : State) => 2 ^ 48 ≤ (bar t s).exp + posted t s + (s.opa t).toNat
  DoesWhen .bcpost 0x30D (fun t s => ¬ past t s) (fun t s u =>
    Leaves s (s.updCluster (k s) fun q => { q with barAdds := q.barAdds ++ [(b t, some (s.opa t).toNat, 0)] }) u
      (s.sends t.dst 1 (.word ((bar t s).gen.setWidth 64))))
  ∧ (∀ t s, s.guard0 t = true → past t s → ∃ u, exec (.bcpost t) s = .next u ∧ (u.halt s.curCore.theJob.part).raised = true
      ∧ (∃ r ∈ (u.halt s.curCore.theJob.part).faults, r.code = 0x0F ∧ r.det1 = BitVec.ofNat 64 (b t) ∧ r.det2 = BitVec.ofNat 64 (bar t s).arr)
      ∧ u.clusters = s.clusters ∧ (u.core s.cur.core).pend = s.curCore.pend)
  ∧ DoesWhen .bcwait 0x30E (fun t s => (bar t s).gen ≠ (s.opa t).setWidth 16) (fun t s u =>
      Leaves s (s.acquire s.cur.core 1) u (s.sends t.dst 1 (.word ((bar t s).gen.setWidth 64))))
  ∧ (∀ t s, s.guard0 t = true → (bar t s).gen = (s.opa t).setWidth 16 →
      exec (.bcwait t) s = .next (s.updCurStrm fun st => { st with blocked := true }))
  ∧ Results .bcwaitRd 0x30E 1 (fun t s => (bar t s).gen.setWidth 64)
  ∧ Does .bcwaitArm 0x30E fun t s u =>
      let tag := t.imm.toNat / 16 % 64
      Leaves s (s.updCur fun c =>
        let rest := c.cx.arms.filter fun a => a.1 != b t
        if (bar t s).gen = (s.opa t).setWidth 16 then { c with cx := { c.cx with arms := rest ++ [(b t, (s.opa t).toNat % 65536, tag)] } }
        else { c with cx := { c.cx with arms := rest }, tagSets := c.tagSets ++ [(tag, 1)] }) u []

/-! ## Matrix words and the matrix engine -/

/-- The words of MX: a command enters the queue with the operands, the GTC and the stamp of its issue and with its scratchpad ranges; `mcnt` by
value and `mstamp` act as they issue; a full queue, a counter read that has yet to write a scalar the word reads, or a new carve-out on its
way where the word names scratchpad, makes MX wait, and a full range checker holds the core's cycle (R58, R200, R203, R206, R209, R220,
R243, R331). Completes: MLOAD, MLOAD_CV, MLOAD_SC, MSTORE, MSTORE_SC, MZERO, MMOV, MMOV_CV, MTR, MMA, MDRAIN, MDRAIN_X, MKAT, MSLOT, MCNT,
MCNT_SET, MCLR, MTHR, MPAIR, MSTAMP, MSTAMP_NOW, MSTAMP_ADD, MSCL, MWAIT_SCNT, MWAIT_TAGS, MWAIT_LINE, MWAIT_TAKE, MWAIT_IDLE, MWAIT_POST,
NMV, NMV_ACC. -/
def Obligations.MatrixWords : Prop :=
  let busy := fun (o : Nat) (t : Tpl) (s : State) => s.curCore.mx.scalarBusy (scalarCodes o t) = true
  let held := fun (o : Nat) (t : Tpl) (s : State) => busy o t s ∨ (s.curCore.carveTo.isSome = true ∧ mxNamesSp o t = true)
  let room := fun (s : State) => s.curCore.roomFor 0 (s.curCore.queueLen 0) = true
  let ranged := fun (o : Nat) (t : Tpl) (s : State) => (mxRanges o t s).1 ≠ [] ∨ (mxRanges o t s).2 ≠ []
  let waits := fun (i : Instr) (s : State) => exec i s = .next (s.updCurStrm fun st => { st with blocked := true })
  let stamp := fun (o : Nat) (t : Tpl) (s : State) =>
    if o = 0x205 ∨ o = 0x209 ∨ o = 0x20D then some (s.curCore.mx.sbase + BitVec.ofNat 64 (t.ext.toNat % 2 ^ 30)).toNat else none
  (∀ p ∈ [(Instr.mload, 0x200), (.mloadCv, 0x200), (.mloadSc, 0x200), (.mstore, 0x201), (.mstoreSc, 0x201), (.mzero, 0x202), (.mmov, 0x203),
      (.mmovCv, 0x203), (.mtr, 0x204), (.mma, 0x205), (.mdrain, 0x206), (.mdrainX, 0x207), (.mkat, 0x208), (.mslot, 0x209), (.mcnt, 0x20A),
      (.mclr, 0x20B), (.mthr, 0x20C), (.mpair, 0x20D), (.mscl, 0x20F), (.mwaitScnt, 0x210), (.mwaitTags, 0x210), (.mwaitLine, 0x210),
      (.mwaitTake, 0x210), (.mwaitIdle, 0x210), (.mwaitPost, 0x210), (.nmv, 0x211), (.nmvAcc, 0x212)],
    DoesWhen p.1 p.2 (fun t s => ¬ held p.2 t s ∧ room s ∧ (ranged p.2 t s → s.curCore.ranges.length < 32)) (fun t s u =>
      let cmd : MxCmd :=
        { seq := s.curCore.mx.nextSeq, pc := s.curStrm.pc, o := p.2, t := t, opa := s.opa t, opb := s.opb t, opc := s.opc t, gtc := s.gtc
          stamp := stamp p.2 t s, susp := s.curCore.mx.ssus, phase := s.curCore.phase.toNat, ord := s.curCore.issueOrd }
      Leaves s (s.updCur fun k => { k with
        mx := { k.mx with queue := k.mx.queue ++ [cmd], nextSeq := k.mx.nextSeq + 1 }
        ranges := k.ranges ++ (if (mxRanges p.2 t s).1 = [] ∧ (mxRanges p.2 t s).2 = [] then []
          else [{ stamp := s.gtc, engine := .mx, seq := cmd.seq, reads := (mxRanges p.2 t s).1, writes := (mxRanges p.2 t s).2 }]) }) u [])
    ∧ (∀ t s, held p.2 t s → waits (p.1 t) s)
    ∧ (∀ t s, ¬ held p.2 t s → ¬ room s → exec (p.1 t) s = .next ((s.updCur fun k =>
        { k with poolHeld := k.poolHeld || decide (k.mx.queue.length < k.theJob.depth 0) }).updCurStrm fun st => { st with blocked := true }))
    ∧ ∀ t s, ¬ held p.2 t s → room s → ranged p.2 t s → 32 ≤ s.curCore.ranges.length →
        exec (p.1 t) s = .next (s.updCur fun k => { k with holdReq := true }))
  ∧ (DoesWhen .mcntSet 0x20A (fun t s => ¬ busy 0x20A t s) fun t s u => SendsWord 1 (s.opa t + simm t) t s u)
  ∧ (∀ p ∈ [(Instr.mstamp, fun (t : Tpl) (s : State) => s.opa t + simm t), (.mstampNow, fun t s => BitVec.ofNat 64 (s.gtc / 4) + simm t),
      (.mstampAdd, fun t s => s.curCore.mx.sbase + simm t)],
    DoesWhen p.1 0x20E (fun t s => ¬ busy 0x20E t s) fun t s u =>
      Leaves s (s.updCur fun k => { k with mx := { k.mx with
        sbase := p.2 t s, ssus := k.mx.ssus && decide (s.power.curt.toNat % 8 ≠ 0) } }) u [])
  ∧ ∀ i ∈ [Instr.mcntSet, Instr.mstamp], ∀ t s, busy (if i t = .mcntSet t then 0x20A else 0x20E) t s → waits (i t) s

/-- The events of the matrix engine: when a command starts and the state it leaves the queue in; a register result, its scratchpad lines and its
counters when it completes; the deadline; the threshold trap; the partial and the acknowledgement of a pair; the end of a known-answer
window; a block of a near-memory product. Each leaves committed memory and every core it does not name as they were, and does nothing where
nothing is due (R201, R202, R208, R222, R226, R228, R231, R232). Completes: MX_COMMAND_START, MX_COMMAND_COMPLETE, SCHEDULE_MISS,
COUNTER_THRESHOLD_TRAP, PAIR_PARTIAL_ARRIVE, PAIR_ACK_ARRIVE, KAT_WINDOW_CLOSE, NMV_BLOCK_COMPLETE. -/
def Obligations.MatrixEvents : Prop :=
  let mx := fun (s : State) (c : Nat) => (s.core c).mx
  let others := fun (s u : State) (c : Nat) => ∀ d, d ≠ c → u.core d = s.core d
  let stays := fun (i : Instr) (s : State) => exec i s = .next s
  (∀ s c, (mx s c).queue = [] → stays (.mxCommandStart c) s)
  ∧ (∀ s c h q, (mx s c).queue = h :: q → (s.mxMayStart c = false ∨ s.gtc ≤ h.gtc ∨ s.mxPast c h = true ∨ s.tileAhead c h.gtc = true) →
      exec (.mxCommandStart c) s = .next (s.updCore c fun k => { k with mx := { k.mx with idle := true } }))
  ∧ (∀ s c h q r t, (mx s c).queue = h :: q → (∀ d ∈ q, d.seq ≠ h.seq) → s.mxMayStart c = true → h.gtc < s.gtc → s.mxPast c h = false →
      s.tileAhead c h.gtc = false → h.o ≠ 0x208 → s.admits c (some (h.energy (s.core c))) = true → r.pair ≠ 1 →
      let closed := s.updCore c fun k => { k with mx := { k.mx with kat := none } }
      closed.mxTry c h = .go r t → (t.core c).mx = mx closed c →
      ∃ u, exec (.mxCommandStart c) s = .next u ∧ (mx u c).queue = q ∧ (mx u c).running = (mx s c).running ++ [r] ∧ (mx u c).kat = none
        ∧ others t u c ∧ u.mem = t.mem ∧ (u.core c).vec = (t.core c).vec ∧ (u.core c).acc = (t.core c).acc
        ∧ (u.core c).tile = (t.core c).tile)
  ∧ (∀ s c n, (∀ r ∈ (mx s c).running, r.cmd.seq ≠ n) → stays (.mxCommandComplete c n) s)
  ∧ (∀ s c n r, (mx s c).running.find? (fun q => q.cmd.seq == n) = some r → r.landed = false → r.land ≤ r.age → r.pair = 0 →
      r.out.rows = [] → r.out.mismatch = false →
      ∃ u, exec (.mxCommandComplete c n) s = .next u ∧ others s u c ∧ u.mem = s.mem
        ∧ (u.core c).pend = (s.core c).pend
            ++ r.out.tiles.map (fun p => { strm := .mx, ord := (s.core c).issueOrd, dst := .tileAll p.1, due := (s.core c).now, val := .elems p.2 })
            ++ r.out.accs.map (fun p => { strm := .mx, ord := (s.core c).issueOrd, dst := .accAll p.1, due := (s.core c).now, val := .elems p.2 })
            ++ (match r.out.scalar with
              | some (m, v) => ((bindDst ((s.core c).strm .mx) .mx m).map fun d =>
                  ({ strm := .mx, ord := (s.core c).issueOrd, dst := d, due := (s.core c).now, val := .word v } : Pend)).toList
              | none => [])
        ∧ (∀ q ∈ (mx u c).running, q.cmd.seq = n → q.landed = true)
        ∧ (u.core c).dropRanges.ranges = if r.cmd.o = 0x211 ∨ r.cmd.o = 0x212 then (s.core c).dropRanges.ranges
            else (s.core c).dropRanges.ranges.filter fun a => !(a.engine == .mx && a.seq == n))
  ∧ (∀ s c, s.mxLate c = none → stays (.scheduleMiss c) s)
  ∧ (∀ s c h, s.mxRuns c = true → s.mxLate c = some h → h.o ≠ 0x200 → ∃ u, exec (.scheduleMiss c) s = .next u
      ∧ (u.halt (s.core c).theJob.part).raised = true ∧ (u.core c).mxs.trapped = true ∧ others s u c ∧ u.mem = s.mem
      ∧ ∃ r ∈ (u.halt (s.core c).theJob.part).faults, r.code = 0x0A ∧ r.pc = h.pc ∧ r.det1 = BitVec.ofNat 64 (h.stamp.getD (h.ready.getD 0))
          ∧ r.det2 = BitVec.ofNat 64 (s.mxEdge c h))
  ∧ (∀ s c h, s.mxRuns c = true → s.mxLate c = some h → h.o = 0x200 → h.t.mod.toNat % 4 ∈ [1, 2] → (s.core c).fmtq = [] →
      ∃ u, exec (.scheduleMiss c) s = .next u ∧ others s u c ∧ ∃ r ∈ (u.halt (s.core c).theJob.part).faults, r.code = 0x09 ∧ r.pc = h.pc)
  ∧ (∀ s c, (mx s c).crossed = [] → stays (.counterThresholdTrap c) s)
  ∧ (∀ s c set kind l, (mx s c).crossed = (set, kind) :: l → ∃ u, exec (.counterThresholdTrap c) s = .next u
      ∧ u = { s with cores := u.cores } ∧ others s u c ∧ u.core c = { s.core c with
          trapBits := (s.core c).trapBits ||| 4
          trapCode := if (s.core c).trapSync then (s.core c).trapCode else BitVec.ofNat 32 (set + kind * 256)
          trapStrm := if (s.core c).trapSync then (s.core c).trapStrm else if set = 9 then 3 else 4
          mx := { mx s c with crossed := l, stopped := true } })
  ∧ (∀ s c, ((mx s c).partials = [] ∨ (mx s c).pairBuf ≠ none) → stays (.pairPartialArrive c) s)
  ∧ (∀ s c p l, (mx s c).partials = p :: l → (mx s c).pairBuf = none → (∀ r ∈ (mx s c).running, r.pair ≠ 1) →
      exec (.pairPartialArrive c) s = .next (s.updCore c fun k => { k with mx := { k.mx with partials := l, pairBuf := some p } }))
  ∧ (∀ s c, (mx s c).acks = [] → stays (.pairAckArrive c) s)
  ∧ (∀ s c n l, (mx s c).acks = n :: l → ∃ u, exec (.pairAckArrive c) s = .next u ∧ u = { s with cores := u.cores } ∧ others s u c
      ∧ u.core c = { s.core c with mx := { mx s c with acks := l, running := (mx u c).running } }
      ∧ (mx u c).running = (mx s c).running.map fun r => if r.pair = 2 ∧ r.sent = true ∧ r.cmd.stamp = some n then { r with landed := true } else r)
  ∧ (∀ s c, (mx s c).kat = none → stays (.katWindowClose c) s)
  ∧ (∀ s c e, (mx s c).kat = some e → (e ≤ s.gtc ∨ ∃ h q, (mx s c).queue = h :: q ∧ h.o ≠ 0x208) →
      exec (.katWindowClose c) s = .next (s.updCore c fun k => { k with mx := { k.mx with kat := none } }))
  ∧ (∀ s c n b, (∀ x ∈ (mx s c).nmvs, x.seq ≠ n) → stays (.nmvBlockComplete c n b) s)
  ∧ ∀ s c n b x ys, (mx s c).nmvs.find? (fun y => y.seq == n) = some x → 256 * b < x.m → b ∉ x.done →
      (∃ r ∈ s.mem.bd, r.nmv = some (c, n, b) ∧ r.replied = true) →
      (List.range (min 256 (x.m - 256 * b))).mapM (fun i => s.nmvResult c x (256 * b + i)) = .ok ys → (∀ y ∈ ys, y.2 = none) →
      ∃ u, exec (.nmvBlockComplete c n b) s = .next u ∧ others s u c ∧ u.mem = { s.mem with bd := u.mem.bd }
        ∧ (∀ r ∈ u.mem.bd, r.nmv ≠ some (c, n, b))
        ∧ if x.done.length + 1 = (x.m + 255) / 256 then
            (∀ y ∈ (mx u c).nmvs, y.seq ≠ n) ∧ (u.core c).tagSets = (s.core c).tagSets ++ [(x.tag, 0)]
          else (u.core c).tagSets = (s.core c).tagSets ∧ ∀ y ∈ (mx u c).nmvs, y.seq = n → b ∈ y.done

/-! ## Tile words and tile instructions -/

/-- The words that hand a tile instruction to the acceptor of its level: the descriptor is read, merged with its base slot and checked, and the
instruction stands with its context, its descriptor and auxiliary record and the root of its tree, outstanding in its core; `tsync` holds
its stream for it, `tbar` and `tsync` wait for every earlier one; with the level of another device it goes to that device. `tdesc` writes
its base slot and may set a tag. A descriptor that a check refuses faults, as do a bad level and a misaligned address; with eight
outstanding the core's cycle is held; a descriptor that is not there yet freezes the core as a load does, and the word stands in the queue
of its accesses (R58, R174, R175, R176, R178, R179, R180, R188). Completes: TMMA, TCONV, TNMV, TMAP, TRED, TCOPY, TKAT, TBAR, TDESC, TSYNC. -/
def Obligations.TileWords : Prop :=
  let code := fun (t : Tpl) => t.mod.toNat % 8
  let dev := fun (t : Tpl) (s : State) => (s.opb t).toNat % 1024
  let lvl := fun (t : Tpl) (s : State) => if code t = 5 ∧ dev t s = s.mem.devId then 4 else code t
  let loaded := fun (s : State) (sp : Bool) (a : Nat) (d : BitVec 512) => ∃ bs : List PByte,
    s.tileLoad s.cur.core s.cur.strm s.curCore.issueOrd sp a = .ok bs ∧ (∀ b ∈ bs, b.2 = false) ∧ d = BitVec.ofNat 512 (leNat (bs.map (·.1)))
  let merged := fun (s : State) (raw : BitVec 512) =>
    let slot : BitVec 512 := sget 0 s.curStrm.slots (elem raw 8 3 % 16)
    if raw.getLsbD 12 then packElems 512 8 (fun i => if i < 4 ∨ elem raw 8 i ≠ 0 then elem raw 8 i else elem slot 8 i) 64 else raw
  let pointer := fun (d : BitVec 512) => d.toNat / 2 ^ 384 % 2 ^ 64
  let aux := fun (kind : Nat) (s : State) (d x : BitVec 512) =>
    let p := pointer d
    let sp := p.testBit 63 && !p.testBit 56
    if kind = 7 ∨ kind = 9 ∨ p = 0 then x = 0 else loaded s sp (if sp then p % 2 ^ 28 else p) x
  let absent := fun (kind : Nat) (d : BitVec 512) => kind = 7 ∨ kind = 9 ∨ pointer d = 0
  let found := fun (t : Tpl) (s : State) (d : BitVec 512) => s.guard0 t = true ∧ (s.ea t).toNat % 64 = 0 ∧ s.curCore.carveTo = none
    ∧ ∃ raw, loaded s (t.mod.getLsbD 3) (s.ea t).toNat raw ∧ d = merged s raw
  let held := fun (s : State) => s.curCore.tilesOut.length + ((s.curCore.memq ++ s.curCore.savedOps).filter fun o => o.kind.isTile).length
  let room := fun (s : State) => s.curCore.roomFor 5 (held s) = true
  let instruction := fun (kind : Nat) (t : Tpl) (s : State) (d x : BitVec 512) (remote : Option Nat) =>
    let c := s.cur.core
    let j := s.curCore.theJob
    ({ id := s.nextTile, core := some c, strm := s.cur.strm, pc := s.curStrm.pc, ctx := j.ctx, ctag := j.ctag, part := j.part
       slot := j.slot, node := j.node, kind := kind, level := lvl t s, desc := d, aux := x, clusters := (s.part j.part).clusters
       ord := s.curCore.issueOrd, waits := if kind = 7 ∨ kind = 9 then s.curCore.tilesOut else []
       nodes := if remote.isSome then [] else
         [{ id := 0, parent := none, level := lvl t s, path := 0xFFFFFF
            unit := if lvl t s = 1 then c else if lvl t s = 2 then clusterOf c else if lvl t s = 3 then dieOf (clusterOf c) else 0
            reg := { m0 := 0, m1 := tdM d, n0 := 0, n1 := tdN d, k0 := 0, k1 := if kind ≤ 1 then tdK d else 1 } }]
       remote := remote } : TileIns)
  let placed := fun (kind : Nat) (t : Tpl) (s : State) (d x : BitVec 512) (remote : Option Nat) =>
    let base := match remote with
      | some n => s.joinFabric s.curCore.theJob.ctx n
      | none => s
    { base with tiles := s.tiles ++ [instruction kind t s d x remote], nextTile := s.nextTile + 1 }.updCur fun k =>
      { k with tilesOut := k.tilesOut ++ [s.nextTile] }
  (∀ p ∈ [(Instr.tmma, 0), (.tconv, 1), (.tnmv, 2), (.tmap, 3), (.tred, 4), (.tcopy, 5), (.tkat, 6), (.tbar, 7), (.tsync, 9)],
    let o := 0x280 + p.2
    let good := fun (t : Tpl) (s : State) (d x : BitVec 512) => found t s d ∧ aux p.2 s d x ∧ descCheck p.2 (lvl t s) d = none
      ∧ (absent p.2 d ∨ auxCheck p.2 d x = none) ∧ shapeCheck p.2 (lvl t s) d x = none
    (∀ t s, s.guard0 t = true → (code t = 0 ∨ 6 ≤ code t) → exec (p.1 t) s = .next (s.faultCur { code := .tileInvalid }))
    ∧ (∀ t s, s.guard0 t = true → 1 ≤ code t → code t ≤ 5 → (s.ea t).toNat % 64 ≠ 0 →
      exec (p.1 t) s = .next (s.faultCur { code := .dataAlignment, addr := s.ea t, det1 := 64 }))
    ∧ (∀ t s d f, 1 ≤ code t → code t ≤ 5 → room s → found t s d → descCheck p.2 (lvl t s) d = some f → exec (p.1 t) s = .next (s.faultCur f))
    ∧ (∀ t s d x f, 1 ≤ code t → code t ≤ 5 → room s → found t s d → descCheck p.2 (lvl t s) d = none → aux p.2 s d x →
      (absent p.2 d ∨ auxCheck p.2 d x = none) → shapeCheck p.2 (lvl t s) d x = some f → exec (p.1 t) s = .next (s.faultCur f))
    ∧ (∀ t s d x, s.acts o t → 1 ≤ code t → (code t ≤ 4 ∨ (code t = 5 ∧ dev t s = s.mem.devId)) → room s → good t s d x →
      ∃ u, exec (p.1 t) s = .next u
        ∧ if p.2 = 9 then ∃ q : MemOp, Leaves s ((placed p.2 t s d x none).updCurStrm fun st => { st with hold := some q }) u []
            ∧ q.hold = some (.tiles [s.nextTile]) ∧ q.stage = 2 ∧ q.kind = .none
          else Leaves s (placed p.2 t s d x none) u [])
    ∧ (∀ t s d x, s.acts o t → code t = 5 → dev t s ≠ s.mem.devId → dev t s < s.mem.domain → s.reachable (dev t s) = true → room s →
      good t s d x → ∃ u, exec (p.1 t) s = .next u ∧ Leaves s (placed p.2 t s d x (some (dev t s))) u []
        ∧ dev t s ∈ (u.ctx s.curCore.theJob.ctx).fabset)
    ∧ (∀ t s d x, code t = 5 → dev t s ≠ s.mem.devId → (s.mem.domain ≤ dev t s ∨ s.reachable (dev t s) = false) → room s → good t s d x →
      exec (p.1 t) s = .next (s.faultCur { code := .tileInvalid, det1 := 0xFFFF }))
    ∧ (∀ t s, s.guard0 t = true → 1 ≤ code t → code t ≤ 5 → (s.ea t).toNat % 64 = 0 → s.curCore.carveTo = none → ¬ room s →
      exec (p.1 t) s = .next ((s.updCur fun k =>
        { k with poolHeld := k.poolHeld || decide (held s < k.theJob.depth 5) }).updCur fun k => { k with holdReq := true }))
    ∧ ∀ t s s', s.acts o t → 1 ≤ code t → code t ≤ 5 → (s.ea t).toNat % 64 = 0 → s.curCore.carveTo = none → s.curCore.memq = [] → room s →
      s.tileLoad s.cur.core s.cur.strm s.curCore.issueOrd (t.mod.getLsbD 3) (s.ea t).toNat = .error (.wait s') →
      ∃ u q, exec (p.1 t) s = .next u
        ∧ Leaves s ((s.updMem fun m => { m with walks := s'.mem.walks }).updCur fun k => { k with memq := [q] }) u []
        ∧ q.kind = .tile p.2 (code t) (s.opb t) ∧ q.stage = 2 ∧ q.lanes.map (·.va) = [(s.ea t).toNat])
  ∧ (∀ t s d, s.acts 0x288 t → found t s d → descCheck 8 1 d = none → ∃ u, exec (.tdesc t) s = .next u
      ∧ Leaves s ((s.updCurStrm fun st => { st with slots := sset 0 st.slots (elem d 8 3) d }).updCur fun k =>
          if d.getLsbD 8 then { k with tagSets := k.tagSets ++ [(elem d 8 2, 0)] } else k) u [])
  ∧ ∀ t s d f, found t s d → descCheck 8 1 d = some f → exec (.tdesc t) s = .next (s.faultCur f)

/-! ## Word-level forms -/

/-- A patch word amends its copy of a template as F, V and H say, and nothing else of it; `stage` keeps the amended copy in the stream's buffer;
a template load writes the four data words; write-back and long-immediate words issue the amended copy, and where it passes the checks of
R80 they run the instruction it decodes to, else they raise the first check's trap, which writes nothing back. Both complete with a template
that is, or becomes, a `nop`: the copy stands in the table where it is written back, and nothing else changes. A template whose parity and
shadow are both bad is the template-parity fault (R68, R72, R73, R74, R75, R76, R77, R80). Completes: STAGE, ISSUE_AND_WRITE_BACK,
TEMPLATE_LOAD, LONG_IMMEDIATE. -/
def Obligations.WordForms : Prop :=
  let rows : List (Nat × Nat × Nat) := [(0, 104, 8), (1, 96, 8), (2, 88, 8), (3, 80, 8), (4, 32, 16), (5, 48, 16), (6, 0, 16), (7, 16, 16),
    (10, 75, 5), (11, 112, 6), (13, 16, 14), (14, 118, 10)]
  let sound := fun (s : State) (n : Nat) => Latent.template s.cur.core s.cur.strm n true ∉ s.mem.latent
    ∧ Latent.template s.cur.core s.cur.strm n false ∉ s.mem.latent
  let current := fun (s : State) (n : Nat) => match s.curStrm.stage with
    | some (m, w) => if m = n then w else sget 0 s.curStrm.table n
    | none => sget 0 s.curStrm.table n
  let marks := fun (s : State) (n : Nat) (l : Latent) =>
    l != .template s.cur.core s.cur.strm n false && l != .template s.cur.core s.cur.strm n true
  let fresh := fun (s : State) (n : Nat) => { s with mem := { s.mem with latent := s.mem.latent.filter (marks s n) } }
  let issuing := fun (s t : State) (n words : Nat) (wb : Bool) (copy : W128) => ∃ warns,
    t = { s with cur := { s.cur with words := words, tmpl := n, copy := copy, writeBack := wb, patchWarn := warns } }
  let runs := fun (i : Instr) (s : State) (n words : Nat) (wb : Bool) (copy : W128) =>
    let o := (copy.extractLsb' 118 10).toNat
    let tpl := unpackTpl copy
    let traps := fun (cause : TrapCause) => ∃ t, issuing s t n words wb copy ∧ exec i s = .next (t.syncCause s.cur.core s.cur.strm cause 0)
    let unknown := (decodeOpc o tpl).isNone = true ∨ streamAccepts s.cur.strm o = false
    let user := isSupervisorOp o = true ∧ s.curCore.theJob.level = 0
    (unknown → traps .illegal)
    ∧ (¬ unknown → user → traps .privileged)
    ∧ (¬ unknown → ¬ user → ((badRegister s.curCore.theJob.regsl o tpl).isSome = true ∨ tpl.slice = 3) →
        traps .illegal)
    ∧ ∀ j, ¬ unknown → ¬ user → (badRegister s.curCore.theJob.regsl o tpl).isNone = true → tpl.slice ≠ 3 → s.curCore.postHeld = false →
        decodeTpl copy = .ok j → ∃ t, issuing s t n words wb copy ∧ exec i s = match exec j t with
          | .next v => .next (if wb && (v.core s.cur.core).issueOrd != s.curCore.issueOrd then fresh v n else v)
          | o => o
  let idles := fun (i : Instr) (s : State) (n words : Nat) (wb : Bool) (copy : W128) =>
    ∀ tpl, decodeTpl copy = .ok (.nop tpl) → streamAccepts s.cur.strm 0x07E = true → s.curCore.postHeld = false → tpl.slice ≠ 3 →
      (badRegister s.curCore.theJob.regsl 0x07E (unpackTpl copy)).isNone = true →
      ∃ t u, issuing s t n words wb copy ∧ exec i s = .next u ∧ Leaves s (if wb then fresh t n else t) u []
        ∧ sget 0 ((u.core s.cur.core).strm s.cur.strm).table n = (if wb then copy else sget 0 s.curStrm.table n)
        ∧ ∀ m, m ≠ n → sget 0 ((u.core s.cur.core).strm s.cur.strm).table m = sget 0 s.curStrm.table m
  (∀ w h v, ∀ r ∈ rows, h < 8 → ∀ i < 128, (amend w r.1 h v).getLsbD i =
      if r.2.1 ≤ i ∧ i < r.2.1 + r.2.2 then v.testBit (i - r.2.1) else w.getLsbD i)
  ∧ (∀ w v, amend w 8 0 v = amend (amend w 0 0 (v / 256)) 1 0 v ∧ amend w 9 0 v = amend (amend w 2 0 (v / 256)) 3 0 v ∧ amend w 15 0 v = w)
  ∧ (∀ w v, unpackTpl (amend w 12 0 v) = { unpackTpl w with imm := (BitVec.ofNat 16 v).signExtend 32 })
  ∧ (∀ w f h v, f < 16 → 8 ≤ h → h < 16 → ∀ i < 128, (amend w f h v).getLsbD i =
      if 75 ≤ i ∧ i < 79 then decide (i < 78) && h.testBit (i - 75) else (amend w f 0 v).getLsbD i)
  ∧ (∀ n f h v s, sound s n → ∃ u, exec (.stage n f h v) s = .next u ∧ Leaves s s u []
      ∧ ((u.core s.cur.core).strm s.cur.strm).stage = some (n, amend (current s n) f h v)
      ∧ ((u.core s.cur.core).strm s.cur.strm).table = s.curStrm.table)
  ∧ (∀ n rsv (d0 d1 d2 d3 : W32) s, ∃ u, exec (.templateLoad n rsv d0 d1 d2 d3) s = .next u
      ∧ Leaves s (fresh s n) u []
      ∧ sget 0 ((u.core s.cur.core).strm s.cur.strm).table n = d3 ++ d2 ++ d1 ++ d0
      ∧ ((u.core s.cur.core).strm s.cur.strm).stage = s.curStrm.stage
      ∧ ∀ m, m ≠ n → sget 0 ((u.core s.cur.core).strm s.cur.strm).table m = sget 0 s.curStrm.table m)
  ∧ (∀ n f h v s, sound s n → runs (.issueAndWriteBack n f h v) s n 1 true (amend (current s n) f h v))
  ∧ (∀ n wb h rsv data s, h < 16 → sound s n →
      runs (.longImmediate n wb h rsv data) s n 2 wb (amend (putField (current s n) 32 32 data.toNat) 15 h 0))
  ∧ (∀ s n j t, (match s.curStrm.stage with
        | some (m, _) => m ≠ n
        | none => True) → Latent.template s.cur.core s.cur.strm n true ∈ s.mem.latent → j ∈ [Instr.issueAndWriteBack n t 0 0, .stage n t 0 0,
        .longImmediate n false 0 0 0] → exec j s = .next (s.faultCur { code := .templateParity, det1 := BitVec.ofNat 64 n }))
  ∧ (∀ n f h v s, sound s n → idles (.issueAndWriteBack n f h v) s n 1 true (amend (current s n) f h v))
  ∧ ∀ n wb h rsv data s, h < 16 → sound s n →
      idles (.longImmediate n wb h rsv data) s n 2 wb (amend (putField (current s n) 32 32 data.toNat) 15 h 0)

/-- The region an acceptor receives is cut into at most `C` parts, one for each child, that cover it without overlap (R190). -/
def Obligations.RegionCut : Prop :=
  ∀ (tm tn ks C : Nat) (ksplit : Bool) (r : Region), 0 < tm → 0 < tn → 0 < ks → 0 < C → r.m0 < r.m1 → r.n0 < r.n1 → r.k0 < r.k1 →
    let parts := ((cutRegion tm tn ks C ksplit r).2.2.2).map fun p => p.2.2.2
    parts.length ≤ C
    ∧ (∀ q ∈ parts, r.m0 ≤ q.m0 ∧ q.m1 ≤ r.m1 ∧ r.n0 ≤ q.n0 ∧ q.n1 ≤ r.n1 ∧ r.k0 ≤ q.k0 ∧ q.k1 ≤ r.k1)
    ∧ ∀ m n k, r.m0 ≤ m → m < r.m1 → r.n0 ≤ n → n < r.n1 → r.k0 ≤ k → k < r.k1 →
        (parts.filter fun q => decide (q.m0 ≤ m ∧ m < q.m1 ∧ q.n0 ≤ n ∧ n < q.n1 ∧ q.k0 ≤ k ∧ k < q.k1)).length = 1

/-- The events of tile instructions. Accepting a node: it stays out while its unit's partition is halted or pre-empted, an earlier
instruction of its core has work to start there (R189), its cluster's bucket refuses the charge or the range checker is full; else a level
cuts it for its children (R190, R191), a cluster staging its operands (R194), a core takes it as a command of its own (R195: the stamp of
the first `mma` is log entry 100's), and `tbar` and `tsync` start their wait. A reduction starts when every part has been made (R191). A node
makes its next output tile, and is complete with its last or with its children (R188, R190, R198). A packet from a peer waits for the Crown,
which takes the oldest as package-level work (R181, R264), and its completion returns; a peer's own answer, a completion or a violation, is
free (R181; log entry 102). Completes: TILE_CHILD_ACCEPT, TILE_CHILD_COMPLETE, TILE_REDUCTION_START, FABRIC_TILE_PACKET,
FABRIC_TILE_RETURN. -/
def Obligations.TileEvents : Prop :=
  let at' := fun (s : State) (i n : Nat) (t : TileIns) (x : TileNode) => s.tile i = some t ∧ t.find n = some x
  let goes := fun (s : State) (p level unit : Nat) => s.partRuns p = true ∧ s.unitPreempted p (tileUnit level unit) = false
  let stays := fun (i : Instr) (s : State) => exec i s = .next s
  let sync := fun (t : TileIns) => t.kind = 7 ∨ t.kind = 9
  let ahead := fun (s : State) (t : TileIns) (x : TileNode) => s.tileBehind t = true ∨ s.startsBehind t x = true
  let above := fun (t : TileIns) (x : TileNode) => ∀ p, x.parent = some p → ∃ y, t.find p = some y ∧ y.accepted = true
  let stores := fun (s : State) (t : TileIns) (x : TileNode) => ∃ c, x.parent = none ∧ t.core = some c ∧ s.storesAhead c t.ord = true
  let ready := fun (s : State) (t : TileIns) (x : TileNode) => x.accepted = false ∧ x.reduces = [] ∧ goes s t.part x.level x.unit ∧ above t x
    ∧ (sync t ∨ ¬ ahead s t x) ∧ ¬ stores s t x
  let taken := fun (s : State) (i n : Nat) (y : TileNode) (kids : List TileNode) =>
    { s with tiles := s.tiles.map fun u =>
        if u.id = i then { u with nodes := (u.nodes.map fun z => if z.id = n then { y with accepted := true } else z) ++ kids } else u }
  let set := fun (s : State) (t : TileIns) (y : TileNode) (pas : List Nat) =>
    { s with tiles := s.tiles.map fun u =>
        if u.id = t.id then { u with nodes := u.nodes.map (fun z => if z.id = y.id then y else z), pas := u.pas ++ pas } else u }
  let works := fun (s : State) (i n : Nat) (t : TileIns) (x : TileNode) => at' s i n t x ∧ x.accepted = true ∧ x.complete = false
    ∧ (x.level ≠ 0 → goes s t.part x.level x.unit)
    ∧ (x.level = 0 → ∃ p y, x.parent = some p ∧ t.find p = some y ∧ goes s t.part y.level y.unit) ∧ s.mayFinish t x = true
  (∀ s i n, s.tile i = none → ∀ e ∈ [Instr.tileChildAccept i n, .tileChildComplete i n, .tileReductionStart i n, .fabricTileReturn i], stays e s)
  -- what keeps a node from being accepted
  ∧ (∀ s i n t x, at' s i n t x → (x.accepted = true ∨ ¬ goes s t.part x.level x.unit ∨ x.reduces ≠ [] ∨ ¬ above t x
        ∨ (¬ sync t ∧ ahead s t x) ∨ stores s t x ∨ s.chargeChild x = none) → stays (.tileChildAccept i n) s)
  -- the charge of a child to its cluster: 1 event of weight 22 (R429, R438)
  ∧ (∀ (s : State) (x : TileNode), (x.parent = none ∨ x.level = 0 ∨ 3 ≤ x.level) → s.chargeChild x = some s)
  ∧ (∀ (s : State) (x : TileNode), x.parent ≠ none → (x.level = 1 ∨ x.level = 2) →
      let k := if x.level = 2 then x.unit else clusterOf x.unit
      let w := sget 0 s.power.weights (32 * s.clusterTable k + 22)
      if (s.cluster k).bucket < w then s.chargeChild x = none
      else ∃ u, s.chargeChild x = some u ∧ u = { s with clusters := u.clusters } ∧ (u.cluster k).bucket = (s.cluster k).bucket - w
        ∧ ∀ c, c ≠ k → u.cluster c = s.cluster c)
  -- `tbar` and `tsync`, stacks of `tnmv`, cores, and the levels above
  ∧ (∀ s i n t x u, at' s i n t x → ready s t x → s.chargeChild x = some u → sync t → exec (.tileChildAccept i n) s = .next (taken u i n x []))
  ∧ (∀ s i n t x u kids, at' s i n t x → ready s t x → s.chargeChild x = some u → t.kind = 2 → s.nmvSplit t x = .ok kids →
      exec (.tileChildAccept i n) s = .next (taken u i n x kids))
  ∧ (∀ s i n t x u e, at' s i n t x → ready s t x → s.chargeChild x = some u → t.kind = 2 → s.nmvSplit t x = .error e →
      exec (.tileChildAccept i n) s = .next (s.stopTile t e))
  ∧ (∀ s i n t x u, at' s i n t x → ready s t x → s.chargeChild x = some u → ¬ sync t → t.kind ≠ 2 → x.level ≤ 1 →
      exec (.tileChildAccept i n) s = .next (if (s.core x.unit).rangeFull = true ∧ s.leafRanges t x.unit ≠ ([], []) then s
        else u.acceptLeaf t x))
  ∧ (∀ s i n t x u, at' s i n t x → ready s t x → s.chargeChild x = some u → ¬ sync t → t.kind ≠ 2 → 2 ≤ x.level →
      (x.level ≠ 2 ∨ isMatrix t.kind = false) →
      exec (.tileChildAccept i n) s = .next (if s.tileSplit t x = [] then s else taken u i n x (s.tileSplit t x)))
  ∧ (∀ s i n t x u st, at' s i n t x → ready s t x → s.chargeChild x = some u → x.level = 2 → isMatrix t.kind = true →
      s.tileSplit t x ≠ [] → s.stageCluster t x = .ok st →
      exec (.tileChildAccept i n) s = .next (taken u i n { x with staged := st } (s.tileSplit t x)))
  ∧ (∀ s i n t x u e, at' s i n t x → ready s t x → s.chargeChild x = some u → x.level = 2 → isMatrix t.kind = true →
      s.tileSplit t x ≠ [] → s.stageCluster t x = .error e → exec (.tileChildAccept i n) s = .next (s.stopTile t e))
  ∧ (∀ (s : State) (t : TileIns) (x : TileNode), ∃ m, (isMatrix t.kind = false → m = none) ∧ (isMatrix t.kind = true → ∃ n, m = some n) ∧
      let y := { x with accepted := true, stamp := s.gtc, ord := s.tileOrd, mma := m }
      let v := { set s t y [] with free := s.free + 1, tileOrd := s.tileOrd + 1 }
      s.acceptLeaf t x = if s.leafRanges t x.unit = ([], []) then v
        else v.updCore x.unit fun k => { k with ranges := k.ranges ++ [{ stamp := s.gtc, engine := if isMatrix t.kind ∨ t.kind = 6 then .mx else .vx
                                                                         seq := 2 ^ 40 + s.tileOrd, reads := (s.leafRanges t x.unit).1
                                                                         writes := (s.leafRanges t x.unit).2 }] })
  -- reductions start
  ∧ (∀ s i n t x, at' s i n t x → x.reduces ≠ [] → x.accepted = false → goes s t.part x.level x.unit →
      if ∀ j ∈ x.reduces, ∃ y, t.find j = some y ∧ y.complete = true then exec (.tileReductionStart i n) s = .next (taken s i n x [])
      else stays (.tileReductionStart i n) s)
  ∧ (∀ s i n t x, at' s i n t x → (x.reduces = [] ∨ x.accepted = true ∨ ¬ goes s t.part x.level x.unit) → stays (.tileReductionStart i n) s)
  -- work goes on
  ∧ (∀ s i n t x, at' s i n t x → (x.accepted = false ∨ x.complete = true ∨ s.mayFinish t x = false ∨ (x.level ≠ 0 ∧ ¬ goes s t.part x.level x.unit)) →
      stays (.tileChildComplete i n) s)
  ∧ (∀ s i n t x, works s i n t x → sync t →
      if ∃ j ∈ t.waits, ∃ u ∈ s.tiles, u.id = j then stays (.tileChildComplete i n) s
      else exec (.tileChildComplete i n) s = .next (s.nodeDone t x []))
  ∧ (∀ s i n t x, works s i n t x → ¬ sync t → x.reduces ≠ [] →
      exec (.tileChildComplete i n) s = .next (if s.drawsBehind t then s else s.stepTile t (s.runReduction t x)))
  ∧ (∀ s i n t x r, works s i n t x → ¬ sync t → x.reduces = [] → x.level = 0 → t.skips x.reg.m0 0 = false → s.nmvLeaf t x = .ok r →
      exec (.tileChildComplete i n) s = .next (r.1.nodeDone t x r.2))
  ∧ (∀ s i n t x, works s i n t x → ¬ sync t → x.reduces = [] → x.level = 0 → t.skips x.reg.m0 0 = true →
      exec (.tileChildComplete i n) s = .next (s.nodeDone t x []))
  ∧ (∀ s i n t x, works s i n t x → ¬ sync t → x.reduces = [] → x.level = 1 → (x.started = false ∨ s.drawsBehind t = true) →
      stays (.tileChildComplete i n) s)
  ∧ (∀ s i n t x u y pas, works s i n t x → ¬ sync t → x.reduces = [] → x.level = 1 → x.started = true → s.drawsBehind t = false →
      s.runLeaf t x = .ok (u, y, pas, false) → exec (.tileChildComplete i n) s = .next (set u t y pas))
  ∧ (∀ s i n t x u y pas v z pas' d, works s i n t x → ¬ sync t → x.reduces = [] → x.level = 1 → x.started = true → s.drawsBehind t = false →
      s.runLeaf t x = .ok (u, y, pas, true) → u.finishLines t y = .ok (v, z, pas', d) →
      exec (.tileChildComplete i n) s = .next ((v.leafDone t z).nodeDone t z (pas ++ pas')))
  ∧ (∀ s i n t x e, works s i n t x → ¬ sync t → x.reduces = [] → x.level = 1 → x.started = true → s.drawsBehind t = false →
      s.runLeaf t x = .error e → exec (.tileChildComplete i n) s = .next (s.stopTile t e))
  ∧ (∀ s i n t x, works s i n t x → ¬ sync t → x.reduces = [] → 2 ≤ x.level →
      let kids := t.nodes.filter fun y => y.parent == some x.id
      if kids ≠ [] ∧ ∀ y ∈ kids, y.complete = true then
        exec (.tileChildComplete i n) s = .next (s.stepTile t (s.finishLines t (t.gather x)))
      else stays (.tileChildComplete i n) s)
  ∧ (∀ (s : State) (t : TileIns) (x : TileNode), (t.kind ≠ 4 ∨ x.parent.isSome = true) → s.finishLines t x = .ok (s, x, [], true))
  ∧ (∀ (s u : State) (t : TileIns) (x : TileNode) pas, s.stepTile t (.ok (u, x, pas, true)) = u.nodeDone t x pas
      ∧ s.stepTile t (.ok (u, x, pas, false)) = set u t x pas)
  ∧ (∀ (s : State) (t : TileIns) e, s.stepTile t (.error e) = s.stopTile t e)
  ∧ (∀ (s : State) (t : TileIns) (x : TileNode) pas, x.parent.isSome = true → s.nodeDone t x pas = set s t { x with complete := true } pas)
  ∧ (∀ (s : State) (t : TileIns) (x : TileNode) c, x.parent = none → s.tile t.id = some t → t.core = some c → t.pas = [] →
      ∃ u, s.nodeDone t x [] = u ∧ (∀ v ∈ u.tiles, v.id ≠ t.id) ∧ t.id ∉ (u.core c).tilesOut
        ∧ (u.core c).tagSets = (s.core c).tagSets ++ if t.desc.getLsbD 8 then [(elem t.desc 8 2, t.level - 1)] else [])
  -- the fabric level
  ∧ (∀ s link ctag d a ret, s.mem.staleAt (unitIngress link) ctag = false → s.mem.check unitCrown (856 + link) ctag 0 permT = .pass →
      exec (.fabricTilePacket link ctag d a ret) s =
        .next { s with fabTiles := s.fabTiles ++ [{ link := link, ctag := ctag, desc := d, aux := a, ret := ret }] })
  ∧ (∀ s link ctag d a ret u, s.mem.staleAt (unitIngress link) ctag = false → s.mem.check unitCrown (856 + link) ctag 0 permT = .denied u →
      exec (.fabricTilePacket link ctag d a ret) s = .next { s.countDenied (some u) with
        fw := { s.fw with answers := s.fw.answers ++ [(856 + link, 1, [])] } })
  ∧ (∀ s link ctag d a ret, s.mem.staleAt (unitIngress link) ctag = true →
      exec (.fabricTilePacket link ctag d a ret) s = .next (s.updMem fun m => m.countDrop (unitIngress link) (ctag.toNat / 64)))
  ∧ (∀ (s : State) ctag f, s.fabTiles.find? (fun f => f.ctag == ctag) = some f → s.mem.staleAt unitCrown ctag = false →
      (s.ctx (ctag.toNat / 64)).res = true → goes s (s.ctx (ctag.toNat / 64)).part 4 0 →
      (∀ t ∈ s.tiles, t.ctag = ctag → t.back = none) → (∀ q ∈ s.queues, q.2.server = 2 → q.2.ctag = ctag → q.2.busy = false) →
      elem f.desc 8 0 < 8 → descCheck (elem f.desc 8 0) 4 f.desc = none → elem f.desc 64 6 = 0 →
      shapeCheck (elem f.desc 8 0) 4 f.desc f.aux = none →
      ∃ v : TileIns, s.crownFabric ctag = { s with fabTiles := s.fabTiles.erase f, tiles := s.tiles ++ [v], nextTile := s.nextTile + 1,
                                                   queues := s.queues.map fun q =>
                                                     (q.1, if q.2.server = 2 ∧ q.2.ctag = ctag then { q.2 with busy := true } else q.2) }
        ∧ v.id = s.nextTile ∧ v.ctag = ctag ∧ v.kind = elem f.desc 8 0 ∧ v.level = 4 ∧ v.desc = f.desc ∧ v.aux = f.aux
        ∧ v.back = some (f.link, f.ret) ∧ v.core = none ∧ v.part = (s.ctx (ctag.toNat / 64)).part)
  ∧ (∀ s i t, s.tile i = some t → t.remote.isSome = true →
      let c := t.core.getD 0
      let v := { s with free := s.free + 1 }
      if s.tileBehind t = true ∨ ¬ goes s t.part 1 c then stays (.fabricTileReturn i) s
      else exec (.fabricTileReturn i) s = .next (v.finishTile { t with level := 5 })
        ∨ exec (.fabricTileReturn i) s = .next (({ v with tiles := s.tiles.filter fun u => u.id != i }.updCore c fun k =>
            { k with tilesOut := k.tilesOut.filter fun j => j != i }).raiseRecord t.part
              (t.stopRec s.gtc (coreSource c t.strm.code) 0xFFFFFF [] (violation 0 c permT))))
  ∧ (∀ s i t link ret, s.tile i = some t → t.remote = none → t.back = some (link, ret) → t.done = true →
      exec (.fabricTileReturn i) s = .next { s with tiles := s.tiles.filter fun u => u.id != i
                                                    queues := s.queues.map fun q =>
                                                      (q.1, if q.2.server = 2 ∧ q.2.ctag = t.ctag then { q.2 with busy := false } else q.2)
                                                    fw := { s.fw with answers := s.fw.answers ++ [(856 + link, 0, leBytes ret 8)] } })
  ∧ ∀ s i t, s.tile i = some t → t.remote = none → (t.back = none ∨ t.done = false) → stays (.fabricTileReturn i) s

/-! ## Events of copy engines and queues -/

/-- The events of copy engines. A command starts once the commands, ranges, buffers and stores before it allow (R254, R255, R258, R270,
R271): `fefill` and `feempty` then mark their lines and are done (R267), `lbset` sets its buffer (R271), an advance moves its window and empties
the slots of its new rows (R272), a queue post waits for room (R261), and a template overlay without its permission is the access violation
(R259, R334). A chunk moves up to 4 KiB. A command completes once every byte has been performed, setting its tag, arriving at its barrier and
leaving the range checker with the end of that engine cycle; its CPA add follows in a later one (R257, R269). Each does nothing before it
is due and while the engines of its core are stopped. Completes: COPY_START, COPY_CHUNK, COPY_COMPLETE, OVERLAY_COMPLETE. -/
def Obligations.CopyEvents : Prop :=
  let cmd := fun (s : State) (e n : Nat) (q : CopyCmd) => ((s.cxOf e).queue.find? fun c => c.seq == n) = some q
  let stays := fun (i : Instr) (s : State) => exec i s = .next s
  let put := fun (s : State) (e n : Nat) (q : CopyCmd) => s.updCx e fun x => { x with queue := x.queue.map fun c => if c.seq = n then q else c }
  let drop := fun (s : State) (e n : Nat) => s.updCx e fun x => { x with queue := x.queue.filter fun c => c.seq ≠ n }
  let runs := fun (s : State) (e : Nat) (q : CopyCmd) =>
    s.copyReady e q = true ∧ s.copyHeld e = false ∧ (e < 512 → s.mayOverlay e q = true)
  let leaves := fun (k : Core) (n : Nat) => k.rangesDone ++ if (k.rangeOf .cx n).isSome then [(StreamId.cx, n)] else []
  let marks := fun (s u : State) (e n : Nat) (l : List SpEvent) => (u.core e).spEvents = (s.core e).spEvents ++ l
    ∧ (u.core e).rangesDone = leaves (s.core e) n ∧ (u.core e).cx.queue = ((s.core e).cx.queue.filter fun c => c.seq ≠ n)
    ∧ u = s.updCore e fun k => { k with spEvents := (u.core e).spEvents, rangesDone := (u.core e).rangesDone, cx := (u.core e).cx }
  (∀ s e n, (∀ q, ¬ cmd s e n q) → ∀ i ∈ [Instr.copyStart e n, .copyChunk e n, .copyComplete e n, .overlayComplete e n], stays i s)
  ∧ (∀ s e n, e < 512 → s.enginesHeld e = true →
      ∀ i ∈ [Instr.copyStart e n, .copyChunk e n, .copyComplete e n, .overlayComplete e n], stays i s)
  -- starting
  ∧ (∀ s e n q, cmd s e n q → s.copyReady e q = false → stays (.copyStart e n) s)
  ∧ (∀ (s : State) e (q : CopyCmd), (q.started = true ∨ (∃ c ∈ (s.cxOf e).queue, c.seq < q.seq ∧ c.started = false)
        ∨ ((s.cxOf e).queue.filter fun c => c.started && !c.complete).length ≥ 8
        ∨ (∃ p o, q.kind = .copy p o ∧ p.getLsbD 11 = true ∧ ∃ c ∈ (s.cxOf e).queue, c.seq < q.seq ∧ c.complete = false)
        ∨ (∃ b, q.kind.buffer = some b ∧ ∃ c ∈ (s.cxOf e).queue, c.seq < q.seq ∧ c.complete = false ∧ c.kind.buffer = some b)
        ∨ (e < 512 ∧ (s.core e).rangeReady .cx q.seq = false)
        ∨ (e < 512 ∧ q.kind.readsVirtual = true ∧ s.storesAhead e q.ord = true)) ↔ s.copyReady e q = false)
  ∧ (∀ s e n q, e < 512 → cmd s e n q → s.copyReady e q = true → s.enginesHeld e = false → s.mayOverlay e q = false →
      exec (.copyStart e n) s = .next (s.stopCopy e q (.bad (violation 0 e permT))))
  ∧ (∀ s e n q p o, cmd s e n q → q.kind = .copy p o → runs s e q → exec (.copyStart e n) s = .next (put s e n { q with started := true }))
  ∧ (∀ s e n q dir l dst src bar tag bv tv, cmd s e n q → q.kind = .halo dir l dst src bar tag bv tv → runs s e q →
      exec (.copyStart e n) s = .next (put s e n { q with started := true }))
  ∧ (∀ s e n q off l, e < 512 → cmd s e n q → q.kind = .fe false off l → runs s e q → ∃ u, exec (.copyStart e n) s = .next u
      ∧ marks s u e n ((List.range l).map fun i => { rank := 2, line := off / 128 + i, fill := none }))
  ∧ (∀ s e n q off l, e < 512 → cmd s e n q → q.kind = .fe true off l → runs s e q → ∃ u, exec (.copyStart e n) s = .next u
      ∧ marks s u e n ((List.range l).map fun i => { rank := 2, line := off / 128 + i, fill := some (0, 0) }))
  ∧ (∀ s e n q k r, e < 512 → cmd s e n q → q.kind = .lbset k r → runs s e q → ∃ u, exec (.copyStart e n) s = .next u
      ∧ sfind (u.core e).cx.lbs k = some { record := r, top := (r.extractLsb' 256 32).toInt, held := false }
      ∧ (∀ j, j ≠ k → sfind (u.core e).cx.lbs j = sfind (s.core e).cx.lbs j)
      ∧ (u.core e).cx.queue = ((s.core e).cx.queue.filter fun c => c.seq ≠ n)
      ∧ u = s.updCore e fun c => { c with cx := { c.cx with queue := (u.core e).cx.queue, lbs := (u.core e).cx.lbs } })
  ∧ (∀ s e n q k step tag tv b, e < 512 → cmd s e n q → q.kind = .advance k step tag tv → runs s e q → sfind (s.core e).cx.lbs k = some b →
      let rows := b.newRows step
      ∃ u, exec (.copyStart e n) s = .next u
        ∧ sfind (u.core e).cx.lbs k = some { b with top := b.top + (step : Int), held := true }
        ∧ (∀ j, j ≠ k → sfind (u.core e).cx.lbs j = sfind (s.core e).cx.lbs j)
        ∧ (u.core e).cx.queue = ((s.core e).cx.queue.map fun c => if c.seq = n then { q with started := true, rows := rows } else c)
        ∧ (u.core e).spEvents = (s.core e).spEvents ++ (rows.flatMap fun y =>
            (List.range (rowSlot b.record y).2).map fun i => { rank := 2, line := (rowSlot b.record y).1 + i, fill := none })
        ∧ u = s.updCore e fun c => { c with spEvents := (u.core e).spEvents
                                            cx := { c.cx with queue := (u.core e).cx.queue, lbs := (u.core e).cx.lbs } })
  ∧ (∀ s e n q p hdr i w r base lg, cmd s e n q → q.kind = .post p hdr i → runs s e q →
      s.queueHeader (s.copyParty e q) hdr = .ok (w, r, base, lg) →
      exec (.copyStart e n) s = .next (if i < r + 2 ^ lg then put s e n { q with started := true } else s))
  ∧ (∀ s e n q p hdr i x, cmd s e n q → q.kind = .post p hdr i → runs s e q → s.queueHeader (s.copyParty e q) hdr = .error x →
      exec (.copyStart e n) s = .next (s.stopCopy e q x))
  -- moving bytes
  ∧ (∀ s e n q, cmd s e n q → (q.started = false ∨ q.complete = true ∨ q.total ≤ q.done) → stays (.copyChunk e n) s)
  ∧ (∀ s e n q, e < 512 → cmd s e n q → s.admits e (some (16, 0)) = false → stays (.copyChunk e n) s)
  ∧ (∀ s e n q t r, cmd s e n q → q.started = true → q.complete = false → q.done < q.total → s.copyHeld e = false →
      s.admits e (if e < 512 then some (16, 0) else none) = true → s.chunk e q = .ok (t, r) →
      ∃ u, exec (.copyChunk e n) s = .next u
        ∧ u = put { t with clusters := u.clusters } e n r)
  ∧ (∀ s e n q x, cmd s e n q → q.started = true → q.complete = false → q.done < q.total → s.copyHeld e = false →
      s.admits e (if e < 512 then some (16, 0) else none) = true → s.chunk e q = .error x →
      exec (.copyChunk e n) s = .next (s.stopCopy e q x))
  ∧ (∀ (s : State) e (q : CopyCmd) p o t r, q.kind = .copy p o → s.chunk e q = .ok (t, r) → r.done = q.done + Nat.min 4096 (q.total - q.done)
      ∧ r.kind = q.kind ∧ r.seq = q.seq ∧ r.started = q.started ∧ r.complete = q.complete)
  -- completing
  ∧ (∀ s e n q, cmd s e n q → q.complete = false → (q.started = false ∨ q.done < q.total ∨ ∃ p, q.kind = .copy p true) →
      stays (.copyComplete e n) s)
  ∧ (∀ s e n q, cmd s e n q → s.copyHeld e = false → q.complete = false → q.started = true → q.total ≤ q.done →
      (∀ p, q.kind ≠ .copy p true) → q.server = none →
      exec (.copyComplete e n) s = .next (if q.cpa = 0 then drop (s.endCommand e q) e n
        else put (s.endCommand e q) e n { q with complete := true, buf := [], past := decide (512 ≤ e) }))
  ∧ (∀ s e n q g i, cmd s e n q → s.copyHeld e = false → q.complete = false → q.started = true → q.total ≤ q.done →
      (∀ p, q.kind ≠ .copy p true) → q.server = some (g, i) →
      let u := s.publishServer (g.toNat / 64) q.completion.2.2 (sigOf q.pas)
      exec (.copyComplete e n) s = .next (if q.cpa = 0 then { drop u e n with served := s.served ++ [i] }
        else put u e n { q with complete := true, buf := [], past := decide (512 ≤ e) }))
  ∧ (∀ (s : State) c j g, ∃ l, s.publishServer c j g = { s with ctxs := l })
  ∧ (∀ (s : State) e (q : CopyCmd) p, e < 512 → q.kind = .copy p false →
      ((s.endCommand e q).core e).tagSets = (s.core e).tagSets ++ (if p.getLsbD 8 then [(elem p 8 2, elem p 8 6)] else [])
      ∧ ((s.endCommand e q).cluster (clusterOf e)).barAdds = (s.cluster (clusterOf e)).barAdds
          ++ (if p.getLsbD 9 then [(elem p 8 3, none, elem p 32 6 * elem p 32 7)] else [])
      ∧ ((s.endCommand e q).core e).rangesDone = leaves (s.core e) q.seq)
  ∧ (∀ s e n q, cmd s e n q → s.copyHeld e = false → q.complete = true →
      exec (.copyComplete e n) s = .next (if q.past then s.cpaAdd e q else s))
  -- overlays
  ∧ (∀ s e n q, cmd s e n q → (q.started = false ∨ q.complete = true ∨ q.done < q.total ∨ ∀ p, q.kind ≠ .copy p true) →
      stays (.overlayComplete e n) s)
  ∧ (∀ s e n q p, e < 512 → cmd s e n q → q.kind = .copy p true → s.copyHeld e = false → q.started = true → q.complete = false →
      q.total ≤ q.done →
      exec (.overlayComplete e n) s = .next (
        if elem p 8 5 = 3 ∧ ∃ b ∈ q.buf, b.2.2.2 ≠ 0 then
          drop ((s.consumePoison e (elem p 64 1)).updCore e fun k => k.rangeDone .cx n) e n
        else if q.cpa = 0 then drop ((s.endOverlay e q p).endCommand e q) e n
        else put ((s.endOverlay e q p).endCommand e q) e n { q with complete := true, buf := [] }))
  ∧ ∀ (s : State) e (q : CopyCmd) p, e < 512 →
      (elem p 8 5 = 2 → ∀ i : StreamId, i ∈ [StreamId.cl, .cc, .cs, .vx, .mx, .cx] →
        (((s.endOverlay e q p).core e).strm i).fetchBuf = ((s.core e).strm i).fetchBuf.filter fun w =>
          !decide (elem p 64 2 ≤ w.1 ∧ w.1 < elem p 64 2 + elem p 32 6 * elem p 32 7))
      ∧ (elem p 8 5 = 3 → ∃ l, ((s.endOverlay e q p).core e).tplWrites = (s.core e).tplWrites ++ l
          ∧ l.length = elem p 32 6 * elem p 32 7 / 16)

/-- The events of registered queues: a packet that has been run lets RIDX pass it, a void packet is passed at once, and a free server
takes the complete packet at RIDX in index order (the copy servers queue it as a command, the Crown starts its pair of slots, firmware
receives the command); the queue server appends a packet at its claimed index once the slot is free; a full queue of task records gets
a segment of its context's pool, or its manager is told once that there is none (R260, R261, R262, R263, R264, R384, R385). Completes:
QUEUE_SLOT_SERVE, QUEUE_SERVER_APPEND, QUEUE_OVERFLOW_TRAP. -/
def Obligations.QueueEvents : Prop :=
  let stays := fun (i : Instr) (s : State) => exec i s = .next s
  let ctx := fun (s : State) (n : Nat) => (s.queue n).ctag.toNat / 64
  let head := fun (s : State) (n r base lg : Nat) => s.queuesServed (s.queue n).ctag = true ∧ (s.queue n).server ≠ 0
    ∧ ∃ w, s.headerNow (s.queueParty (ctx s n)) (s.queue n).hdr = .ok (w, r, base, lg)
  let free := fun (s : State) (n : Nat) => n ∉ s.served ∧ (s.queue n).busy = false
  let slot := fun (s : State) (n base lg r : Nat) (a : BitVec 512) => s.slotNow (s.queueParty (ctx s n)) base lg r = .ok (some a)
  let moves := fun (s : State) (n r : Nat) (t : State) =>
    s.releaseNow (s.queueParty (ctx s n)) ((s.queue n).hdr.toNat + 8) (leBytes r 8) = .ok t
  let job := fun (k n : Nat) (a : BitVec 512) (g : W16) =>
    ({ seq := k, pc := 0, kind := .copy ((a.setWidth 504).setWidth 512) false, server := some (g, n) } : CopyCmd)
  let idle := fun (t : State) (n : Nat) => t.updQueue n fun u => { u with busy := false }
  (∀ s n, (s.queuesServed (s.queue n).ctag = false ∨ (s.queue n).server = 0) → stays (.queueSlotServe n) s)
  ∧ (∀ s n r base lg t, head s n r base lg → n ∈ s.served → moves s n (r + 1) t →
      exec (.queueSlotServe n) s = .next { idle t n with served := t.served.filter fun i => i ≠ n })
  ∧ (∀ s n r base lg, head s n r base lg → n ∉ s.served → (s.queue n).busy = true →
      (∀ t ∈ s.tiles, t.queue = some n → t.done = false) → stays (.queueSlotServe n) s)
  ∧ (∀ s n r base lg x t, head s n r base lg → n ∉ s.served → (s.queue n).busy = true →
      s.tiles.find? (fun t => t.queue == some n && t.done) = some x → moves s n (r + 2) t →
      exec (.queueSlotServe n) s = .next { idle t n with tiles := t.tiles.filter fun v => v.id ≠ x.id })
  ∧ (∀ s n r base lg, head s n r base lg → free s n → s.slotNow (s.queueParty (ctx s n)) base lg r = .ok none → stays (.queueSlotServe n) s)
  ∧ (∀ s n r base lg a t, head s n r base lg → free s n → slot s n base lg r a → elem a 8 0 = 0xFF → moves s n (r + 1) t →
      exec (.queueSlotServe n) s = .next (idle t n))
  ∧ (∀ s n r base lg a, head s n r base lg → free s n → slot s n base lg r a → elem a 8 0 ≠ 0xFF → (s.queue n).server = 1 →
      copyCheck a false true = none →
      let e := 598 + ctx s n % 2
      ∃ u, exec (.queueSlotServe n) s = .next u
        ∧ (u.cxOf e).queue = (s.cxOf e).queue ++ [job (s.cxOf e).nextSeq n a (s.queue n).ctag]
        ∧ (u.cxOf e).nextSeq = (s.cxOf e).nextSeq + 1 ∧ (u.queue n).busy = true ∧ (∀ j, j ≠ n → u.queue j = s.queue j)
        ∧ u = { s with queues := u.queues, server0 := u.server0, server1 := u.server1 })
  ∧ (∀ s n r base lg a off, head s n r base lg → free s n → slot s n base lg r a → elem a 8 0 ≠ 0xFF → (s.queue n).server = 1 →
      copyCheck a false true = some off →
      exec (.queueSlotServe n) s = .next (s.unitFault (ctx s n) (serverSource (ctx s n % 2))
        { code := .copyInvalid, det1 := BitVec.ofNat 64 off }))
  ∧ (∀ s n r base lg a, head s n r base lg → free s n → slot s n base lg r a → elem a 8 0 ≠ 0xFF → (s.queue n).server = 2 →
      s.slotNow (s.queueParty (ctx s n)) base lg (r + 1) = .ok none → stays (.queueSlotServe n) s)
  ∧ (∀ s n r base lg a b, head s n r base lg → free s n → slot s n base lg r a → elem a 8 0 ≠ 0xFF → (s.queue n).server = 2 →
      slot s n base lg (r + 1) b → (s.ctx (ctx s n)).res = true → ∃ u, exec (.queueSlotServe n) s = .next u
        ∧ (if (orphanCheck 4 ((a.setWidth 504).setWidth 512) ((b.setWidth 504).setWidth 512)
                (decide (elem ((a.setWidth 504).setWidth 512) 64 6 ≠ 0))).isNone then
            (u.queue n).busy = true ∧ u.nextTile = s.nextTile + 1 ∧ ∃ v : TileIns, u.tiles = s.tiles ++ [v] ∧ v.id = s.nextTile
              ∧ v.level = 4 ∧ v.queue = some n ∧ v.ctag = (s.queue n).ctag ∧ v.ctx = ctx s n ∧ v.core = none
              ∧ u = { s with queues := u.queues, tiles := u.tiles, nextTile := u.nextTile }
          else ∃ f, u = s.unitFault (ctx s n) (acceptorSource 4 0) f))
  ∧ (∀ s n r base lg a, head s n r base lg → free s n → slot s n base lg r a → elem a 8 0 ≠ 0xFF → (s.queue n).server = 3 →
      ((s.queue n).full = true → stays (.queueSlotServe n) s)
      ∧ ((s.queue n).full = false → elem a 8 0 ≠ 0x31 →
          exec (.queueSlotServe n) s = .next (s.publishEntry n r 1 ((base + 64 * (r % 2 ^ lg)) % 2 ^ 64) a 0)))
  ∧ (∀ s n r base lg a, head s n r base lg → free s n → slot s n base lg r a → elem a 8 0 ≠ 0xFF → (s.queue n).server = 4 →
      ∃ u, exec (.queueSlotServe n) s = .next u ∧ u.fw = { s.fw with cmds := s.fw.cmds ++ [{ slot := a, queue := some n }] }
        ∧ (u.queue n).busy = true ∧ (∀ j, j ≠ n → u.queue j = s.queue j) ∧ u = { s with queues := u.queues, fw := u.fw })
  ∧ (∀ s c, (s.ctx c).valid = false → exec (.queueServerAppend c) s =
      .next (s.updMem fun m => { m with svc := s.mem.svc.filter fun m => m.ctx ≠ c }))
  ∧ (∀ s c, (s.ctx c).valid = true → (∀ m ∈ s.mem.svc, m.ctx ≠ c) → stays (.queueServerAppend c) s)
  ∧ (∀ s c m, (s.ctx c).valid = true → s.mem.svc = [m] → m.ctx = c → exec (.queueServerAppend c) s = .next (s.appendMessage m))
  ∧ (∀ (s : State) (m : SvcMsg) i w r base lg t, m.index = some i → s.headerNow (s.queueParty m.ctx) m.hdr = .ok (w, r, base, lg) → i < r + 2 ^ lg →
      s.releaseNow (s.queueParty m.ctx) ((base + 64 * (i % 2 ^ lg)) % 2 ^ 64)
        (leBytes (m.slot.toNat % 2 ^ 504 + lapOf lg i * 2 ^ 504) 64) = .ok t →
      s.appendMessage m = { t with mem := { t.mem with svc := t.mem.svc.erase m } })
  ∧ (∀ (s : State) (m : SvcMsg) i w r base lg, m.index = some i → s.headerNow (s.queueParty m.ctx) m.hdr = .ok (w, r, base, lg) → r + 2 ^ lg ≤ i →
      s.appendMessage m = s)
  ∧ (∀ s n, ((s.queue n).full = false ∨ (s.queue n).noPool = true) → stays (.queueOverflowTrap n) s)
  ∧ (∀ s n, (s.queue n).full = true → (s.queue n).noPool = false → (s.ctx (ctx s n)).tsegpool ≠ 0 →
      exec (.queueOverflowTrap n) s = .next (s.linkSegment n)
      ∧ ((s.linkSegment n).queue n).full = false ∧ ((s.linkSegment n).queue n).seg = (s.ctx (ctx s n)).tsegpool.toNat)
  ∧ ∀ s n, (s.queue n).full = true → (s.queue n).noPool = false → (s.ctx (ctx s n)).tsegpool = 0 → ∃ u m,
      exec (.queueOverflowTrap n) s = .next u ∧ (u.queue n).noPool = true ∧ (u.queue n).full = true
        ∧ u.mem.svc = s.mem.svc ++ [m] ∧ m.ctx = (s.ctx (ctx s n)).mgr ∧ m.hdr = (s.ctx (ctx s n)).svcq
        ∧ elem m.slot 8 0 = 0x22 ∧ elem m.slot 16 1 = (s.queue n).ctag.toNat ∧ elem m.slot 64 1 = (s.queue n).hdr.toNat
        ∧ u = { s with queues := u.queues, mem := { s.mem with svc := u.mem.svc } }

/-! ## Events of a core -/

/-- The events of a core between its words. Results that are due land in issue order (the latest of two on one register stays, and both
streams take WCOLL), the others stay pending; a timer that has passed disarms and raises the timer cause; a stall of 65,536 cycles faults;
a full pool spills; a stream begins to fetch with its template table loaded and its shadow clean; a job retires once nothing that it issued is
outstanding, and its core asks for work and is given an unstarted task or the upper half of the largest range of its cluster; a carve-out
applies once no command that names scratchpad is left; a sweep judges the core, its verdict free. Each does nothing before it is due
(R29, R31, R33, R34, R35, R38, R42, R56, R57, R141, R243, R331). Which stream raises the stall fault is log entry 99's choice, which L1
lines leave with a smaller L1 a free one. Completes: RESULT_LAND, TIMER_FIRE, STREAM_STALL, POOL_SPILL_TRAP, STREAM_FETCH_START,
SLICE_SCRUB_COMPLETE, JOB_RETIRE, WORK_REQUEST, CARVE_APPLY, KAT_SWEEP. -/
def Obligations.CoreEvents : Prop :=
  let stays := fun (i : Instr) (s : State) => exec i s = .next s
  let only := fun (c : Nat) (s u : State) => u = { s with cores := u.cores } ∧ ∀ d, d ≠ c → u.core d = s.core d
  let left := fun (s : State) (c : Nat) => (s.core c).range.hi.toNat - (s.core c).range.lo.toNat
  let clean := fun (s : State) (c : Nat) (e : StreamId) => { s with mem := { s.mem with latent := s.mem.latent.filter fun l =>
    !((List.range 64).any fun n => l == Latent.template c e n false || l == Latent.template c e n true) } }
  (∀ s c, ∃ u, exec (.resultLand c) s = .next u ∧ only c s u
    ∧ (u.core c).pend = ((s.core c).pend.filter fun p => !(s.core c).lands p)
    ∧ ((∀ p ∈ (s.core c).pend, (s.core c).lands p = false) → u.core c = s.core c))
  ∧ (∀ s c p u, (s.core c).pend = [p] → (s.core c).lands p = true → exec (.resultLand c) s = .next u →
      u.core c = ({ s.core c with pend := [] } : Core).writeDst p.dst p.val)
  ∧ (∀ (k : Core) e n v, sget 0 ((k.writeDst (.scalar e n) (.word v)).strm e).s n = v
      ∧ (∀ m, m ≠ n → sget 0 ((k.writeDst (.scalar e n) (.word v)).strm e).s m = sget 0 (k.strm e).s m)
      ∧ ∀ d, d ≠ e → (k.writeDst (.scalar e n) (.word v)).strm d = k.strm d)
  ∧ (∀ s c a b e n x y u, ((s.core c).pend = [a, b] ∨ (s.core c).pend = [b, a]) → a.ord < b.ord → (s.core c).lands a = true →
      (s.core c).lands b = true → a.dst = .scalar e n → b.dst = .scalar e n → a.val = .word x → b.val = .word y →
      exec (.resultLand c) s = .next u →
      sget 0 ((u.core c).strm e).s n = y ∧ ∀ p ∈ [a, b],
        ((u.core c).strm p.strm).warnSet = ((s.core c).strm p.strm).warnSet ||| warnIf true .wcoll)
  ∧ (∀ s c, s.timersDue c = false → stays (.timerFire c) s)
  ∧ (∀ s c, s.timersDue c = true → ∃ u, exec (.timerFire c) s = .next u ∧ only c s u ∧ (u.core c).trapBits = (s.core c).trapBits ||| 2
      ∧ (∀ i e, [StreamId.cl, .cc, .cs][i]? = some e →
          let due := ((s.core c).strm e).armed && decide (((s.core c).strm e).tcmp.toNat ≤ s.gtc)
          ((u.core c).strm e).armed = (((s.core c).strm e).armed && !due) ∧ ((u.core c).strm e).tcmp = ((s.core c).strm e).tcmp
            ∧ (u.core c).trapTmr.testBit i = ((s.core c).trapTmr.testBit i || due)))
  ∧ (∀ s c, (s.core c).stall < 65536 → stays (.streamStall c) s)
  ∧ (∀ s c, 65536 ≤ (s.core c).stall →
      let first := ([StreamId.cl, .cc, .cs, .vx, .mx, .cx].find? fun e => !s.atRdv c e).getD .cc
      exec (.streamStall c) s =
        .next ((s.fault c first { code := .streamStall, det1 := BitVec.ofNat 64 (s.notAtRdv c) }).updCore c fun k => { k with stall := 0 }))
  ∧ (∀ s c, (s.core c).poolHold < 4096 → stays (.poolSpillTrap c) s)
  ∧ (∀ s c, 4096 ≤ (s.core c).poolHold → ∃ u, exec (.poolSpillTrap c) s = .next u ∧ only c s u ∧ (u.core c).poolHold = 0
      ∧ ∃ q, q < 6 ∧ (∀ r, r < 6 → 2 ^ 16 - (s.core c).aboveMin q ≤ 2 ^ 16 - (s.core c).aboveMin r)
        ∧ ∀ r, (u.core c).spilled[r]? = if r = q then
            (s.core c).spilled[r]?.map fun n => n + Nat.min (64 - (s.core c).spilled.sum) ((s.core c).aboveMin q)
          else (s.core c).spilled[r]?)
  ∧ (∀ s c e, s.fetchDue c e = false → stays (.streamFetchStart c e) s)
  ∧ (∀ s c e, s.fetchDue c e = true → (s.core c).theJob.tt.getD e.code 0 = 0 →
      exec (.streamFetchStart c e) s = .next ((clean s c e).updStrm c e fun st => { st with fetching := true, table := [] }))
  ∧ (∀ s c e bs, s.fetchDue c e = true → (s.core c).theJob.tt.getD e.code 0 ≠ 0 →
      s.readVirt (s.engineParty c e) true permR ((s.core c).theJob.tt.getD e.code 0).toNat 1024 = .ok bs → bs.length = 1024 →
      (∀ b ∈ bs, b.2 = false) → ∃ t, exec (.streamFetchStart c e) s =
          .next ((clean s c e).updStrm c e fun st => { st with fetching := true, table := t })
        ∧ ∀ i, i < 64 → sget 0 t i = BitVec.ofNat 128 (leNat ((bs.map (·.1)).drop (16 * i) |>.take 16)))
  ∧ (∀ s c e bs, s.fetchDue c e = true → (s.core c).theJob.tt.getD e.code 0 ≠ 0 →
      s.readVirt (s.engineParty c e) true permR ((s.core c).theJob.tt.getD e.code 0).toNat 1024 = .ok bs → (∃ b ∈ bs, b.2 = true) →
      exec (.streamFetchStart c e) s = .next ((s.consumePoison c (s.paOf (s.engineParty c e) ((s.core c).theJob.tt.getD e.code 0))).updStrm c e
        fun st => { st with trapped := true }))
  ∧ (∀ s c e f, s.fetchDue c e = true → (s.core c).theJob.tt.getD e.code 0 ≠ 0 →
      s.readVirt (s.engineParty c e) true permR ((s.core c).theJob.tt.getD e.code 0).toNat 1024 = .error (.bad f) →
      exec (.streamFetchStart c e) s = .next (s.fault c e f))
  ∧ (∀ s c n, ∃ u, exec (.sliceScrubComplete c n) s = .next u ∧ only c s u ∧ n ∈ (u.core c).scrubbed
      ∧ u.core c = { s.core c with scrubbed := (u.core c).scrubbed } ∧ ∀ m, m ≠ n → (m ∈ (u.core c).scrubbed ↔ m ∈ (s.core c).scrubbed))
  ∧ (∀ s c, (s.core c).retiring = false → s.mayRetire c = false → stays (.jobRetire c) s)
  ∧ (∀ (s : State) c, s.mayRetire c = true → (s.core c).job.isSome = true ∧ (s.core c).cc.ended = true ∧ (s.core c).tilesOut = []
      ∧ (s.core c).pend = [] ∧ (s.halt (s.core c).theJob.part).stops = false ∧ (∀ e : StreamId, s.atRdv c e = true)
      ∧ ∀ r ∈ s.mem.reqs, r.master = c → r.ctag ≠ (s.core c).theJob.ctag)
  ∧ (∀ s c, (s.core c).retiring = false → s.mayRetire c = true → ∃ u o, exec (.jobRetire c) s = .next u ∧ only c s u
      ∧ (u.core c).retiring = true ∧ (u.core c).cc.hold = some o ∧ o.commit = some .all ∧ o.newPhase = true ∧ o.pub = some 3)
  ∧ (∀ s c, (s.core c).retiring = true → ((s.core c).cc.hold.isSome = true ∨ (s.core c).job = none) → stays (.jobRetire c) s)
  ∧ (∀ s c j, (s.core c).retiring = true → (s.core c).cc.hold = none → (s.core c).job = some j → ∃ u, exec (.jobRetire c) s = .next u
      ∧ (u.core c).job = none ∧ (u.core c).asks = some (j.ctx, j.node, j.run) ∧ (u.core c).l1 = [] ∧ (u.core c).sp = []
      ∧ (u.core c).cc = {} ∧ (u.core c).retiring = false)
  ∧ (∀ s c, (s.core c).asks = none → stays (.workRequest c) s)
  ∧ (∀ s c x w m, (s.core c).asks = some (x, w, m) → s.findNode x w = none →
      exec (.workRequest c) s = .next (s.updCore c fun k => { k with asks := none }))
  ∧ (∀ s c x w m n r l t, (s.core c).asks = some (x, w, m) → s.findNode x w = some n → n.runs.find? (fun r => r.num == m) = some r →
      n.launch = some l → s.dispatches x = true → s.serves n r c = true → r.firstTask (clusterOf c) = some t →
      ∃ u j, exec (.workRequest c) s = .next u ∧ (u.core c).job = some j ∧ j.ctx = x ∧ j.node = w ∧ j.run = m ∧ (u.core c).asks = none
        ∧ (u.core c).range = { lo := t.lo, hi := t.hi, grain := l.grain, lo0 := t.lo, hi0 := t.hi }
        ∧ (u.core c).cc = { started := true, pc := l.entry.getD 1 0 } ∧ ∀ d, d ≠ c → (u.core d).range = (s.core d).range)
  ∧ (∀ s c x w m n r l d k, (s.core c).asks = some (x, w, m) → s.findNode x w = some n → n.runs.find? (fun r => r.num == m) = some r →
      n.launch = some l → s.dispatches x = true → s.serves n r c = true → r.firstTask (clusterOf c) = none → d ≠ c →
      s.largestRange n m (clusterOf c) = some (d, k) →
      let g := l.grain.toNat
      let cut := BitVec.ofNat 64 ((s.core d).range.lo.toNat + g * (((k + 1) / 2 + g - 1) / g))
      if k < 2 * g then exec (.workRequest c) s = .next (s.updCore c fun k => { k with asks := none })
      else 0 < g → ∃ u, exec (.workRequest c) s = .next u ∧ (u.core d).range = { (s.core d).range with hi := cut }
        ∧ (u.core c).range = { lo := cut, hi := (s.core d).range.hi, grain := l.grain, lo0 := cut, hi0 := (s.core d).range.hi })
  ∧ (∀ (s : State) (n : Node) m k d v, s.largestRange n m k = some (d, v) → v = left s d ∧ d / 8 = k ∧ ∀ c j, c / 8 = k → (s.core c).job = some j → j.ctx = n.ctx →
      j.node = n.r.nodeid → j.run = m → (s.core c).retiring = false → left s c ≤ left s d ∧ (left s c = left s d → d ≤ c))
  ∧ (∀ s c, ((s.core c).carveTo = none ∨ (s.core c).carveQuiet = false) → stays (.carveApply c) s)
  ∧ (∀ k : Core, k.carveQuiet = true ↔ k.ranges = [] ∧ k.tilesOut = [] ∧ k.mx.nmvs = [] ∧ (∀ o ∈ k.memq, o.strm = .vx → o.sp = false)
      ∧ (∀ q ∈ k.mx.queue, mxNamesSp q.o q.t = false) ∧ (∀ r ∈ k.mx.running, r.landed = true ∨ mxNamesSp r.cmd.o r.cmd.t = false)
      ∧ ∀ q ∈ k.cx.queue, q.kind.namesSp = false)
  ∧ (∀ s c v j, (s.core c).carveTo = some v → (s.core c).carveQuiet = true → (s.core c).job = some j →
      ∃ u, exec (.carveApply c) s = .next u ∧ (u.core c).carveTo = none ∧ (u.core c).job = some { j with l1sl := v }
        ∧ (j.l1sl ≤ v → (s.core c).l1.length ≤ 16 → (u.core c).l1 = (s.core c).l1) ∧ (∀ l ∈ (u.core c).l1, l ∈ (s.core c).l1)
        ∧ (∀ i, (u.core c).spLine i = if i < spSize { j with l1sl := v } / 128 then (s.core c).spLine i else {})
        ∧ ∀ d, d ≠ c → u.core d = s.core d)
  ∧ (∀ s c, s.sweepDue c = false → stays (.katSweep c) s)
  ∧ ∀ s c, s.sweepDue c = true → ∃ u pass, exec (.katSweep c) s = .next u ∧ (u.core c).failed = ((s.core c).failed || !pass)
      ∧ (u.core c).suspect = ((s.core c).failed || !pass) ∧ c ∉ u.fw.sweeps ∧ (∀ d, d ≠ c → u.core d = s.core d)
      ∧ ∃ e, sget [] u.mem.logs 1024 = sget [] s.mem.logs 1024 ++ [e] ∧ e.d0.extractLsb' 56 7 = 10 ∧ e.d1 = BitVec.ofNat 64 s.gtc
        ∧ e.d0.toNat % 2 ^ 24 = c ∧ e.d2 = if pass then 0 else 1

/-! ## Events of the hardware scheduler -/

/-- The point chosen for a ready node: of the points that meet the deadline, or of all without one, the least power times duration among
those that fit the headroom; else the least power, for which the node waits until it fits or time runs out; with none that meets the
deadline, the least duration, flagged. Ties go to the lower index (R435). -/
def Obligations.PointChoice : Prop :=
  let first := fun (f : OpPoint → Nat) (l : List OpPoint) (p : OpPoint) =>
    ∃ a b, l = a ++ p :: b ∧ (∀ q ∈ a, f p < f q) ∧ ∀ q ∈ b, f p ≤ f q
  ∀ (ps : List OpPoint) (t d : Nat) (h : Int) (p : OpPoint),
    let cands := ps.filter fun q => decide (d = 0 ∨ t + q.dur ≤ d)
    let fits := cands.filter fun q => decide (((q.power * wattUnit : Nat) : Int) ≤ h)
    (first (fun q => q.power * q.dur) fits p → choosePoint ps t d h = some (p, false, false))
    ∧ (fits = [] → first (·.power) cands p → choosePoint ps t d h = some (p, decide (d = 0 ∨ t < d - p.dur), false))
    ∧ (cands = [] → first (·.dur) ps p → choosePoint ps t d h = some (p, false, true))
    ∧ (ps = [] → choosePoint ps t d h = none)

/-- The events of the scheduler: a ready node is given its point, is promoted after 2 ms, is dispatched with its header checked, retires
by committing its staged bytes, writing its DONE word and signalling its successors (redundant runs are compared first), goes on after a
stalled signal, and is rolled back to ready with its original record, its jobs gone and its staged bytes discarded; each does nothing
before it is due (R25, R44, R379, R381, R386, R388, R389, R391, R392, R433, R435, R442). Completes: OPERATING_POINT_SELECT,
PRIORITY_PROMOTION, NODE_DISPATCH, NODE_RETIRE, SIGNAL_STALL_RESUME, NODE_ROLLBACK. -/
def Obligations.GraphEvents : Prop :=
  let stays := fun (i : Instr) (s : State) => exec i s = .next s
  let at' := fun (s : State) (x : Nat) (w : W32) (n : Node) => s.findNode x w = some n
  let part := fun (s : State) (x : Nat) => (s.ctx x).part
  let runs := fun (s : State) (x : Nat) => (s.ctx x).state = .running
  (∀ s x w, s.findNode x w = none → ∀ i ∈ [Instr.nodeDispatch x w, .priorityPromotion x w, .operatingPointSelect x w, .nodeRetire x w,
      .signalStallResume x w], stays i s)
  ∧ (∀ s x w n, at' s x w n → (n.st ≠ .ready ∨ ¬ runs s x) → stays (.operatingPointSelect x w) s ∧ stays (.priorityPromotion x w) s)
  ∧ (∀ s x w n ps, at' s x w n → n.st = .ready → runs s x → n.points = some ps → ps ≠ [] → n.waits = none →
      let t := s.updNode x w fun m => { m with points := some ps, sel := false, point := none }
      (t.blockedByWait n = true → exec (.operatingPointSelect x w) s = .next t)
      ∧ ∀ p wait dar, t.blockedByWait n = false →
          choosePoint (ps.map t.usedPoint) t.gtc n.r.deadline.toNat (t.headroom (part t x)) = some (p, wait, dar) →
          ∃ u m, exec (.operatingPointSelect x w) s = .next u ∧ at' u x w m ∧ m.r = n.r ∧ m.st = .ready ∧ m.sel = false
            ∧ m.point = (if wait then none else some p) ∧ m.waits = (if wait then some p else none) ∧ m.dar = (n.dar || dar))
  ∧ (∀ s x w n ps p, at' s x w n → n.st = .ready → runs s x → n.points = some ps → ps ≠ [] → n.waits = some p →
      let t := s.updNode x w fun m => { m with points := some ps, sel := false, point := none }
      t.blockedByWait n = false →
      if ((p.power * wattUnit : Nat) : Int) ≤ t.headroom (part t x) ∨ (n.r.deadline.toNat ≠ 0 ∧ n.r.deadline.toNat - p.dur ≤ t.gtc) then
        ∃ u m, exec (.operatingPointSelect x w) s = .next u ∧ at' u x w m ∧ m.point = some p ∧ m.waits = none ∧ m.dar = n.dar
      else exec (.operatingPointSelect x w) s = .next t)
  ∧ (∀ s x w n e, at' s x w n → n.st = .ready → runs s x → n.points = none →
      s.readNow (s.schedParty n.ctx) permR n.r.opt.toNat 128 = .error e →
      ∃ u m, exec (.operatingPointSelect x w) s = .next u ∧ at' u x w m ∧ m.points = some [] ∧ m.status = some 1)
  ∧ (∀ s x w n, at' s x w n → n.st = .ready → runs s x →
      if n.priority < 7 ∧ n.since + 14000000 ≤ s.gtc then
        ∃ u m, exec (.priorityPromotion x w) s = .next u ∧ at' u x w m ∧ m.promo = n.promo + 1 ∧ m.since = s.gtc ∧ m.r = n.r ∧ m.st = .ready
          ∧ m.ready = n.ready
      else stays (.priorityPromotion x w) s)
  ∧ (∀ s x w n, at' s x w n → (n.point = none ∨ s.dispatches x = false ∨ n.st = .retiring ∨ n.st = .waiting
      ∨ (n.st = .dispatched ∧ (n.flags.testBit 2 = false ∨ (n.runs.length = 2 ∧ n.third = false) ∨ 2 < n.runs.length))) →
      stays (.nodeDispatch x w) s)
  ∧ (∀ s x w n p, at' s x w n → n.point = some p → n.st = .ready → s.dispatches x = true → n.r.kind = 1 →
      if 2 ≤ s.power.grade ∧ n.r.flags.testBit 1 = false then stays (.nodeDispatch x w) s
      else exec (.nodeDispatch x w) s = .next (s.placeTile { n with flags := n.r.flags } (s.pointNow n p)))
  ∧ (∀ s x w n p l, at' s x w n → n.point = some p → n.st = .ready → s.dispatches x = true → n.r.kind ≠ 1 → n.launch = some l →
      if 2 ≤ s.power.grade ∧ n.flags.testBit 1 = false then stays (.nodeDispatch x w) s
      else exec (.nodeDispatch x w) s = .next (s.placeJobs n l (s.pointNow n p)))
  ∧ (∀ s x w n p, at' s x w n → n.point = some p → n.st = .ready → s.dispatches x = true → n.r.kind ≠ 1 → n.launch = none →
      (if (s.pointNow n p).launch = 0 then n.r.launch else (s.pointNow n p).launch).toNat % 256 ≠ 0 → ∃ u m, exec (.nodeDispatch x w) s = .next u ∧ at' u x w m
        ∧ m.status = some 1 ∧ m.point = none ∧ m.runs = n.runs)
  ∧ (∀ (s : State) (n : Node) l p rs, s.findNode n.ctx n.r.nodeid = some n → s.planRuns n p = some rs →
      (n.flags.testBit 0 = false ∨ n.r.indesc = 0) → ∃ m, at' (s.placeJobs n l p) n.ctx n.r.nodeid m ∧ m.st = .dispatched ∧ m.point = some p
        ∧ m.launch = some l ∧ m.waits = none ∧ m.since = (if n.st = .ready then s.gtc - n.since else n.since)
        ∧ m.runs.map (·.num) = n.runs.map (·.num) ++ rs.map (·.num))
  ∧ (∀ (s : State) (n : Node) l p, s.planRuns n p = none → s.placeJobs n l p = s)
  ∧ (∀ s x w n, at' s x w n → n.status = none → (n.st ≠ .dispatched ∨ ¬ runs s x ∨ (s.halt (part s x)).stops = true
      ∨ (∃ r ∈ n.runs, s.runFinished n r = false) ∨ (n.flags.testBit 2 = true ∧ n.runs.length < 2)) → stays (.nodeRetire x w) s)
  ∧ (∀ s x w n k, at' s x w n → n.status = some k → n.st ≠ .retiring → exec (.nodeRetire x w) s = .next (s.completeNode n k))
  ∧ (∀ s x w n r t, at' s x w n → n.status = none → n.st = .dispatched → runs s x → (s.halt (part s x)).stops = false →
      n.flags.testBit 2 = false → n.runs = [r] → s.runFinished n r = true →
      (s.commitStaged n (part s x) (s.stagedOf (part s x) r.slot) = (t, true) → exec (.nodeRetire x w) s = .next (t.completeNode n 0))
      ∧ (s.commitStaged n (part s x) (s.stagedOf (part s x) r.slot) = (t, false) → exec (.nodeRetire x w) s = .next t))
  ∧ (∀ s x w n a b t, at' s x w n → n.status = none → n.st = .dispatched → runs s x → (s.halt (part s x)).stops = false →
      n.flags.testBit 2 = true → n.runs = [a, b] → s.runFinished n a = true → s.runFinished n b = true →
      if s.sameStaged (part s x) a.slot b.slot = true then
        s.commitStaged n (part s x) (s.stagedOf (part s x) a.slot) = (t, true) → exec (.nodeRetire x w) s = .next (t.completeNode n 0)
      else ∃ u m, exec (.nodeRetire x w) s = .next u ∧ at' u x w m ∧ m.runs = n.runs ∧ m.st = .dispatched ∧ m.third = true
        ∧ ∀ c, c ∈ m.excluded ↔ c ∈ n.excluded ∨ c ∈ a.cores ∨ c ∈ b.cores)
  ∧ (∀ s x w n a b c, at' s x w n → n.status = none → n.st = .dispatched → runs s x → (s.halt (part s x)).stops = false →
      n.flags.testBit 2 = true → n.runs = [a, b, c] → (∀ r ∈ n.runs, s.runFinished n r = true) →
      s.sameStaged (part s x) a.slot c.slot = false → s.sameStaged (part s x) b.slot c.slot = false →
      ∃ u, exec (.nodeRetire x w) s = .next u ∧ u.findNode x w = none ∧ ∀ d ∈ a.cores ++ b.cores ++ c.cores, (u.core d).suspect = true)
  ∧ (∀ (s : State) (n : Node) k, (k ≠ 0 ∨ n.r.nsucc = 0) → (s.completeNode n k).findNode n.ctx n.r.nodeid = none)
  ∧ (∀ g k dar rb rx, k < 256 → let v := doneWord g k dar rb rx
      v % 256 = k ∧ v.testBit 8 = dar ∧ v.testBit 9 = rb ∧ v.testBit 10 = rx ∧ v / 2 ^ 11 % 32 = 0 ∧ v / 2 ^ 16 = g % 2 ^ 48)
  ∧ (∀ (s : State) x w b n, at' s x w n → 0 < n.remain → ∃ u m, s.signal x w b = some u ∧ at' u x w m ∧ m.remain = n.remain - 1 ∧ m.r = n.r
      ∧ (n.remain = 1 → m.st = .ready ∧ m.ready = s.gtc ∧ m.sel = true) ∧ (n.remain ≠ 1 → m.st = n.st ∧ m.ready = n.ready))
  ∧ (∀ (s : State) x w b, s.findNode x w = none → (∀ e ∈ s.early, e.ctag = s.ctagOf x → e.node = w → e.count = 255) →
      s.signal x w b = if s.early.length < 64 then some { s with early := s.early ++ [{ ctag := s.ctagOf x, node := w, count := 1 }] } else none)
  ∧ (∀ s x w n, at' s x w n → n.st ≠ .retiring → stays (.signalStallResume x w) s)
  ∧ (∀ s x w n t i done, at' s x w n → n.st = .retiring → s.signalFrom n (n.r.nsucc.toNat - n.next) n.next = (t, i, done) →
      exec (.signalStallResume x w) s = .next (if done then t.freeNode n else t.updNode x w fun m => { m with next := i }))
  ∧ (∀ s x w cause, (x, w, cause) ∉ s.rollbacks → stays (.nodeRollback x w cause) s)
  ∧ ∀ s x w cause n, (x, w, cause) ∈ s.rollbacks → at' s x w n → ∃ u m, exec (.nodeRollback x w cause) s = .next u
      ∧ (x, w, cause) ∉ u.rollbacks ∧ (∀ c, (u.core c).runsNode x w = false) ∧ at' u x w m ∧ m.r = n.r ∧ m.st = .ready ∧ m.remain = 0
      ∧ m.ready = n.ready ∧ m.since = (if n.st = .ready then n.since else s.gtc - n.since) ∧ m.promo = n.promo ∧ m.runs = [] ∧ m.third = false ∧ m.point = none ∧ m.rb = true
      ∧ u.mem.prots = s.mem.prots
      ∧ m.rx = (n.rx || decide (cause = .hardware)) ∧ m.rolls = (if cause = .poison then n.rolls + 1 else n.rolls)
      ∧ m.status = (if cause = .poison ∧ n.rolls = 2 then some 6 else n.status)
      ∧ (∀ v ∈ u.mem.vers, ∀ r ∈ n.runs, v.owner ≠ .staged (part s x) r.slot)
      ∧ (∀ t ∈ u.tiles, ¬ (t.ctx = x ∧ t.node = w)) ∧ ∀ t ∈ u.teams, ¬ (t.ctx = x ∧ t.node = w)

/-! ## Events of memory -/

/-- The events of requests, translation, access tables and base dies. At its home a request is dropped if its CTAG is stale, noticed (and
counted) if the access table refuses it, sent on to the line's memory device where L2 must bring the line, and otherwise performed: a read
takes the line, a write replaces its masked bytes and no other byte of memory, after its dirty bit is confirmed; an atomic replaces one value
and answers the old one; at a peer the answer is free. A response is accepted, or counted as an orphan at the link or the core; a fill enters
L1; a notice faults the context; a walk, with those that joined it, fills caches or faults its waiters; an access-table entry takes effect at
its target, its reserved bits zero; a base die performs requests in order and L2 takes the lines it asked for. Each does nothing where its
request is not at that point (R281, R282, R283, R292, R303, R334, R335, R336, R348, R350, R364, R455). Which line leaves L2, and when, is
a free choice (log entry 105). Completes: L2_HOME_ACCESS, ATOMIC_PERFORM, RESPONSE_ACCEPT, L1_MISS_FILL, ACCESS_VIOLATION_NOTICE,
DIRTY_SET_WALK, ACCESS_TABLE_ENTRY_APPLY, TRANSLATION_WALK, BASE_DIE_REQUEST, BASE_DIE_REPLY. -/
def Obligations.MemoryEvents : Prop :=
  let stays := fun (i : Instr) (s : State) => exec i s = .next s
  let req := fun (s : State) (n : Nat) (r : Req) => s.mem.findReq n = some r
  let atomic := fun (r : Req) => ∃ op, r.kind = .atomic op
  let ready := fun (s : State) (n : Nat) (r : Req) => req s n r ∧ r.stage = .home ∧ s.mem.reqReady r = true
    ∧ (r.kind.writes = true → ¬ atomic r → s.stageFull r.part r.slot r.line = false)
  let home := fun (s : State) (n : Nat) (r : Req) (loc : Nat) => ready s n r ∧ destOf s.mem r.pa = .dram loc
  let check := fun (s : State) (r : Req) (loc : Nat) => s.mem.check (homeOf loc) r.master r.ctag r.pa r.kind.need
  let misses := fun (s : State) (r : Req) (loc : Nat) => s.l2Shed.mem.l2Misses loc r.kind.need
  let held := fun (s : State) (r : Req) (loc : Nat) => if misses s r loc then s.l2Shed.l2Put (loc / 128) none else s.l2Shed
  let allowed := fun (s : State) (r : Req) (loc : Nat) => check s r loc = .pass
    ∧ (misses s r loc = true → 2 ^ 41 ≤ loc ∧ s.l2Shed.mem.dramCheck loc r.master r.ctag r.pa r.kind.need = .pass)
  let performs := fun (i : Instr) (n : Nat) (r : Req) => i = Instr.atomicPerform n ∧ atomic r ∨ i = Instr.l2HomeAccess n ∧ ¬ atomic r
  let put := fun (s : State) (r : Req) => s.updMem fun m => m.setReq r
  let drop := fun (s : State) (n : Nat) => s.updMem fun m => m.dropReq n
  (∀ s n, s.mem.findReq n = none → ∀ i ∈ [Instr.l2HomeAccess n, .atomicPerform n, .responseAccept n, .l1MissFill n,
      .accessViolationNotice n, .dirtySetWalk n], stays i s)
  ∧ (∀ s n r, req s n r → (r.stage ≠ .home ∨ s.mem.reqReady r = false) → stays (.l2HomeAccess n) s ∧ stays (.atomicPerform n) s)
  ∧ (∀ s n r, req s n r → r.kind.writes = true → s.stageFull r.part r.slot r.line = true → stays (.l2HomeAccess n) s)
  ∧ (∀ s n r, req s n r → (atomic r → stays (.l2HomeAccess n) s) ∧ (¬ atomic r → stays (.atomicPerform n) s))
  -- refusals at the home
  ∧ (∀ s n r loc, home s n r loc → ∀ i, performs i n r →
      (s.mem.staleAt (homeOf loc) r.ctag = true → ∃ u, exec i s = .next u ∧ u.mem.findReq n = none ∧ u.mem.bytes = s.mem.bytes
        ∧ (sget {} u.mem.inc (1024 * homeOf loc + r.ctag.toNat / 64)).drops
            = Nat.min 0xFFFF ((sget {} s.mem.inc (1024 * homeOf loc + r.ctag.toNat / 64)).drops + 1))
      ∧ (∀ u, check s r loc = .denied u → (∀ b, r.kind ≠ .prefetch b) →
        exec i s = .next (put (s.l2Shed.countDenied (some u)) { r with stage := .notice, stamp := s.gtc })))
  ∧ (∀ s n r loc b u, home s n r loc → r.kind = .prefetch b → check s r loc = .denied u →
      exec (.l2HomeAccess n) s = .next (drop (s.l2Shed.countDenied (some u)) n))
  -- L2 asks the base die for the line, once
  ∧ (∀ s n r loc, home s n r loc → check s r loc = .pass → misses s r loc = true → loc < 2 ^ 41 → ∀ i, performs i n r →
      exec i s = .next (if ∃ b ∈ s.l2Shed.mem.bd, b.fetch = some r.id then s.l2Shed
        else s.l2Shed.updMem fun m => { m with bd := m.bd ++ [fetchReq r loc] }))
  -- reads, writes and atomics
  ∧ (∀ s n r loc, home s n r loc → allowed s r loc → (r.kind = .read ∨ r.kind = .fill) →
      let d := ((held s r loc).mem.discardStale r.line).homeLine (some r.master) r.part r.slot r.line
      ∃ u, exec (.l2HomeAccess n) s = .next u ∧ req u n { r with stage := .reply, data := d.1, poison := d.2 } ∧ u.mem.bytes = s.mem.bytes
        ∧ u = { s with mem := u.mem, clusters := u.clusters, free := u.free })
  ∧ (∀ s n r loc, home s n r loc → allowed s r loc → (r.kind = .write ∨ ∃ ph, r.kind = .commit ph) → s.mem.prots = [] →
      r.epoch ≠ some (s.epochOf r.ctag) →
      ∃ u, exec (.l2HomeAccess n) s = .next u ∧ req u n { r with stage := .dirty } ∧ u.mem.bytes = s.mem.bytes)
  ∧ (∀ s n r loc, home s n r loc → allowed s r loc → r.kind = .write → s.mem.prots = [] → r.epoch = some (s.epochOf r.ctag) →
      r.slot = none → lineOf r.pa = r.line → ∃ u, exec (.l2HomeAccess n) s = .next u ∧ req u n { r with stage := .reply }
        ∧ u.mem.lineData r.line = mergeLine (s.mem.lineData r.line) r.data r.mask
        ∧ (∀ l, l ≠ r.line → u.mem.lineData l = s.mem.lineData l) ∧ u.cores = s.cores)
  ∧ (∀ s n r loc k, home s n r loc → allowed s r loc → r.kind = .write → s.mem.prots = [] → r.epoch = some (s.epochOf r.ctag) →
      r.slot = some k → ∃ u, exec (.l2HomeAccess n) s = .next u ∧ req u n { r with stage := .reply } ∧ u.mem.bytes = s.mem.bytes)
  ∧ (∀ s n r loc op, home s n r loc → allowed s r loc → r.kind = .atomic op → s.mem.prots = [] → r.epoch = some (s.epochOf r.ctag) →
      poisonHit ((held s r loc).mem.linePoison r.line) r.pa op.size = false →
      let old := lineBytesAt (s.mem.lineData r.line) r.pa op.size
      ∃ u, exec (.atomicPerform n) s = .next u ∧ req u n { r with stage := .reply, data := BitVec.ofNat 1024 old }
        ∧ (∀ l, l ≠ r.line → u.mem.lineData l = s.mem.lineData l)
        ∧ u.mem.lineData r.line = match op.apply old with
          | some v => mergeLine (s.mem.lineData r.line) (byteData r.pa v) (byteMask r.pa op.size)
          | none => s.mem.lineData r.line)
  ∧ (∀ rnd (n : Nat), n = 4 ∨ n = 8 → ∀ (a b : BitVec (8 * n)) (w : W64), w.toNat % 2 ^ (8 * n) = b.toNat →
      ∀ p ∈ [(0, a + b), (1, a &&& b), (2, a ||| b), (3, a ^^^ b), (4, if a.toInt ≤ b.toInt then a else b),
        (5, if b.toInt ≤ a.toInt then a else b), (6, if a ≤ b then a else b), (7, if b ≤ a then a else b), (8, b)],
        (AtomOp.amo p.1 rnd w n).apply a.toNat = some (p.2.toNat))
  ∧ (∀ (x y : W64) (n old : Nat), n = 4 ∨ n = 8 → (AtomOp.cas x y n).apply old =
      if old = x.toNat % 2 ^ (8 * n) then some (y.toNat % 2 ^ (8 * n)) else none)
  -- a peer's memory: lost without a link, held while the link resynchronises, and answered as the peer will
  ∧ (∀ s n r dev a, ready s n r → destOf s.mem r.pa = .peer dev a → ∀ i, performs i n r →
      (s.linkFor dev r.pa = none → exec i s = .next (put s.l2Shed { r with stage := .lost }))
      ∧ ∀ l, s.linkFor dev r.pa = some l →
        if (sget {} s.links l).resync then exec i s = .next s.l2Shed
        else (∀ b, r.kind ≠ .prefetch b) → ∃ u q, exec i s = .next u ∧ req u n q ∧ u.mem.bytes = s.mem.bytes
          ∧ (q = { r with stage := .notice, stamp := s.gtc } ∨ ∃ d p, q = { r with stage := .reply, data := d, poison := p }))
  -- responses
  ∧ (∀ s n r, req s n r → r.stage ≠ .reply → stays (.responseAccept n) s)
  ∧ (∀ s n r e, req s n r → r.stage = .reply → s.egressOf r = some e → s.mem.staleAt e r.ctag = true → exec (.responseAccept n) s =
      .next (s.updMem fun m => (m.dropReq n).countOrphan e (r.ctag.toNat / 64)))
  ∧ (∀ s n r, req s n r → r.stage = .reply → (∀ e, s.egressOf r = some e → s.mem.staleAt e r.ctag = false) →
      s.mem.staleAt (unitCore r.master) r.ctag = true → exec (.responseAccept n) s =
      .next (s.updMem fun m => (m.dropReq n).countOrphan (unitCore r.master) (r.ctag.toNat / 64)))
  ∧ (∀ s n r, req s n r → r.stage = .reply → (∀ e, s.egressOf r = some e → s.mem.staleAt e r.ctag = false) →
      s.mem.staleAt (unitCore r.master) r.ctag = false →
      ((r.kind = .fill ∨ ∃ b, r.kind = .prefetch b) → exec (.responseAccept n) s = .next (put s { r with stage := .arrived }))
      ∧ ((r.kind = .write ∨ ∃ ph, r.kind = .commit ph) → exec (.responseAccept n) s = .next (drop s n))
      ∧ ((r.kind = .read ∨ atomic r ∧ r.poison = 0) → exec (.responseAccept n) s = .next ((drop s n).deliver r))
      ∧ (atomic r ∧ r.poison ≠ 0 → exec (.responseAccept n) s = .next ((drop s n).consumePoison r.master r.pa)))
  ∧ (∀ s n r, req s n r → r.stage ≠ .arrived → stays (.l1MissFill n) s)
  ∧ (∀ s n r, req s n r → r.stage = .arrived → (∀ l ∈ (s.core r.master).l1, ¬ (l.loc = r.line ∧ l.ctag = r.ctag)) →
      let d := s.mem.underPending r.master r.line (r.data, r.poison)
      ∃ u l, exec (.l1MissFill n) s = .next u ∧ u.mem.findReq n = none ∧ (u.core r.master).l1Find r.line r.ctag = some l
        ∧ l.data = d.1 ∧ l.poison = d.2 ∧ l.valid = BitVec.allOnes 128 ∧ ∀ c, c ≠ r.master → (u.core c).l1 = (s.core c).l1)
  ∧ (∀ s n r, req s n r → r.stage ≠ .notice → stays (.accessViolationNotice n) s)
  ∧ (∀ s n r, req s n r → r.stage = .notice → s.mem.staleAt (unitCore r.master) r.ctag = false →
      ∃ u f, exec (.accessViolationNotice n) s = .next u ∧ u.mem.findReq n = none ∧ u.mem.bytes = s.mem.bytes
        ∧ (u.halt r.part).raised = true ∧ (u.halt r.part).faults = (s.halt r.part).faults ++ [f] ∧ f.addr = r.va ∧ f.gtc = r.stamp
        ∧ f.code = FaultCode.accessViolation.code ∧ f.det1 = BitVec.ofNat 64 (r.master + r.kind.need * 2 ^ 10))
  ∧ (∀ s n r, req s n r → r.stage = .notice → s.mem.staleAt (unitCore r.master) r.ctag = true →
      ∃ u, exec (.accessViolationNotice n) s = .next u ∧ u.mem.findReq n = none ∧ u.halts = s.halts ∧ u.mem.bytes = s.mem.bytes)
  -- dirty bits
  ∧ (∀ s n r, req s n r → r.stage ≠ .dirty → stays (.dirtySetWalk n) s)
  ∧ (∀ s n r, req s n r → r.stage = .dirty → (∀ u, s.walk (walkMaster (clusterOf r.master)) r.ctag r.va ≠ .stale u) →
      s.mem.staleAt (walkerUnit (clusterOf r.master)) r.ctag = false →
      (s.dirtyWalk (clusterOf r.master) r.ctag r.va n = none → exec (.dirtySetWalk n) s = .next (s.waitForLog n))
      ∧ ∀ t, s.dirtyWalk (clusterOf r.master) r.ctag r.va n = some t →
        exec (.dirtySetWalk n) s = .next (put t { r with stage := .home, epoch := some (t.epochOf r.ctag) }))
  -- access tables
  ∧ (∀ s k, (∀ w ∈ s.mem.atq, k ∈ w.done) → stays (.accessTableEntryApply k) s)
  ∧ (∀ s k w, s.mem.atq.find? (fun w => !w.done.contains k) = some w → isTarget k = true → w.master < 1024 →
      ∃ u, exec (.accessTableEntryApply k) s = .next u
        ∧ (∀ i, i < 128 → (u.mem.accEntry k w.master).getLsbD i = (w.entry.getLsbD i && (106 ≤ i || 12 ≤ i && i < 52)))
        ∧ (∀ j m, m < 1024 → (j ≠ k ∨ m ≠ w.master) → u.mem.accEntry j m = s.mem.accEntry j m)
        ∧ (∀ x ∈ u.mem.atq, x.id = w.id → k ∈ x.done) ∧ u = { s with mem := { s.mem with acc := u.mem.acc, atq := u.mem.atq } })
  -- translation walks
  ∧ (∀ s k va, (∀ w ∈ s.mem.walks, ¬ (w.unit = k ∧ w.va = va &&& ~~~ 0xFFF)) → stays (.translationWalk k va) s)
  ∧ (∀ s k va w, s.mem.walks.find? (fun w => w.unit == k && w.va == va &&& ~~~ 0xFFF) = some w →
      let ks := s.mem.walks.filter fun x => walkMaster x.unit == walkMaster w.unit && x.ctag == w.ctag && x.va == w.va && !x.discard
      let t := { s.updMem fun m => { m with walks := m.walks.filter fun x => !ks.contains x } with free := s.free + 1 }
      let fails := fun (t : State) (c l : Nat) => ks.foldl (fun t x => x.waiters.foldl (fun s y => s.faultWaiter y.1 c l y.2) t) t
      (w.discard = true →
        exec (.translationWalk k va) s = .next { s.updMem fun m => { m with walks := m.walks.erase w } with free := s.free + 1 })
      ∧ (w.discard = false → s.mem.walkHeld w = false → stays (.translationWalk k va) s)
      ∧ (w.discard = false → s.mem.walkHeld w = true →
        (∀ u, s.walk (walkMaster k) w.ctag w.va = .stale u →
          exec (.translationWalk k va) s = .next (t.updMem fun m => m.countDrop u (w.ctag.toNat / 64)))
        ∧ ((∀ u, s.walk (walkMaster k) w.ctag w.va ≠ .stale u) → s.mem.staleAt (walkerUnit k) w.ctag = true →
          exec (.translationWalk k va) s = .next (t.updMem fun m => m.countOrphan (walkerUnit k) (w.ctag.toNat / 64)))
        ∧ (s.mem.staleAt (walkerUnit k) w.ctag = false →
          (∀ c l, s.walk (walkMaster k) w.ctag w.va = .bad c l → exec (.translationWalk k va) s = .next (fails t c l))
          ∧ (∀ u l, s.walk (walkMaster k) w.ctag w.va = .refused u l →
            exec (.translationWalk k va) s = .next (fails (t.countDenied (some u)) 6 l))
          ∧ ∀ f z p d a, s.walk (walkMaster k) w.ctag w.va = .leaf f z p d a → ∃ e : Option W16,
            exec (.translationWalk k va) s = .next (ks.foldl (fun t x => x.waiters.foldl (fun t y => t.prefetchOn w.ctag y.1 y.2) t)
              (ks.foldl (fun t x => t.cacheEntry { unit := x.unit, ctag := w.ctag, va := w.va.toNat / 2 ^ z * 2 ^ z, size := z, frame := f,
                                                   perm := p, epoch := e }) t)))))
  ∧ (∀ (s : State) (e : TEnt), let own := fun (s : State) => s.mem.tcache.filter fun x => x.unit == e.unit
      let u := s.cacheEntry e
      e ∈ u.mem.tcache ∧ ((own s).length < cacheRoom e.unit → u = s.updMem fun m => { m with tcache := m.tcache ++ [e] })
      ∧ ((own s).length ≤ cacheRoom e.unit → (own u).length ≤ cacheRoom e.unit)
      ∧ ∀ x ∈ u.mem.tcache, x = e ∨ x ∈ s.mem.tcache)
  -- base dies
  ∧ (∀ s a p, ((∀ b ∈ s.mem.bd, ¬ (b.stack = a ∧ b.port = p ∧ b.tag = 8)) ∨ s.gtc % 4 ≠ 0 ∨ s.mem.freeBdTag a p s.gtc = none) →
      stays (.baseDieRequest a p) s)
  ∧ (∀ s a p b g, s.mem.bd.find? (fun b => b.stack == a && b.port == p && b.tag == 8) = some b → s.mem.freeBdTag a p s.gtc = some g →
      s.gtc % 4 = 0 → (∀ q ∈ s.mem.bd, q.stack = a → q.port = p → q.tag ≠ 8 → q.replied = false → q.issued ≠ s.gtc) →
      (b.wb = false → s.mem.staleAt (unitBaseDie a) b.ctag = true → ∃ u q, exec (.baseDieRequest a p) s = .next u ∧ q ∈ u.mem.bd ∧ q.tag = g
        ∧ q.dropped = true ∧ u.mem.bytes = s.mem.bytes
        ∧ (sget {} u.mem.inc (1024 * unitBaseDie a + b.ctag.toNat / 64)).drops
            = Nat.min 0xFFFF ((sget {} s.mem.inc (1024 * unitBaseDie a + b.ctag.toNat / 64)).drops + 1))
      ∧ ((b.wb = true ∨ s.mem.staleAt (unitBaseDie a) b.ctag = false) →
        (b.kind ≤ 3 → ∀ t, s.fetchStops b = some t → exec (.baseDieRequest a p) s = .next t)
        ∧ ((3 < b.kind ∨ s.fetchStops b = none) →
          ∃ u q, exec (.baseDieRequest a p) s = .next u ∧ q ∈ u.mem.bd ∧ q.tag = g ∧ q.issued = s.gtc ∧ q.performed = true
            ∧ (3 < b.kind → u.checks = s.checks ++ [(4, a, b.kind)] ∧ u.mem.bytes = s.mem.bytes)
            ∧ (b.kind = 0 → u.mem.bytes = s.mem.bytes ∧ ∀ i, i < 32 * Nat.min (b.len + 1) (4 - b.addr % 4) →
                q.data[i]? = some (byteAt (s.mem.lineData b.line) (32 * (b.addr % 4) + i)))
            ∧ ((b.kind = 1 ∨ b.kind = 2) → b.wb = true → u.mem.bytes = s.mem.bytes)
            ∧ ((b.kind = 1 ∨ b.kind = 2) → b.wb = false → u.mem.lineData b.line = mergeLine (s.mem.lineData b.line) b.lineData b.lineMask
                ∧ ∀ l, l ≠ b.line → u.mem.lineData l = s.mem.lineData l))))
  ∧ ∀ s a p g, let mine := fun (b : BdReq) => b.stack = a ∧ b.port = p ∧ b.tag = g ∧ b.performed = true
      ∃ u, exec (.baseDieReply a p g) s = .next u ∧ u = { s with mem := u.mem, free := u.free } ∧ u.mem.bytes = s.mem.bytes
        ∧ (∀ b ∈ u.mem.bd, mine b → b.replied = true) ∧ (∀ b ∈ s.mem.bd, ¬ mine b → b.replied = false → b ∈ u.mem.bd)
        ∧ ((∀ b ∈ s.mem.bd, mine b → b.replied = false → b.fetch = none) → u = { s with mem := { s.mem with bd := u.mem.bd } })
        ∧ ∀ b ∈ s.mem.bd, mine b → b.replied = false → b.fetch.isSome = true →
            (∀ q ∈ s.mem.bd, mine q → q.replied = false → q.fetch.isSome = true → q.line = b.line) → u.mem.l2Has b.line = true

/-! ## Events of contexts and links -/

/-- The events that carry parameters, incarnations and links. A held parameter write takes effect on its context (a new root removes
the context's translations), or sets SPWR; each table of the device, and each device of the fabric set, takes a bump in its turn; a
reclaim completes once nothing of the old incarnation is left; a bump that a peer has begun kills the context here; a link counts failed
flits, takes the next in sequence, goes down after 16 failed replays with what was on it lost, comes up, and resynchronises; each does nothing
before it is due (R340, R341, R351, R353, R354, R356, R363, R394, R459). Completes: PTROOT_WRITE, DLOGBASE_WRITE, DLOGIDX_WRITE,
DLOGEP_WRITE, STOPLOG_WRITE, QUEUE_POOL_LIMITS_WRITE, TSEGPOOL_WRITE, INCARNATION_INSTALL, PEER_INSTALL, PEER_DRAIN_TIMEOUT,
RECLAIM_COMPLETE, LINK_RESYNC, LINK_FLIT_RECEIVE, LINK_REPLAY_LIMIT, LINK_UP. -/
def Obligations.ContextEvents : Prop :=
  let stays := fun (i : Instr) (s : State) => exec i s = .next s
  let params := [(Instr.ptrootWrite, [0x1C]), (.dlogbaseWrite, [0x1D]), (.dlogidxWrite, [0x1E]), (.dlogepWrite, [0x1F]), (.stoplogWrite, [0x23]),
    (.queuePoolLimitsWrite, [0x1A, 0x1B]), (.tsegpoolWrite, [0x22])]
  let held := fun (s : State) (ns : List Nat) (c : Nat) (e : StreamId) (n x : Nat) (v : W64) =>
    s.paramHolds.find? (fun h => ns.contains h.2.2.1 && h.2.2.2.1 == x) = some (c, e, n, x, v)
  let bump := fun (s : State) (x : Nat) (f : Bump → Bool) (b : Bump) => s.mem.bumps.find? (fun b => b.ctx == x && f b) = some b
  let keeps := fun (s u : State) => u = { s with mem := { s.mem with inc := u.mem.inc, bumps := u.mem.bumps } }
  (∀ p ∈ params,
    (∀ s x, (∀ h ∈ s.paramHolds, h.2.2.1 ∈ p.2 → h.2.2.2.1 ≠ x) → stays (p.1 x) s)
    ∧ (∀ s c e n x v y, held s p.2 c e n x v → (s.ctx x).setParam n v = some y → ∃ u, exec (p.1 x) s = .next u ∧ u.ctx x = y
        ∧ (∀ z, z ≠ x → u.ctx z = s.ctx z) ∧ u.mem.bytes = s.mem.bytes
        ∧ (n = 0x1C → ∀ t ∈ u.mem.tcache, t.ctag.toNat / 64 ≠ x) ∧ (n ≠ 0x1C → u.mem = s.mem)
        ∧ (n = 0x22 → y.tsegpool ≠ 0 → ∀ q ∈ u.queues, q.2.ctag.toNat / 64 = x → q.2.noPool = false))
    ∧ ∀ s c e n x v, held s p.2 c e n x v → (s.ctx x).setParam n v = none → ∃ u, exec (p.1 x) s = .next u ∧ (∀ z, u.ctx z = s.ctx z)
        ∧ u.mem = s.mem ∧ ((u.core c).strm e).warnSet = ((s.core c).strm e).warnSet ||| warnIf true .spwr)
  ∧ (∀ (x : Ctx) (v : W64), x.setParam 0x1F v = some { x with dlogep := v &&& 0xFFFF }
      ∧ x.setParam 0x22 v = some { x with tsegpool := v &&& 0x000FFFFFFFFF0000 }
      ∧ x.setParam 0x23 v = if v.toNat % 16 < 6 ∨ 12 < v.toNat % 16 then none else some { x with stoplog := v &&& 0x000FFFFFFFFFF00F })
  ∧ (∀ s k x, (∀ b ∈ s.mem.bumps, b.ctx = x → k ∈ b.done) → stays (.incarnationInstall k x) s)
  ∧ (∀ s k x b, bump s x (fun b => !b.done.contains k) b → x < 1024 → ∃ u, exec (.incarnationInstall k x) s = .next u ∧ keeps s u
      ∧ sget {} u.mem.inc (1024 * k + x) = { sget {} s.mem.inc (1024 * k + x) with cur := b.inc, pend := !b.reclaimed }
      ∧ (∀ j y, y < 1024 → (j ≠ k ∨ y ≠ x) → sget {} u.mem.inc (1024 * j + y) = sget {} s.mem.inc (1024 * j + y))
      ∧ ({ b with done := b.done ++ [k] } ∈ u.mem.bumps
        ∨ b.reclaimed = true ∧ ({ b with done := b.done ++ [k] } : Bump).onDevice = true))
  ∧ (∀ s d x, (s.ctx x).fabset.contains d = false → (d ≠ s.mem.devId → stays (.peerInstall d x) s) ∧ stays (.peerDrainTimeout d x) s)
  ∧ (∀ s x, ((∃ b ∈ s.mem.bumps, b.ctx = x ∧ b.reclaimed = false) ∨ (s.ctx x).valid = false) → stays (.peerInstall s.mem.devId x) s)
  ∧ (∀ s x, (∀ b ∈ s.mem.bumps, b.ctx = x → b.reclaimed = true) → (s.ctx x).valid = true → ∃ u b, exec (.peerInstall s.mem.devId x) s = .next u
      ∧ (u.ctx x).inc = (s.ctx x).inc + 1 ∧ (u.ctx x).state = .halted ∧ u.mem.bumps = s.mem.bumps ++ [b] ∧ b.ctx = x ∧ b.peer = true
      ∧ b.inc = (u.ctx x).inc ∧ b.done = [] ∧ b.reclaimed = false ∧ (∀ t ∈ u.teams, t.ctx ≠ x) ∧ (∀ t ∈ u.tiles, t.ctx ≠ x)
      ∧ ∀ c j, (s.core c).job = some j → j.ctx = x → (u.core c).job = none)
  ∧ (∀ s d x b, d ≠ s.mem.devId → d ∈ (s.ctx x).fabset → bump s x (fun _ => true) b → b.reclaimed = false → ∃ u, exec (.peerInstall d x) s = .next u ∧ keeps s u
      ∧ (if d ∈ b.peers then { b with peersDrained := (b.peersDrained ++ [d]).eraseDups } else { b with peers := b.peers ++ [d] }) ∈ u.mem.bumps)
  ∧ (∀ s d x b, d ∈ (s.ctx x).fabset → bump s x (fun b => !b.reclaimed) b →
      let down := ∀ l ∈ s.links, d ∈ l.2.reaches → l.2.up = false ∧ l.2.down + 70000000 ≤ s.gtc
      (¬ down → stays (.peerDrainTimeout d x) s)
      ∧ (down → ∃ u, exec (.peerDrainTimeout d x) s = .next u ∧ keeps s u
          ∧ { b with peersDrained := (b.peersDrained ++ [d]).eraseDups } ∈ u.mem.bumps))
  ∧ (∀ s x, s.reclaimReady x = false → stays (.reclaimComplete x) s)
  ∧ (∀ s x b, bump s x (fun b => !b.reclaimed) b →
      (s.reclaimReady x = true ↔ s.drained b = true ∧ (s.reclaimHeld b = true ∨ b.peer = true ∨ (s.ctx x).shed = true)))
  ∧ (∀ s x, s.reclaimReady x = true → ∃ u, exec (.reclaimComplete x) s = .next u ∧ (u.ctx x).state = .empty ∧ (u.ctx x).shed = false
      ∧ (∀ n ∈ u.nodes, n.ctx ≠ x) ∧ (∀ e ∈ u.early, e.ctag.toNat / 64 ≠ x)
      ∧ (∀ k, k < 756 → (sget {} u.mem.inc (1024 * k + x)).drops = 0 ∧ (sget {} u.mem.inc (1024 * k + x)).orph = 0)
      ∧ ((s.ctx x).res = true → u.halt (s.ctx x).part = {}))
  ∧ (∀ s l, ((s.link l).up = false ∨ (s.link l).resync = false) → stays (.linkResync l) s)
  ∧ (∀ s l, (s.link l).up = true → (s.link l).resync = true → ∃ u, exec (.linkResync l) s = .next u
      ∧ u.link l = { s.link l with resync := false } ∧ (∀ k, k ≠ l → u.link k = s.link k)
      ∧ u = { s with links := u.links, mem := { s.mem with bumps := u.mem.bumps } })
  ∧ (∀ s l n ok, (s.link l).up = false → stays (.linkFlitReceive l n ok) s)
  ∧ (∀ s l n ok, (s.link l).up = true → ∃ u, exec (.linkFlitReceive l n ok) s = .next u ∧ u = { s with links := u.links }
      ∧ (∀ k, k ≠ l → u.link k = s.link k) ∧ u.link l =
        if ok = false then { s.link l with fails := (s.link l).fails + 1 }
        else if n = (s.link l).next then { s.link l with next := n + 1, acked := (s.link l).acked + 1, fails := 0 }
        else if n < (s.link l).next then { s.link l with acked := (s.link l).acked + 1 } else s.link l)
  ∧ (∀ s l, ((s.link l).up = false ∨ (s.link l).fails ≤ 16) → stays (.linkReplayLimit l) s)
  ∧ (∀ s l, (s.link l).up = true → 16 < (s.link l).fails → ∃ u, exec (.linkReplayLimit l) s = .next u ∧ (u.link l).up = false
      ∧ (u.link l).down = s.gtc ∧ (u.link l).fails = 0 ∧ u.checks = s.checks ++ [(3, l, 0)] ∧ (∀ k, k ≠ l → u.link k = s.link k)
      ∧ u = { s with links := u.links, checks := u.checks, mem := { s.mem with reqs := u.mem.reqs } })
  ∧ (∀ s l, (36 ≤ l ∨ (s.link l).up = true) → stays (.linkUp l) s)
  ∧ ∀ s l, l < 36 → (s.link l).up = false → ∃ u, exec (.linkUp l) s = .next u ∧ u = { s with links := u.links }
      ∧ (u.link l).up = true ∧ (u.link l).resync = true ∧ (u.link l).fails = 0 ∧ (u.link l).next = 0
      ∧ (∀ d, d ∈ (u.link l).reaches ↔ d < s.mem.domain ∧ d ≠ s.mem.devId ∧ Config.linkReaches l d = true)
      ∧ ∀ k, k ≠ l → u.link k = s.link k

/-! ## Events of halts, pre-emption and machine checks -/

/-- The events of halts and pre-emptions: a unit that a raised line stops writes its records once, and the first fault by stamp, then by
source, is the primary; the halt completes when every unit has, ends a pre-emption in progress and tells the manager; a request reaches
its units; a core without a checkpoint in time makes a full save; a core saves itself and acknowledges, and the last acknowledgement
completes the pre-emption; a machine check rolls back or faults each node that the unit serves, or is logged (R389, R396, R397, R399,
R400, R402, R405, R406, R407, R411, R445, R454). Completes: UNIT_HALT_STOP, HALT_COMPLETE, PREEMPT_REQUEST_RECEIVE, CKWD_TIMEOUT, CORE_SAVE,
CUFF_ACK, MACHINE_CHECK. -/
def Obligations.HaltEvents : Prop :=
  let stays := fun (i : Instr) (s : State) => exec i s = .next s
  let unit := fun (s : State) (p n : Nat) (u : Option (Nat × StreamId)) => (s.haltUnits p).find? (fun u => u.1 == n) = some (n, u)
  let late := fun (s : State) (p n : Nat) => (s.halt p).faults.filter fun r => r.src == n
  let cuff := fun (s : State) (c : Nat) (f : Cuff) => s.cuffOf c = some f
  (∀ s p n, ((s.halt p).raised = false ∨ (s.halt p).kill = true ∨ (∀ u ∈ s.haltUnits p, u.1 ≠ n)
      ∨ (n ∈ (s.halt p).stopped ∧ ∀ r ∈ (s.halt p).faults, r.src ≠ n) ∨ ∃ u, unit s p n u ∧ s.unitAtStop u = false) →
      stays (.unitHaltStop p n) s)
  ∧ (∀ s p n u, unit s p n u → (∀ c, u ≠ some (c, .mx)) → (s.halt p).raised = true → (s.halt p).kill = false →
      (n ∉ (s.halt p).stopped ∨ late s p n ≠ []) → s.unitAtStop u = true → ∃ t, exec (.unitHaltStop p n) s = .next t
        ∧ n ∈ (t.halt p).stopped ∧ (t.halt p).faults = ((s.halt p).faults.filter fun r => r.src != n) ∧ (t.halt p).raised = true
        ∧ (t.halt p).opened = true ∧ (∀ m ∈ (s.halt p).stopped, m ∈ (t.halt p).stopped) ∧ t.cores = s.cores
        ∧ (∀ r, late s p n = [r] → (t.halt p).primary =
            if r.code ≠ 0 ∧ ∀ q, (s.halt p).primary = some q → r.gtc < q.gtc ∨ r.gtc = q.gtc ∧ r.src < q.src then some r
            else (s.halt p).primary)
        ∧ (late s p n = [] → (t.halt p).primary = (s.halt p).primary)
        ∧ ∀ q, q ≠ p → t.halt q = s.halt q)
  ∧ (∀ s p n c, unit s p n (some (c, .mx)) → (s.halt p).raised = true → (s.halt p).kill = false → n ∉ (s.halt p).stopped →
      (s.unitAtStop (some (c, .mx)) = true ↔ ((s.core c).mxs.form = [] ∨ (s.core c).mxs.trapped = true)
        ∧ ((s.core c).mxAtBoundary = true ∨ 96 ≤ (s.core c).skid))
      ∧ (s.unitAtStop (some (c, .mx)) = true → ∃ t, exec (.unitHaltStop p n) s = .next t ∧ n ∈ (t.halt p).stopped
          ∧ (t.halt p).opened = true))
  ∧ (∀ r : StopRec, r.bytes.length = 64 ∧ let at' := fun off n => leNat ((r.bytes.drop off).take n)
      at' 0 2 = r.src % 2 ^ 16 ∧ at' 2 1 = r.code % 2 ^ 8 ∧ at' 3 1 = r.flags % 2 ^ 8 ∧ at' 4 3 = r.cpath % 2 ^ 24 ∧ at' 7 1 = 0
        ∧ at' 8 8 = r.gtc % 2 ^ 64 ∧ at' 16 2 = r.ctag.toNat ∧ at' 18 2 = 0 ∧ at' 20 4 = r.node.toNat ∧ at' 24 8 = r.pc.toNat
        ∧ at' 32 8 = r.addr.toNat ∧ at' 40 8 = r.det1.toNat ∧ at' 48 8 = r.det2.toNat ∧ at' 56 8 = r.time.toNat)
  ∧ (∀ s x, ((s.ctx x).res = false ∨ s.allStopped (s.ctx x).part = false) → stays (.haltComplete x) s)
  ∧ (∀ s x, (s.ctx x).res = true → s.allStopped (s.ctx x).part = true → ∃ u, exec (.haltComplete x) s = .next u
      ∧ (u.halt (s.ctx x).part).complete = true ∧ (∀ f ∈ u.cuffs, f.part ≠ (s.ctx x).part) ∧ (u.ctx x).stoppedAt = s.gtc
      ∧ u.cores = s.cores
      ∧ if (s.halt (s.ctx x).part).pstop = true ∧ (s.halt (s.ctx x).part).primary = none then
          (u.ctx x).state = .stopped ∧ u.mem = s.mem
        else (u.ctx x).state = .halted ∧ ∃ m, u.mem.svc = s.mem.svc ++ [m] ∧ m.ctx = (s.ctx x).mgr ∧ m.hdr = (s.ctx x).svcq
          ∧ elem m.slot 8 0 = 0x23 ∧ elem m.slot 16 1 = (s.ctagOf x).toNat
          ∧ ∀ r, (s.halt (s.ctx x).part).primary = some r → elem m.slot 16 2 = r.src % 2 ^ 16 ∧ elem m.slot 8 6 = r.code % 2 ^ 8)
  ∧ (∀ (s : State) p, s.allStopped p = true ↔ (s.halt p).raised = true ∧ (s.halt p).kill = false ∧ (s.halt p).complete = false
      ∧ (s.halt p).faults = [] ∧ ∀ u ∈ s.haltUnits p, u.1 ∈ (s.halt p).stopped)
  ∧ (∀ s p n, exec (.preemptRequestReceive p n) s = .next { s with cuffs := s.cuffs.map fun f =>
      if f.part = p then { f with sends := f.sends.filter fun m => m ≠ n } else f })
  ∧ (∀ s c, (∀ f ∈ s.cuffs, c ∉ f.acks) → stays (.ckwdTimeout c) s ∧ stays (.coreSave c) s)
  ∧ (∀ s c f, cuff s c f →
      if (s.core c).job = none ∨ (s.core c).atUnits = true ∨ c ∈ f.full ∨ c ∈ f.saved
          ∨ s.gtc < f.t0 + (s.ctx (f.ctag.toNat / 64)).ckwd.toNat then stays (.ckwdTimeout c) s
      else exec (.ckwdTimeout c) s = .next { s with cuffs := s.cuffs.map fun g =>
        if g.part = f.part then { g with full := g.full ++ [c], sends := g.sends.filter fun m => m ≠ c } else g })
  ∧ (∀ s c f, cuff s c f → (c ∈ f.sends ∨ c ∈ f.saved) → stays (.coreSave c) s)
  ∧ (∀ s c f, cuff s c f → c ∉ f.sends → c ∉ f.saved → (s.core c).saveOp = none →
      (s.engineStopped c (f.full.contains c) = false → stays (.coreSave c) s)
      ∧ (s.engineStopped c (f.full.contains c) = true → ∃ u o, exec (.coreSave c) s = .next u ∧ (u.core c).saveOp = some o
          ∧ o.commit = some .all ∧ o.newPhase = true ∧ o.pub = some 3 ∧ u.cuffs = s.cuffs))
  ∧ (∀ s c f o, cuff s c f → c ∉ f.sends → c ∉ f.saved → (s.core c).saveOp = some o →
      (o.stage < 4 → stays (.coreSave c) s)
      ∧ (4 ≤ o.stage → ∃ u, exec (.coreSave c) s = .next u ∧ (u.core c).saveOp = none ∧ (u.core c).l1 = []
          ∧ u.cuffs = s.cuffs.map fun g => if g.part = f.part then { g with saved := g.saved ++ [c] } else g))
  ∧ (∀ s p n, (∀ f ∈ s.cuffs, f.part ≠ p) → stays (.cuffAck p n) s)
  ∧ (∀ s p n f, s.cuffs.find? (fun f => f.part == p) = some f → s.mayAck f n = false → stays (.cuffAck p n) s)
  ∧ (∀ s p n f, s.cuffs.find? (fun f => f.part == p) = some f → s.mayAck f n = true → (∃ m ∈ f.acks, m ≠ n) →
      exec (.cuffAck p n) s = .next { s with cuffs := s.cuffs.map fun g =>
        if g.part = p then { f with acks := f.acks.filter fun m => m ≠ n } else g })
  ∧ (∀ s p n f, s.cuffs.find? (fun f => f.part == p) = some f → s.mayAck f n = true → (∀ m ∈ f.acks, m = n) →
      (f.park = false ∨ 2 ≤ s.power.grade) → ∃ u, exec (.cuffAck p n) s = .next u ∧ (∀ g ∈ u.cuffs, g.part ≠ p)
        ∧ (u.ctx (f.ctag.toNat / 64)).state = .preempted ∧ (u.ctx (f.ctag.toNat / 64)).parked = f.park
        ∧ ∀ c j, (u.core c).job = some j → j.ctx ≠ f.ctag.toNat / 64)
  ∧ (∀ s k n e, s.nodesServed k n = [] → (∀ x, (s.ctx x).mgr ≠ 1024) → ∃ u g, exec (.machineCheck k n e) s = .next u ∧ u.halts = s.halts ∧ u.rollbacks = s.rollbacks
      ∧ sget [] u.mem.logs 1024 = sget [] s.mem.logs 1024 ++ [g] ∧ g.d0.extractLsb' 56 7 = 6 ∧ g.d3 = 0xFFFFFFFF ∧ (k, n, e) ∉ u.checks
      ∧ (∀ c, (u.core c).suspect = ((s.core c).suspect || decide (k = 1 ∧ c = n))) ∧ ∀ c, (u.core c).job = (s.core c).job)
  ∧ ∀ s k n e x w, s.nodesServed k n = [(x, w)] → ∃ u, exec (.machineCheck k n e) s = .next u ∧ (k, n, e) ∉ u.checks
      ∧ (∀ c, (u.core c).suspect = ((s.core c).suspect || decide (k = 1 ∧ c = n)))
      ∧ if (s.nodes.find? fun m => m.ctx == x && m.r.nodeid == w).any (fun m => m.flags.testBit 0) then
          u.halts = s.halts ∧ ((∀ r ∈ s.rollbacks, ¬ (r.1 = x ∧ r.2.1 = w)) → u.rollbacks = s.rollbacks ++ [(x, w, .hardware)])
        else (u.halt (s.ctx x).part).raised = true ∧ u.rollbacks = s.rollbacks ∧ ∃ r,
          (u.halt (s.ctx x).part).faults = (s.halt (s.ctx x).part).faults ++ [r] ∧ r.code = FaultCode.machineCheck.code ∧ r.node = w
            ∧ r.gtc = s.gtc ∧ r.ctag = s.ctagOf x

/-! ## Events of power -/

/-- The events of power: C moves to its target by at most a ramp a step; a curve takes over at VFROM and gives way to the floor at VTO; a
step reads the accumulators and sets P10, C, the refill target and CURT; a window's end judges the mean and escalates; a grade change
notifies every resident context's manager and begins its actions; a ratio change restarts the clock; an alarm records its cause, drops
refill and moves divisor 3 to 4; a replay limit, a wake and a park gate act on their clusters; each does nothing before it is due (R426,
R428, R430, R431, R432, R437, R439, R440, R441, R442, R446, R447). Completes: CURVE_IN_FORCE, CURVE_EXPIRE, CURVE_STEP, BRIM_WINDOW_END,
GRADE_CHANGE, CLOCK_RESTART, OVERCURRENT_ALARM, REPLAY_LIMIT, CLUSTER_WAKE_REGISTER, WAKE_COMPLETE, C_DIE_PARK_GATE. -/
def Obligations.PowerEvents : Prop :=
  let stays := fun (i : Instr) (s : State) => exec i s = .next s
  let logged := fun (s u : State) => ∃ e, sget [] u.mem.logs 1024 = sget [] s.mem.logs 1024 ++ [e] ∧ e.d0.extractLsb' 56 7 = 9
  let quiet := fun (s u : State) => sget [] u.mem.logs 1024 = sget [] s.mem.logs 1024
  let curt := fun (u : State) => u.power.curt = BitVec.ofNat 64 (u.power.c / 100 % 2 ^ 16 * 2 ^ 32 + u.power.curSeq.toNat % 2 ^ 16 * 2 ^ 16
    + (if u.power.curve = none then 64 else 0) + (if u.power.occause = 0 then 0 else 32) + (if u.power.esc then 16 else 0) + u.power.grade)
  let suspended := fun (u : State) (k : Nat) => ∀ i, i < 8 → (u.core (8 * k + i)).mx.ssus = true
  (∀ c p r, nextC c p r = if r = 0 then 100 * p else if c ≤ 100 * p then min (100 * p) (c + r) else max (100 * p) (c - r))
  ∧ (∀ s, (∀ c, s.power.pending = some c → s.gtc < c.vfrom) → stays .curveInForce s)
  ∧ (∀ s c, s.power.pending = some c → c.vfrom ≤ s.gtc → ∃ u, exec .curveInForce s = .next u
      ∧ u.power = { s.power with curve := some c, pending := none } ∧ (s.power.curve = none → logged s u) ∧ (s.power.curve ≠ none → quiet s u)
      ∧ u = { s with power := u.power, mem := u.mem })
  ∧ (∀ s, (∀ c, s.power.curve = some c → s.gtc < c.vto) → stays .curveExpire s)
  ∧ (∀ s c, s.power.curve = some c → c.vto ≤ s.gtc → ∃ u, exec .curveExpire s = .next u ∧ u.power = { s.power with curve := none } ∧ logged s u
      ∧ u = { s with power := u.power, mem := u.mem })
  ∧ (∀ s, (s.gtc % 70000 ≠ 0 ∨ s.power.stepped = some s.gtc) → stays .curveStep s)
  ∧ (∀ s, s.gtc % 70000 = 0 → s.power.stepped ≠ some s.gtc → s.power.measured ≠ some s.gtc → ∃ u, exec .curveStep s = .next u
      ∧ u.power.e10 = ((List.range 64).map fun k => (s.cluster k).eacc.toNat).sum ∧ u.power.p10 = 100 * (u.power.e10 : Int) + s.power.off
      ∧ u.power.c = nextC s.power.c (s.power.target s.gtc).1 (s.power.target s.gtc).2.1 ∧ u.power.csum = s.power.csum + u.power.c
      ∧ u.power.steps = s.power.steps + 1 ∧ u.power.stepped = some s.gtc ∧ u.power.grade = s.power.grade ∧ curt u
      ∧ (let c : Int := (u.power.c * (wattUnit / 100) : Nat)
         let b : Int := brimBound u.power.csum u.power.steps
         u.power.refill = if c < u.power.p10 then s.power.refill - 4 else if 2 * u.power.p10 < 2 * c - b then min 256 (s.power.refill + 4)
           else s.power.refill)
      ∧ (∀ k, k < 64 → (u.cluster k).eacc = 0 ∧ (u.cluster k).replays = 0
          ∧ (u.cluster k).refill = if (s.cluster k).gated then (s.cluster k).refill
            else if (s.cluster k).refill ≤ u.power.refill then min u.power.refill ((s.cluster k).refill + 4)
            else max u.power.refill ((s.cluster k).refill - 4))
      ∧ u.cores = s.cores)
  ∧ (∀ s, (s.gtc % 7000000 ≠ 0 ∨ s.gtc = 0 ∨ s.power.windowed = some s.gtc) → stays .brimWindowEnd s)
  ∧ (∀ s, s.gtc % 7000000 = 0 → s.gtc ≠ 0 → s.power.windowed ≠ some s.gtc → s.power.measured = some s.gtc → ∃ u, exec .brimWindowEnd s = .next u
      ∧ (let n := max 1 s.power.steps
         let b := brimBound s.power.csum s.power.steps
         let sum := s.power.csum * (wattUnit / 100)
         let exempt := s.gtc - 7000000 < s.power.raiseTo
         let above := ¬ exempt ∧ sum + n * b < n * u.power.pm
         let below := ¬ exempt ∧ ¬ above ∧ s.power.demand = true ∧ n * u.power.pm + n * b < sum
         (above → u.power.esc = true ∧ u.power.good = 0)
         ∧ (¬ above → u.power.good = s.power.good + 1 ∧ (u.power.esc = true ↔ s.power.esc = true ∧ s.power.good = 0))
         ∧ (¬ above → ¬ below → u.power.esc = s.power.esc → quiet s u) ∧ (above → s.power.esc = true → logged s u))
      ∧ u.power.off = (u.power.pm : Int) - s.power.e1 ∧ u.power.e1 = 0 ∧ u.power.csum = 0 ∧ u.power.steps = 0 ∧ u.power.demand = true
      ∧ u.power.c = s.power.c ∧ u.power.grade = s.power.grade ∧ u.cores = s.cores ∧ u.clusters = s.clusters)
  ∧ (∀ s, s.power.grade = s.power.wantGrade s.gtc → stays .gradeChange s)
  ∧ (∀ s, s.power.grade ≠ s.power.wantGrade s.gtc → ∃ u, exec .gradeChange s = .next u ∧ u.power.grade = s.power.wantGrade s.gtc ∧ curt u
      ∧ u.power.c = s.power.c ∧ ∀ x y, (x, y) ∈ s.ctxs → y.res = true → (s.ctx x) = y → ∃ m ∈ u.mem.svc, m.ctx = y.mgr ∧ m.hdr = y.svcq
          ∧ elem m.slot 8 0 = 0x24 ∧ elem m.slot 16 1 = (s.ctagOf x).toNat ∧ elem m.slot 8 4 = s.power.grade % 256
          ∧ elem m.slot 8 5 = s.power.wantGrade s.gtc % 256)
  ∧ (∀ s, s.power.grade = 0 → s.power.wantGrade s.gtc = 1 → ∃ u, exec .gradeChange s = .next u ∧ ∀ k, k < 64 → suspended u k
      ∧ (u.cluster k).want = if (s.cluster k).ratio = .lo ∧ (s.cluster k).divisor = 6 then none else some (.lo, 6))
  ∧ (∀ s, s.power.grade < 2 → s.power.wantGrade s.gtc = 2 →
      (∀ x y, (x, y) ∈ s.ctxs → s.ctx x = y) → (∀ x, (s.ctx x).state = .running → s.runsEssential x = false → field (s.ctx x).savebase 12 40 ≠ 0) →
      ∃ u, exec .gradeChange s = .next u ∧ ∀ x y, (x, y) ∈ s.ctxs → y.state = .running → s.runsEssential x = false →
        ∃ f ∈ u.cuffs, f.part = y.part)
  ∧ (∀ s k, (∀ t, (s.cluster k).restart = some t → s.gtc < t) → stays (.clockRestart k) s)
  ∧ (∀ s k t, (s.cluster k).restart = some t → t ≤ s.gtc → ∃ u, exec (.clockRestart k) s = .next u ∧ u = { s with clusters := u.clusters }
      ∧ (∀ j, j ≠ k → u.cluster j = s.cluster j) ∧ (u.cluster k).restart = none ∧ (u.cluster k).want = none
      ∧ ∀ r d, (s.cluster k).want = some (r, d) → (u.cluster k).ratio = r ∧ (u.cluster k).divisor = d)
  ∧ (∀ s a k, ∃ u, exec (.overcurrentAlarm a k) s = .next u ∧ u.power.refill = 32
      ∧ (u.power.occause.getLsbD (match a with | .peak => 0 | .didt => 1 | .fault => 2 | .conv => 3 | .therm => 4) = true)
      ∧ (∀ i, i < 5 → s.power.occause.getLsbD i = true → u.power.occause.getLsbD i = true)
      ∧ u.power.occause.toNat / 2 ^ 8 % 2 ^ 8 = min 255 (s.power.occause.toNat / 2 ^ 8 % 2 ^ 8 + 1)
      ∧ u.power.occause.toNat / 2 ^ 16 = (if s.power.occause = 0 then s.gtc % 2 ^ 48 else s.power.occause.toNat / 2 ^ 16)
      ∧ u.checks = s.checks ++ (if a = .conv then [(5, k, 0)] else [])
      ∧ ∀ j, j < 64 → ((s.cluster j).divisor = 3 → suspended u j)
        ∧ (u.cluster j).want = let w := (s.cluster j).want
          if w.map (·.2) = some 3 ∨ (w = none ∧ (s.cluster j).divisor = 3) then some (.hi, 4) else w)
  ∧ (∀ s k, (s.cluster k).limited = false → stays (.replayLimit k) s)
  ∧ (∀ s k, (s.cluster k).limited = true → ∃ u, exec (.replayLimit k) s = .next u ∧ suspended u k ∧ u.checks = s.checks ++ [(2, k, 0)]
      ∧ u.cluster k = { s.cluster k with limited := false, replays := 0, want := some (.mid, 4) }
      ∧ ∀ j, j ≠ k → u.cluster j = s.cluster j)
  ∧ (∀ s k, ∃ u, exec (.clusterWakeRegister k) s = .next u ∧ u = { s with clusters := u.clusters } ∧ (∀ j, j ≠ k → u.cluster j = s.cluster j)
      ∧ u.cluster k = if dieOf k ∈ s.parkedDies then s.cluster k else { s.cluster k with
          waking := (s.cluster k).waking || (s.cluster k).gated
          wakeBy := if (s.cluster k).gated = true ∧ (s.cluster k).waking = false then s.gtc + 350000 else (s.cluster k).wakeBy })
  ∧ (∀ s k, ((s.cluster k).gated = false ∨ (s.cluster k).waking = false) → stays (.wakeComplete k) s)
  ∧ (∀ s k, (s.cluster k).gated = true → (s.cluster k).waking = true → ∃ u, exec (.wakeComplete k) s = .next u ∧ (u.cluster k).gated = false
      ∧ (u.cluster k).waking = false ∧ (u.cluster k).bucket = 4096 ∧ (u.cluster k).refill = 32
      ∧ (s.waitingTeams k = [] → u = { s with clusters := u.clusters }))
  ∧ (∀ s d, (s.power.grade < 2 ∨ d ∈ s.parkedDies ∨ s.dieIdle d = false ∨ ∃ e, e < d ∧ e ∉ s.parkedDies ∧ s.dieIdle e = true) →
      stays (.cDieParkGate d) s)
  ∧ ∀ s d, 2 ≤ s.power.grade → d ∉ s.parkedDies → s.dieIdle d = true → (∀ e, e < d → e ∈ s.parkedDies ∨ s.dieIdle e = false) →
      ∃ u, exec (.cDieParkGate d) s = .next u ∧ u.parkedDies = s.parkedDies ++ [d] ∧ ∀ k, k < 64 →
        (dieOf k = d → (u.cluster k).gated = true) ∧ (dieOf k ≠ d → u.cluster k = s.cluster k ∧ ∀ i, i < 8 → u.core (8 * k + i) = s.core (8 * k + i))

/-! ## Host and peers -/

/-- Operations of the host and of peers. A queue pair whose context is being reclaimed holds its operations (R352, R354). A queue pair without
a bound context, or an access that the table refuses, is answered with a violation and changes no byte; a stale one is not answered; a write that is allowed replaces its bytes and no other, a read answers the
bytes, a fetch-and-add answers the old value and stores the sum; a send reaches the firmware on queue pair 0 only, and what is not
supported is refused; a peer's operation passes the ingress's checks first (R303, R334, R335, R348, R457, R458, R460). Completes:
HOST_RDMA_WRITE, HOST_RDMA_READ, HOST_RDMA_FETCH_ADD, HOST_SEND, HOST_REQUEST_REFUSED, ETHERNET_LINK_TRAINING, PEER_REQUEST_INGRESS. -/
def Obligations.HostEvents : Prop :=
  let answered := fun (s u : State) (m st : Nat) (bs : List Byte) => u.fw.answers = s.fw.answers ++ [(m, st, bs)]
  let tag := fun (s : State) (q : Nat) (x : Nat) (g : W16) => q < 256 ∧ sfind s.fw.qps q = some x
    ∧ g = ctagOf x (s.mem.curAt (unitEndpoint (q / 128)) x)
  let one := fun (s : State) (pa n loc : Nat) => 0 < n ∧ pa % 128 + n ≤ 128 ∧ destOf s.mem pa = .dram loc
  let wrote := fun (s u : State) (loc n v : Nat) => ∀ l i, i < 128 → byteAt (u.mem.lineData l) i =
    if l = loc / 128 ∧ loc % 128 ≤ i ∧ i < loc % 128 + n then byteAt (BitVec.ofNat 1024 v) (i - loc % 128) else byteAt (s.mem.lineData l) i
  let whole := fun (s : State) (loc n : Nat) => poisonHit (s.mem.linePoison (loc / 128)) loc n = false
  let open_ := fun (s : State) (q : Nat) => s.qpStopped q = false ∧ ∀ h ∈ s.fw.hostHeld, h.qp ≠ q
  let hosts := fun (q pa : Nat) (p : List Byte) (n : Nat) (a : W64) =>
    [(Instr.hostRdmaWrite q pa p, permW, p.length), (.hostRdmaRead q pa n, permR, n), (.hostRdmaFetchAdd q pa a, permR + permW + permA, 8)]
  (∀ (s : State) q, (s.qpStopped q = true ↔ ∃ x b, sfind s.fw.qps q = some x ∧ s.pendingBump x = some b))
  ∧ (∀ s q pa p n a, ¬ open_ s q → pa % 8 = 0 → ∀ i ∈ [(Instr.hostRdmaWrite q pa p, PeerOp.write p none), (.hostRdmaRead q pa n, .read n),
      (.hostRdmaFetchAdd q pa a, .fetchAdd a)],
      exec i.1 s = .next { s with fw := { s.fw with hostHeld := s.fw.hostHeld ++ [{ qp := q, pa := pa, op := i.2 }] } })
  ∧ (∀ s q pa p n a, (256 ≤ q ∨ sfind s.fw.qps q = none) → open_ s q → pa % 8 = 0 → ∀ i ∈ hosts q pa p n a, ∃ u, exec i.1 s = .next u
      ∧ answered s u (600 + q) 1 [] ∧ u.fw.violations = s.fw.violations ++ [(endpointSource q, 600 + q, pa, s.gtc)]
      ∧ u = { s with fw := { s.fw with answers := u.fw.answers, violations := u.fw.violations } })
  ∧ (∀ s q pa p n a x g loc, open_ s q → tag s q x g → pa % 8 = 0 → ∀ i ∈ hosts q pa p n a, one s pa i.2.2 loc →
      (∀ v, s.mem.checkAt loc (600 + q) g pa i.2.1 = .denied v → ∃ u, exec i.1 s = .next u ∧ answered s u (600 + q) 1 []
        ∧ u.fw.violations = s.fw.violations ++ [(endpointSource q, 600 + q, pa, s.gtc)] ∧ u.mem = (s.countDenied (some v)).mem)
      ∧ (∀ v, s.mem.checkAt loc (600 + q) g pa i.2.1 = .stale v → ∃ u, exec i.1 s = .next u ∧ u.fw = s.fw ∧ u.mem.bytes = s.mem.bytes))
  ∧ (∀ s q pa p x g loc, open_ s q → tag s q x g → one s pa p.length loc → s.mem.checkAt loc (600 + q) g pa permW = .pass →
      ∃ u, exec (.hostRdmaWrite q pa p) s = .next u ∧ answered s u (600 + q) 0 [] ∧ wrote s u loc p.length (leNat p) ∧ u.cores = s.cores)
  ∧ (∀ s q pa n x g loc, open_ s q → tag s q x g → one s pa n loc → s.mem.checkAt loc (600 + q) g pa permR = .pass → whole s loc n →
      ∃ u, exec (.hostRdmaRead q pa n) s = .next u ∧ u.mem.bytes = s.mem.bytes ∧ u.cores = s.cores
        ∧ answered s u (600 + q) 0 ((List.range n).map fun i => byteAt (s.mem.lineData (loc / 128)) (loc % 128 + i)))
  ∧ (∀ s q pa n x g loc, open_ s q → tag s q x g → one s pa n loc → s.mem.checkAt loc (600 + q) g pa permR = .pass → ¬ whole s loc n →
      ∃ u, exec (.hostRdmaRead q pa n) s = .next u ∧ u.mem.bytes = s.mem.bytes ∧ answered s u (600 + q) 2 [])
  ∧ (∀ s q pa a x g loc, open_ s q → tag s q x g → pa % 8 = 0 → one s pa 8 loc →
      s.mem.checkAt loc (600 + q) g pa (permR + permW + permA) = .pass → whole s loc 8 →
      let old := lineBytesAt (s.mem.lineData (loc / 128)) loc 8
      ∃ u, exec (.hostRdmaFetchAdd q pa a) s = .next u ∧ answered s u (600 + q) 0 (leBytes old 8)
        ∧ wrote s u loc 8 ((old + a.toNat) % 2 ^ 64) ∧ u.cores = s.cores)
  ∧ (∀ s q pa a, pa % 8 ≠ 0 → exec (.hostRdmaFetchAdd q pa a) s = .next (s.answer (600 + q) 3 []))
  ∧ (∀ s p, exec (.hostSend 0 p) s = .next { s with fw := { s.fw with cmds := s.fw.cmds ++ [{ slot := p }] } })
  ∧ (∀ s q p, q ≠ 0 → exec (.hostSend q p) s = .next (s.answer (600 + q) 3 []))
  ∧ (∀ s q o, exec (.hostRequestRefused q o) s = .next (s.answer (600 + q) 3 []))
  ∧ (∀ s m st bs, (State.answer s m st bs) = { s with fw := { s.fw with answers := s.fw.answers ++ [(m, st, bs)] } })
  ∧ (∀ s p r, exec (.ethernetLinkTraining p r) s =
      .next { s with fw := { s.fw with rate400 := s.fw.rate400.mapIdx fun i x => if i = p then r else x } })
  ∧ (∀ s l g o pa, s.mem.staleAt (unitIngress l) g = true → exec (.peerRequestIngress l g o pa) s =
      .next (s.updMem fun m => m.countDrop (unitIngress l) (g.toNat / 64)))
  ∧ (∀ s l g o pa v, s.mem.check (unitIngress l) (856 + l) g pa (peerNeed o) = .denied v →
      exec (.peerRequestIngress l g o pa) s = .next ((s.countDenied (some v)).answer (856 + l) 1 []))
  ∧ (∀ s l g pa p loc, s.mem.check (unitIngress l) (856 + l) g pa permW = .pass → one s pa p.length loc →
      s.mem.checkAt loc (856 + l) g pa permW = .pass → ∃ u, exec (.peerRequestIngress l g (.write p none) pa) s = .next u
        ∧ answered s u (856 + l) 0 [] ∧ wrote s u loc p.length (leNat p) ∧ u.cores = s.cores)
  ∧ (∀ s l g pa n loc, s.mem.check (unitIngress l) (856 + l) g pa permR = .pass → one s pa n loc →
      s.mem.checkAt loc (856 + l) g pa permR = .pass → whole s loc n → ∃ u, exec (.peerRequestIngress l g (.read n) pa) s = .next u
        ∧ u.mem.bytes = s.mem.bytes
        ∧ answered s u (856 + l) 0 ((List.range n).map fun i => byteAt (s.mem.lineData (loc / 128)) (loc % 128 + i)))
  ∧ ∀ s l g pa a loc, s.mem.check (unitIngress l) (856 + l) g pa (permR + permW + permA) = .pass → pa % 8 = 0 → one s pa 8 loc →
      s.mem.checkAt loc (856 + l) g pa (permR + permW + permA) = .pass → whole s loc 8 →
      let old := lineBytesAt (s.mem.lineData (loc / 128)) loc 8
      ∃ u, exec (.peerRequestIngress l g (.fetchAdd a) pa) s = .next u ∧ answered s u (856 + l) 0 (leBytes old 8)
        ∧ wrote s u loc 8 ((old + a.toNat) % 2 ^ 64)

/-! ## Firmware -/

/-- Management commands: the one at the head of the queue is served, and its response carries what it came to. What is no command is answered
BADCMD, in recovery mode all but INFO and FWSTAGE are DENIED, and a payload of the wrong length or out of reach is BADARG; each command then
has its own effect and status, and changes nothing where it fails. The payload layouts, and DENIED for reasons 3 and 4 of BUDGET, are the
model's (log entry 44) (R321, R323, R333, R425, R427, R430, R457, R460, R461, R462, R464, R465). Completes: INFO, ATTEST, BUDGET, PWRSET,
CTXDEF, PARTDEF, ATSET, QPBIND, QREG, DEVID, APSET, ENERGY, TABLES, FWSTAGE, RESET, SWEEP, FWLOG. -/
def Obligations.FirmwareCommands : Prop :=
  let fld := fun (p : BitVec 512) (off n : Nat) => p.toNat / 2 ^ (8 * off) % 2 ^ (8 * n)
  let arg := fun (p : List Byte) (off n : Nat) => leNat ((p.drop off).take n)
  let cmds : List (Instr × Nat × Option Nat) := [(.info, 1, some 0), (.attest, 2, some 32), (.budget, 3, none), (.pwrset, 4, some 136),
    (.ctxdef, 5, some 24), (.partdef, 6, some 32), (.atset, 7, some 24), (.qpbind, 8, some 16), (.qreg, 9, some 24), (.devid, 10, some 16),
    (.apset, 11, some 32), (.energy, 12, some 8), (.tables, 13, some 4048), (.fwstage, 14, none), (.reset, 15, some 8), (.sweep, 16, some 8),
    (.fwlog, 17, some 0)]
  let command := fun (p : BitVec 512) => fld p 0 1 = 0x40 ∧ 1 ≤ fld p 1 1 ∧ fld p 1 1 ≤ 17 ∧ fld p 2 6 = 0 ∧ fld p 0x20 31 = 0
  let head := fun (s : State) (m : Mgmt) => s.fw.cmds.head? = some m
  let stays := fun (i : Instr) (s : State) => exec i s = .next s
  let ends := fun (i : Instr) (s : State) (m : Mgmt) (t : State) (st : FwStatus) (why : Nat) (d : List Byte) =>
    exec i s = .next ((t.respond m st why d).dropCommand m)
  let serves := fun (s : State) (m : Mgmt) (k : Nat) (n : Option Nat) (p : List Byte) => head s m ∧ command m.slot ∧ fld m.slot 1 1 = k
    ∧ (s.fw.recovery = false ∨ k = 1 ∨ k = 14) ∧ n.getD (fld m.slot 0x10 8) = fld m.slot 0x10 8
    ∧ s.fwRead (fld m.slot 8 8) (fld m.slot 0x10 8) = some p
  let power := fun (s : State) (w : Power) => { s with power := w }
  (∀ s, s.fw.cmds = [] → ∀ c ∈ cmds, stays c.1 s)
  ∧ (∀ s m, head s m → fld m.slot 0 1 ≠ 0xFF → ¬ command m.slot → ends .info s m s .badCmd 0 [] ∧ ∀ c ∈ cmds, c.2.1 ≠ 1 → stays c.1 s)
  ∧ (∀ s m, head s m → fld m.slot 0 1 = 0xFF → exec .info s = .next (s.dropCommand m) ∧ ∀ c ∈ cmds, c.2.1 ≠ 1 → stays c.1 s)
  ∧ (∀ s m, head s m → command m.slot → ∀ c ∈ cmds, (c.2.1 ≠ fld m.slot 1 1 → stays c.1 s)
      ∧ (c.2.1 = fld m.slot 1 1 → s.fw.recovery = true → c.2.1 ≠ 1 → c.2.1 ≠ 14 → ends c.1 s m s .denied 0 [])
      ∧ (c.2.1 = fld m.slot 1 1 → (s.fw.recovery = false ∨ c.2.1 = 1 ∨ c.2.1 = 14) →
          (c.2.2.getD (fld m.slot 0x10 8) ≠ fld m.slot 0x10 8 ∨ s.fwRead (fld m.slot 8 8) (fld m.slot 0x10 8) = none) →
          ends c.1 s m s .badArg 0 []))
  ∧ (∀ (s : State) (m : Mgmt) st why d, (s.respond m st why d).dropCommand m = let t := s.respond m st why d
      { t with fw := { s.fw with cmds := s.fw.cmds.drop 1 }, served := s.served ++ m.queue.toList })
  ∧ (∀ s m p, serves s m 1 (some 0) p → ∃ v d, ends .info s m { s with free := s.free + 1 } .ok 0 d ∧ d.length = 40
      ∧ d.take 16 = [0x46, 0x48, 0x43, 0x2D, 0x53, 0x58, 0x39, 0x2D, 0x4D, 0, 0, 0, 0, 0, 0, 0] ∧ arg d 20 4 = s.fw.version.toNat
      ∧ arg d 24 2 = s.mem.devId % 2 ^ 16 ∧ arg d 26 2 = ((List.range 512).filter fun c => !(s.core c).suspect).length ∧ arg d 32 8 = v)
  ∧ (∀ s m p, serves s m 2 (some 32) p → ∃ u a, ends .attest s m u .ok 0 (leBytes a 8) ∧ u.cores = s.cores ∧ u.power = s.power ∧ u.fw = s.fw)
  ∧ (∀ s m p, serves s m 3 none p → let r := s.objReason p
      ∃ u, (r = 0 → ends .budget s m u .ok 0 [] ∧ ∃ c, u.power.pending = some c ∧ u.power.seq.toNat = arg p 24 8 ∧ c.seq.toNat = arg p 24 8
          ∧ c.vfrom = arg p 32 8 ∧ c.vto = arg p 40 8 ∧ c.segs.length = arg p 6 2 ∧ u.power.curve = s.power.curve)
        ∧ (r ≠ 0 → ends .budget s m u (if r = 3 ∨ r = 4 then .denied else .badArg) r [] ∧ u.power = s.power)
        ∧ (sget [] u.mem.logs 1024).length = (sget [] s.mem.logs 1024).length + 1)
  ∧ (∀ s m p, serves s m 4 (some 136) p → ∃ w, ends .pwrset s m (power s w) .ok 0 [] ∧ w.pfloor = arg p 0 2 ∧ w.rfloor = arg p 2 2
      ∧ w.pmin = arg p 4 2 ∧ w.pidle = arg p 6 2
      ∧ w = { s.power with pfloor := w.pfloor, rfloor := w.rfloor, pmin := w.pmin, pidle := w.pidle, pcap := w.pcap } ∧ ∀ i, i < 64 → sget 0 w.pcap i = arg p (8 + 2 * i) 2)
  ∧ (∀ s m p, serves s m 5 (some 24) p → let x := arg p 0 8
      let e := BitVec.ofNat 128 (arg p 8 16)
      if 1024 ≤ x ∨ e.toNat / 2 ^ 46 % 2 ^ 10 = x then ends .ctxdef s m s .badArg 0 []
      else if (s.ctx x).res = true then ends .ctxdef s m s .busy 0 []
      else ends .ctxdef s m (s.updCtx x fun c => { c with
        svcq := e.extractLsb' 64 64, valid := e.getLsbD 63, priv := e.getLsbD 62, mgr := e.toNat / 2 ^ 46 % 2 ^ 10 }) .ok 0 [])
  ∧ (∀ s m p, serves s m 6 (some 32) p → let k := arg p 0 8
      let e := arg p 8 24
      let ox := e / 2 ^ 49 % 16
      let oy := e / 2 ^ 47 % 4
      let w := e / 2 ^ 43 % 16
      let h := e / 2 ^ 41 % 4
      let meets := fun (q : Part) => q.ox ≤ ox + w ∧ ox ≤ q.ox + q.wm1 ∧ q.oy ≤ oy + h ∧ oy ≤ q.oy + q.hm1
      if 64 ≤ k ∨ e / 2 ^ 128 % 2 ^ 21 ≠ 0 ∨ 15 < ox + w ∨ 3 < oy + h then ends .partdef s m s .badArg 0 []
      else if ∃ c ∈ s.ctxs, c.2.res = true ∧ c.2.part = k then ends .partdef s m s .busy 0 []
      else if e.testBit 63 = true ∧ ∃ q ∈ s.parts, q.1 ≠ k ∧ q.2.valid = true ∧ meets q.2 then ends .partdef s m s .conflict 0 []
      else ∃ t, ends .partdef s m t .ok 0 [] ∧ (∀ j, j ≠ k → t.part j = s.part j) ∧ t = { s with parts := t.parts } ∧ (t.part k).ox = ox
        ∧ (t.part k).oy = oy ∧ (t.part k).wm1 = w ∧ (t.part k).hm1 = h ∧ (t.part k).valid = e.testBit 63
        ∧ (t.part k).spill = BitVec.ofNat 64 (e / 2 ^ 128) ∧ (t.part k).ctx = (s.part k).ctx)
  ∧ (∀ s m p, serves s m 7 (some 24) p → m.waits = none → let e := BitVec.ofNat 128 (arg p 8 16)
      let lg := e.toNat / 2 ^ 106 % 64
      if 1024 ≤ arg p 0 8 ∨ lg < 12 ∨ 52 < lg ∨ (e.toNat / 2 ^ 12 % 2 ^ 40 * 4096) % 2 ^ lg ≠ 0 then ends .atset s m s .badArg 0 []
      else ∃ u w, exec .atset s = .next u ∧ u.mem.atq = s.mem.atq ++ [w] ∧ w.master = arg p 0 8 ∧ w.entry = e ∧ w.done = []
        ∧ w.id = s.mem.nextReq ∧ u.fw.cmds.head? = some { m with waits := some w.id } ∧ u.fw.cmds.drop 1 = s.fw.cmds.drop 1)
  ∧ (∀ s m p n, serves s m 7 (some 24) p → m.waits = some n →
      if ∃ w ∈ s.mem.atq, w.id = n then stays .atset s else ends .atset s m s .ok 0 [])
  ∧ (∀ s m p, serves s m 8 (some 16) p → let q := arg p 0 8
      let x := arg p 8 8
      if q = 0 ∨ 256 ≤ q ∨ (x ≠ 2 ^ 64 - 1 ∧ (1024 ≤ x ∨ (s.ctx x).valid = false)) then ends .qpbind s m s .badArg 0 []
      else if x = 2 ^ 64 - 1 then ∃ t, ends .qpbind s m t .ok 0 [] ∧ sfind t.fw.qps q = none ∧ ∀ r, r ≠ q → sfind t.fw.qps r = sfind s.fw.qps r
      else if sfind s.fw.qps q = none then
        ∃ t, ends .qpbind s m t .ok 0 [] ∧ sfind t.fw.qps q = some x ∧ ∀ r, r ≠ q → sfind t.fw.qps r = sfind s.fw.qps r
      else ends .qpbind s m s (if sfind s.fw.qps q = some x then .ok else .busy) 0 [])
  ∧ (∀ s m p, serves s m 9 (some 24) p → let hdr := arg p 0 8
      let g := BitVec.ofNat 16 (arg p 16 8)
      if hdr % 64 ≠ 0 ∨ 4 < arg p 8 8 ∨ 2 ^ 16 ≤ arg p 16 8 ∨ s.ctagCurrent g = false then ends .qreg s m s .badArg 0 []
      else if ∃ q ∈ s.queues, q.2.hdr.toNat = hdr ∧ q.2.ctag.toNat / 64 = g.toNat / 64 then ends .qreg s m s .conflict 0 []
      else ∃ t, ends .qreg s m t .ok 0 [] ∧ t.queue s.nextQueue = { hdr := BitVec.ofNat 64 hdr, server := arg p 8 8, ctag := g }
        ∧ t.nextQueue = s.nextQueue + 1 ∧ ∀ j, j ≠ s.nextQueue → t.queue j = s.queue j)
  ∧ (∀ s m p, serves s m 10 (some 16) p →
      if 1024 ≤ arg p 0 8 ∨ arg p 8 8 = 0 ∨ 1024 < arg p 8 8 then ends .devid s m s .badArg 0 []
      else ends .devid s m (s.updMem fun k => { k with devId := arg p 0 8, domain := arg p 8 8 }) .ok 0 [])
  ∧ (∀ s m p, serves s m 11 (some 32) p → let a := arg p 0 8
      if 256 ≤ a ∨ 1024 ≤ arg p 8 8 ∨ arg p 16 8 % 2 ^ 35 ≠ 0 ∨ 1 < arg p 24 8 then ends .apset s m s .badArg 0 []
      else ∃ k, ends .apset s m (s.updMem fun k' => { k' with aper := k }) .ok 0 []
        ∧ sfind k a = (if arg p 24 8 = 0 then none else some { dev := arg p 8 8, base := arg p 16 8 })
        ∧ ∀ b, b ≠ a → sfind k b = sfind s.mem.aper b)
  ∧ (∀ s m p, serves s m 12 (some 8) p → if 1024 ≤ arg p 0 8 then ends .energy s m s .badArg 0 []
      else ends .energy s m s .ok 0 (leBytes (s.ctx (arg p 0 8)).energy.toNat 8))
  ∧ (∀ s m p, serves s m 13 (some 4048) p → ∃ t, ends .tables s m t .ok 0 [] ∧ t.fw.facility.toNat = arg p 2048 16 ∧ t.fw.keys = p.drop 2064
      ∧ (∀ i, i < 288 → (sget 0 t.power.etable i).toNat = arg p (4 * i) 4) ∧ (∀ i, i < 512 → sget 0 t.power.weights i = arg p (1536 + i) 1)
      ∧ t.power.c = s.power.c ∧ t.mem = s.mem ∧ t.cores = s.cores)
  ∧ (∀ s m p, serves s m 14 none p →
      if Config.imageGood p = true ∧ s.fw.fusedMin.toNat ≤ Config.imageField p 1 % 2 ^ 32 then
        ends .fwstage s m { s with fw := { s.fw with staged := some p } } .ok 0 []
      else ends .fwstage s m s .denied 0 [])
  ∧ (∀ s m p, serves s m 15 (some 8) p → if 1 < arg p 0 8 then ends .reset s m s .badArg 0 []
      else ends .reset s m { s with fw := { s.fw with wanted := some (decide (arg p 0 8 = 1)) } } .ok 0 [])
  ∧ (∀ s m p, serves s m 16 (some 8) p → m.waits = none → let c := arg p 0 8
      if 512 ≤ c then ends .sweep s m s .badArg 0 []
      else if (s.core c).job ≠ none then ends .sweep s m s .busy 0 []
      else ∃ u, exec .sweep s = .next u ∧ c ∈ u.fw.sweeps ∧ u.fw.cmds.head? = some { m with waits := some c } ∧ u.cores = s.cores)
  ∧ (∀ s m p c, serves s m 16 (some 8) p → m.waits = some c → if c ∈ s.fw.sweeps then stays .sweep s else ends .sweep s m s .ok 0 [])
  ∧ ∀ s m p, serves s m 17 (some 0) p → (sget [] s.mem.logs 1024 = [] → ends .fwlog s m s .ok 0 [])
      ∧ ∀ e l, sget [] s.mem.logs 1024 = e :: l → ∃ t, sget [] t.mem.logs 1024 = l ∧ ends .fwlog s m t .ok 0
        (leBytes e.d0.toNat 8 ++ leBytes e.d1.toNat 8 ++ leBytes e.d2.toNat 8 ++ leBytes e.d3.toNat 8)

/-! ## Resets, placing and stepping -/

/-- What a reset does (R462, R465, R466): a warm reset keeps time, DRAM, the curve in force and OCCAUSE, clears contexts, partitions, access
tables, incarnations, queue bindings, apertures, jobs, requests and versions, and takes every link down; a cold reset and an undervoltage
also zero time, SEQ and the curve. A staged image is in flash afterwards; an image that verifies and is no older than the fused minimum runs
and raises it, another leaves recovery mode. The TAP answers boundary scan only under the strap. Completes: WARM_RESET, COLD_RESET,
UNDERVOLTAGE, TAP_INSTRUCTION. -/
def Obligations.ResetsAndTap : Prop :=
  let clears := fun (s t : State) => (∀ c, t.ctx c = {} ∧ t.part c = {} ∧ t.halt c = {} ∧ (t.core c).job = none ∧ (t.core c).memq = []
      ∧ (t.core c).strm .cc = {} ∧ (t.core c).pend = [] ∧ t.mem.curAt 0 c = 0) ∧ t.mem.acc = [] ∧ t.mem.inc = [] ∧ t.queues = []
    ∧ t.fw.qps = [] ∧ t.mem.aper = [] ∧ t.mem.reqs = [] ∧ t.mem.vers = [] ∧ t.mem.tcache = [] ∧ t.mem.l2 = [] ∧ t.mem.bd = [] ∧ t.mem.walks = []
    ∧ t.mem.bumps = [] ∧ t.mem.denials = [] ∧ t.nodes = [] ∧ t.tiles = [] ∧ t.fabTiles = [] ∧ t.fw.cmds = [] ∧ t.fw.hostHeld = []
    ∧ (∀ l, (t.link l).up = false) ∧ t.power.occause = s.power.occause ∧ t.agenda = s.agenda ∧ t.phase = .edge
    ∧ t.fw.image = s.fw.staged.getD s.fw.image ∧ t.fw.staged = none ∧ t.fw.boots = s.fw.boots + 1 ∧ t.fw.wanted = none
    ∧ (t.fw.image ≠ [] → t.fw.recovery = !(Config.imageGood t.fw.image && decide (s.fw.fusedMin.toNat ≤ Config.imageField t.fw.image 1 % 2 ^ 32)))
    ∧ t.fw.fusedMin = (if t.fw.image = [] ∨ t.fw.recovery = true then s.fw.fusedMin
        else BitVec.ofNat 32 (Nat.max s.fw.fusedMin.toNat (Config.imageField t.fw.image 1 % 2 ^ 32)))
  let cold := fun (s t : State) => clears s t ∧ t.gtc = 0 ∧ t.power.seq = 0 ∧ t.power.curve = none ∧ t.power.c = 150000 ∧ t.power.pending = none
    ∧ t.cores = [] ∧ t.clusters = [] ∧ t.power.etable = []
  (∀ s, ∃ t, exec .warmReset s = .next t ∧ clears s t ∧ t.gtc = s.gtc ∧ t.mem.bytes = s.mem.bytes ∧ t.mem.poison = s.mem.poison
      ∧ t.power = { s.power with pending := none } ∧ (∀ k, (t.cluster k).eacc = (s.cluster k).eacc)
      ∧ ∀ c, (t.core c).failed = (s.core c).failed ∧ (t.core c).suspect = (s.core c).suspect)
  ∧ (∀ s, ∃ t, exec .coldReset s = .next t ∧ cold s t)
  ∧ (∀ s, ∃ t, exec .undervoltage s = .next t ∧ cold s t)
  ∧ (∀ s b, exec (.tapInstruction (.bypass b)) s = .next { s with fw := { s.fw with bypass := b, tapOut := if s.fw.bypass then 1 else 0 } })
  ∧ (∀ s, exec (.tapInstruction .idcode) s = .next { s with fw := { s.fw with tapOut := (Config.idcode 0).setWidth 64 } })
  ∧ ∀ s, if s.fw.strap = true then
      exec (.tapInstruction .boundaryScan) s = .next { s.drawn with fw := { s.fw with tapOut := Config.freeWord s.free } }
    else exec (.tapInstruction .boundaryScan) s = .next { s with fw := { s.fw with tapOut := if s.fw.bypass then 1 else 0 } }

/-- A step runs the instruction that the stream fetches. In the issue part of a tick the first slot of the turn is taken; where its stream may
issue, is not annulled, and finds the word `w` at its PC behind the words of a form already begun: with the last word of a form of modes 01,
10 and 11, the step is `exec` of what the form decodes to; with a word of mode 00, whose amended copy passes the checks of R80 and decodes
to `i`, it is `exec i`; with an earlier word of a form, the form grows; a word in the annulled shadow passes. A control stream's first
slot of CC opens the core's virtual cycle first, and MX's first slot is its turn. Before the slots come, one in each step, what is due at the
edge, what has come from outside, and a free choice of what may happen next or of the engine cycles' beginning, installs of an
incarnation only while nothing else has moved at the edge; after the slots the cycles end (R36, R55, R60, R71, R72, R76-R78, R80, R350; the
parts of a tick are the model's, log entry 12). -/
def Obligations.StepRunsDecoded : Prop :=
  let found := fun (s : State) (c : Nat) (e : StreamId) (n : Nat) (rest : List (Nat × StreamId × Nat)) =>
    { (if e = StreamId.cc ∧ n = 0 then s.openCycle c else s) with turn := rest, cur := { core := c, strm := e, slot := if e = StreamId.mx then 0 else n } }
  let fetches := fun (s : State) (c : Nat) (e : StreamId) (n : Nat) (rest : List (Nat × StreamId × Nat)) (w : W32) (t : State) =>
    let s1 := found s c e n rest
    let st := (s1.core c).strm e
    let va := st.pc + BitVec.ofNat 64 (4 * st.form.length)
    s.phase = .issue ∧ s.turn = (c, e, n) :: rest ∧ ¬ (e = .mx ∧ n = 0) ∧ s1.mayIssue c e = true ∧ s1.fetchWord c e va = .ok w
      ∧ t = s1.drawn.updCurStrm fun x => { x with fetchBuf := sinsert x.fetchBuf va.toNat w }
  let counted := fun (t : State) (n : Nat) => { t with cur := { t.cur with words := n } }
  (∀ s c e n rest w t, fetches s c e n rest w t → let form := t.curStrm.form ++ [w]
      let first := form.headD w
      (t.curStrm.isAnnulled = false → form.length = wordsOf first → field first 24 2 ≠ 0 →
        ∀ i, decodeForm 0 first (form.drop 1) = .ok i → step s = exec i (counted t (wordsOf first)))
      ∧ (form.length < wordsOf first → ∃ u, step s = .next u ∧ u.curStrm = { t.curStrm with form := form }
          ∧ u = { t with cores := u.cores, cur := (counted t (wordsOf first)).cur } ∧ ∀ d, d ≠ c → u.core d = t.core d)
      ∧ (t.curStrm.isAnnulled = true → form.length = wordsOf first → ∃ u, step s = .next u
          ∧ u.curStrm = t.curStrm.advance (wordsOf first) .seq false true ∧ u.curCore.issueOrd = t.curCore.issueOrd + 1
          ∧ u.curCore.pend = t.curCore.pend ∧ u = { t with cores := u.cores, cur := (counted t (wordsOf first)).cur })
      ∧ ∀ i, t.curStrm.isAnnulled = false → t.curStrm.form = [] → field w 24 2 = 0 → let p := unpackPatch w
        let copy := amend (t.curStrm.template p.t) p.f p.h p.v
        Latent.template c e p.t true ∉ t.mem.latent → Latent.template c e p.t false ∉ t.mem.latent →
        issueCheck e t.curCore.theJob copy = none → (e = .cx → t.curCore.postHeld = false) → decodeTpl copy = .ok i →
        let warns := patchWarns (tplOpc copy) (unpackTpl copy) p.f p.h p.v
        step s = exec i { t with cur := { t.cur with words := 1, tmpl := p.t, copy := copy, writeBack := false, patchWarn := warns } })
  ∧ (∀ s c rest, s.phase = .issue → s.turn = (c, .mx, 0) :: rest → let x := (s.core c).mx
      step s = if !x.queue.isEmpty && !x.idle then exec (.mxCommandStart c) s
        else if (s.mxLate c).isSome then exec (.scheduleMiss c) { s with turn := rest } else .next { s with turn := rest })
  ∧ (∀ s, s.phase = .issue → s.turn = [] → step s = .next { s with phase := .finish })
  ∧ (∀ s, s.phase = .finish → step s = .next s.endCycles ∧ s.endCycles.phase = .edge)
  ∧ (∀ s f, s.phase = .edge → s.due = some f → step s = f s)
  ∧ (∀ s e, s.phase = .edge → s.due.isNone = true → s.external = some e →
      step s = exec e.2 { s with agenda := s.agenda.erase e, moved := some s.gtc })
  ∧ (∀ s, s.phase = .edge → s.due.isNone = true → s.external = none →
      (step s = .next s.beginCycles ∧ s.candidates = [] ∧ s.installSteps = []) ∨ step s = .next s.drawn.beginCycles
      ∨ (∃ f ∈ s.installSteps, step s = f s.drawn) ∨ ∃ f ∈ s.candidates, step s = f { s.drawn with moved := some s.gtc })
  ∧ (∀ s : State, s.moved = some s.gtc → s.installSteps = [])
  ∧ (∀ (s u : State), ∀ f ∈ s.installSteps, ∃ n c, f u = exec (.incarnationInstall n c) u)
  ∧ ∀ (s u : State), ∀ f ∈ s.candidates, (∃ i, f u = exec i u) ∨ f u = .next u ∨ f u = .next u.peerReport ∨ f u = .next u.hostResume
      ∨ ∃ g, f u = .next (u.crownFabric g)

/-- Words of the spec's own worked cases, and words written out from R69, R71 and R81, decode to what they stand for (a sanity statement). -/
def Obligations.DecodeWords : Prop :=
  let z : Tpl := { mod := 0, dst := 0, sa := 0, sb := 0, sc := 0, pred := 0, ctl := 0, imm := 0, ext := 0 }
  decode [0, 0, 0x03000000, 0x00000402] = .ok (.add { z with dst := 4, sa := 2, sb := 3 })
  ∧ decode [0, 0xFFFFFFFC, 0x04000000, 0x0A050003] = .ok (.br { z with mod := 5, sa := 3, sb := 4, imm := 0xFFFFFFFC })
  ∧ decode [0, 0, 0, 0x241F0000] = .ok (.fork { z with mod := 0x1F })
  ∧ decode [0, 8, 0x0506003C, 0x26510402] =
      .ok (.cas { z with mod := 0x11, dst := 4, sa := 2, sb := 5, sc := 6, ctl := 0x03C, imm := 8 })
  ∧ decode [0, 0, 0x10040000, 0x2080070F] = .ok (.madd { z with dst := 7, sa := 15, sb := 16, sc := 4 })
  ∧ decode [0, 0, 0x46471800, 0x40C14445] =
      .ok (.vfma { z with mod := 1, dst := 0x44, sa := 0x45, sb := 0x46, sc := 0x47, pred := 3 })
  ∧ decode [0x60, 0, 0x93000000, 0x8140A192] = .ok (.mma { z with dst := 0xA1, sa := 0x92, sb := 0x93, ext := 0x60 })
  ∧ decode [0, 0, 0, 0xA0020004] = .ok (.tmma { z with mod := 2, sa := 4 })
  ∧ decode [0, 0, 0x05000000, 0xC0010604] = .ok (.cpostQ { z with mod := 1, dst := 6, sa := 4, sb := 5 })
  ∧ decode [0, 3, 0, 0xC3400203] = .ok (.bcpost { z with dst := 2, sa := 3, imm := 3 })
  ∧ decode [0, 1, 0, 0xE0000500] = .ok (.csrr { z with dst := 5, imm := 1 })
  ∧ decode [0, 0, 0, 0xE0800000] = .ok (.eret z)
  ∧ decode [0xFF000005, 0, 0, 0x03000000, 0x00000402] = .ok (.templateLoad 5 0 0 0 0x03000000 0x00000402)
  ∧ decode [0xFB000009, 0x00123456] = .ok (.longImmediate 9 false 0 0 0x00123456)
  ∧ decode [0x1DC0FFF6] = .ok (.issueAndWriteBack 7 12 0 0xFFF6)
  ∧ decode [0x1680FFF6] = .ok (.stage 5 8 0 0xFFF6)
  ∧ decode [0x07000000] = .error (.extendedIndex 1)
  ∧ decode [0, 0, 0, 0x07C00000] = .error (.unassignedOpcode 0x01F)
  ∧ decode [0, 0, 0, 0xFFC00000] = .error (.unassignedOpcode 0x3FF)
  ∧ unpackTpl (amend (wordsTpl 0 0 0x03000000 0x00000402) 8 0 0x0708) = { z with dst := 7, sa := 8, sb := 3 }
  ∧ (unpackTpl (amend (wordsTpl 0 0 0x03000000 0x00000402) 15 0xB 0)).pred = 3

/-- Encoding loses nothing: decoding the words of any well-formed template instruction or word-level form gives it back, and each template
whose opcode the table assigns is the encoding of what it decodes to (R69, R71, R76, R77, R81). -/
def Obligations.DecodeEncode : Prop :=
  (∀ i : Instr, i.wf = true → encode i ≠ [] → decode (encode i) = .ok i)
  ∧ (∀ (d0 d1 d2 d3 : W32) (i : Instr), decode [d0, d1, d2, d3] = .ok i → i.wf = true ∧ encode i = [d0, d1, d2, d3])

/-- What cold reset leaves (R325, R333, R346, R426, R428, R430, R440, R465): time is zero; contexts and partitions are empty, with the reset
values of their parameters; access entries admit the device's own schedulers, servers and processors only; every incarnation entry is zero; no
curve stands, C is PFLOOR, OFF, the energy accumulators and OCCAUSE are zero; no link is up and no core holds a job; and memory has its
canonical form. That memory then reads zero, and that registers do, is the model's choice (log entries 1 and 2). -/
def Obligations.ResetValues : Prop :=
  let s := State.reset
  s.gtc = 0 ∧ s.mem.wf = true ∧ s.safe = true
  ∧ (∀ c, (s.ctx c).valid = false ∧ (s.ctx c).state = .empty ∧ (s.ctx c).mxslack = 256 ∧ (s.ctx c).ckwd = 350000
      ∧ (s.ctx c).qpmin = 0x020404040404 ∧ (s.ctx c).qpcap = 0x082020101010 ∧ (s.ctx c).ptroot = 0 ∧ (s.ctx c).svcq = 0
      ∧ (s.ctx c).energy = 0 ∧ (s.part c).valid = false ∧ (s.halt c).raised = false ∧ (s.halt c).stops = false)
  ∧ (∀ u c, sget {} s.mem.inc (1024 * u + c) = ({} : IncEnt))
  ∧ (∀ u m, ((s.mem.accEntry u m).getLsbD 127 = true ↔ (585 ≤ m ∧ m ≤ 599) ∨ m = 892))
  ∧ s.power.c = 100 * s.power.pfloor ∧ s.power.off = 0 ∧ s.power.seq = 0 ∧ s.power.curve = none ∧ s.power.pending = none
  ∧ s.power.occause = 0 ∧ (∀ k, (s.cluster k).eacc = 0) ∧ (∀ l, (s.link l).up = false)
  ∧ (∀ c, (s.core c).job = none ∧ (s.core c).failed = false ∧ (s.core c).hm = false)
  ∧ (∀ a, s.mem.byte a = 0) ∧ (∀ c (e : StreamId) n, sget 0 ((s.core c).strm e).s n = 0 ∧ sget 0 ((s.core c).strm e).table n = 0)

/-- Every step keeps the canonical form of memory: addresses rise and no listed byte is zero, so equal memories are equal data. -/
def Obligations.StepKeepsMemory : Prop :=
  ∀ s t, s.mem.wf = true → step s = .next t → t.mem.wf = true

/-- A masked write of a line reads back: afterwards a byte of the line under the mask is the written one, and every other byte of memory is
the old one; a line's data are its bytes, lowest first; a sector that the write covers whole takes the write's poison, one that it
touches in part is poisoned if it or the write was, and every other sector keeps its mark (R5, R283, R450). -/
def Obligations.MemoryReadsBack : Prop :=
  (∀ (m : Mem) line mask data p a, m.wf = true → (m.writeLine line mask data p).byte a =
      if a / 128 = line ∧ mask.getLsbD (a % 128) = true then data.extractLsb' (8 * (a % 128)) 8 else m.byte a)
  ∧ (∀ (m : Mem) line i, m.wf = true → i < 128 → (m.lineData line).extractLsb' (8 * i) 8 = m.byte (128 * line + i))
  ∧ (∀ (m : Mem) line mask data p x, ((m.writeLine line mask data p).poison.contains x) =
      if x / 4 = line then
        let sector := (mask.extractLsb' (32 * (x % 4)) 32)
        if sector = 0 then m.poison.contains x
        else if sector = BitVec.allOnes 32 then p.getLsbD (x % 4)
        else m.poison.contains x || p.getLsbD (x % 4)
      else m.poison.contains x)
end

