-- ==== Sys2Proof/Laws/Base.lean ====
section
/-! SUPPORT. Laws of the sparse tables: what a key reads as after a write, and the canonical form. -/

namespace Sys2Proof.Machine

/-! ## Reading -/

theorem sget_sinsert_self {β : Type} (d : β) (m : Sparse β) (k : Nat) (v : β) : sget d (sinsert m k v) k = v := by
  induction m with
  | nil => simp [sinsert, sget]
  | cons e m ih =>
    obtain ⟨k', v'⟩ := e
    simp only [sinsert]
    split
    · simp [sget]
    · split
      · simp [sget]
      · simp [sget, *]

theorem sget_sinsert_ne {β : Type} (d : β) (m : Sparse β) {k k2 : Nat} (v : β) (h : k2 ≠ k) :
    sget d (sinsert m k v) k2 = sget d m k2 := by
  induction m with
  | nil => simp [sinsert, sget, h]
  | cons e m ih =>
    obtain ⟨k', v'⟩ := e
    simp only [sinsert]
    split
    · simp [sget, h]
    · split
      · subst k'; simp [sget, h]
      · simp [sget, ih]

theorem sget_serase_ne {β : Type} (d : β) (m : Sparse β) {k k2 : Nat} (h : k2 ≠ k) :
    sget d (serase m k) k2 = sget d m k2 := by
  induction m with
  | nil => rfl
  | cons e m ih =>
    obtain ⟨k', v'⟩ := e
    simp only [serase, List.filter_cons] at ih ⊢
    by_cases hk : k' = k
    · subst k'; simp [sget, h, ih]
    · simp [sget, ih, hk]

theorem sget_serase_self {β : Type} (d : β) (m : Sparse β) (k : Nat) : sget d (serase m k) k = d := by
  induction m with
  | nil => rfl
  | cons e m ih =>
    obtain ⟨k', v'⟩ := e
    simp only [serase, List.filter_cons] at ih ⊢
    by_cases hk : k' = k
    · simp [hk, ih]
    · simp [sget, ih, hk, Ne.symm hk]

/-- A key reads as what was last written there. -/
theorem sget_sset_self {β : Type} [DecidableEq β] (d : β) (m : Sparse β) (k : Nat) (v : β) : sget d (sset d m k v) k = v := by
  unfold sset; split
  · subst v; exact sget_serase_self d m k
  · exact sget_sinsert_self d m k v

/-- A write leaves every other key alone. -/
theorem sget_sset_ne {β : Type} [DecidableEq β] (d : β) (m : Sparse β) {k k2 : Nat} (v : β) (h : k2 ≠ k) :
    sget d (sset d m k v) k2 = sget d m k2 := by
  unfold sset; split
  · exact sget_serase_ne d m h
  · exact sget_sinsert_ne d m v h

/-! ## The canonical form -/

/-- The canonical form, said of the whole list: keys rise, and no entry is the value of an unlisted key. -/
theorem swf_iff {β : Type} [DecidableEq β] (d : β) (m : Sparse β) :
    swf d m = true ↔ m.Pairwise (fun a b => a.1 < b.1) ∧ ∀ e ∈ m, e.2 ≠ d := by
  induction m with
  | nil => simp [swf]
  | cons e m ih =>
    obtain ⟨k, v⟩ := e
    cases m with
    | nil => simp [swf]
    | cons e' m =>
      obtain ⟨k', v'⟩ := e'
      simp only [swf, Bool.and_eq_true, decide_eq_true_eq, ih, List.pairwise_cons, List.mem_cons, bne_iff_ne, ne_eq]
      constructor
      · rintro ⟨⟨hk, hv⟩, ⟨hp, hq⟩, ha⟩
        refine ⟨⟨?_, hp, hq⟩, ?_⟩
        · rintro b (rfl | hb)
          · exact hk
          · exact Nat.lt_trans hk (hp b hb)
        · rintro b (rfl | hb)
          · exact hv
          · exact ha b hb
      · rintro ⟨⟨hp, hq⟩, ha⟩
        exact ⟨⟨hp _ (Or.inl rfl), ha _ (Or.inl rfl)⟩, hq, fun b hb => ha b (Or.inr hb)⟩

theorem mem_sinsert {β : Type} {m : Sparse β} {k : Nat} {v : β} {e : Nat × β} (h : e ∈ sinsert m k v) : e = (k, v) ∨ e ∈ m := by
  induction m with
  | nil => simpa [sinsert] using h
  | cons a m ih =>
    obtain ⟨k', v'⟩ := a
    simp only [sinsert] at h
    split at h
    · simpa using h
    · split at h
      · simp only [List.mem_cons] at h ⊢; exact h.imp id Or.inr
      · simp only [List.mem_cons] at h ⊢
        rcases h with h | h
        · exact Or.inr (Or.inl h)
        · exact (ih h).imp id Or.inr

theorem pairwise_sinsert {β : Type} (m : Sparse β) (k : Nat) (v : β) (h : m.Pairwise fun a b => a.1 < b.1) :
    (sinsert m k v).Pairwise fun a b => a.1 < b.1 := by
  induction m with
  | nil => simp [sinsert]
  | cons a m ih =>
    obtain ⟨k', v'⟩ := a
    rw [List.pairwise_cons] at h
    simp only [sinsert]
    split
    · rename_i hk
      refine List.pairwise_cons.2 ⟨?_, List.pairwise_cons.2 h⟩
      intro b hb
      rcases List.mem_cons.1 hb with rfl | hb
      · exact hk
      · exact Nat.lt_trans hk (h.1 b hb)
    · split
      · rename_i hk; subst hk; exact List.pairwise_cons.2 h
      · rename_i h1 h2
        refine List.pairwise_cons.2 ⟨?_, ih h.2⟩
        intro b hb
        rcases mem_sinsert hb with rfl | hb
        · show k' < k; omega
        · exact h.1 b hb

/-- A write keeps the canonical form. -/
theorem swf_sset {β : Type} [DecidableEq β] (d : β) (m : Sparse β) (k : Nat) (v : β) (h : swf d m = true) :
    swf d (sset d m k v) = true := by
  rw [swf_iff] at h ⊢
  unfold sset; split
  · exact ⟨h.1.filter _, fun e he => h.2 e (List.mem_filter.1 he).1⟩
  · rename_i hv
    refine ⟨pairwise_sinsert m k v h.1, fun e he => ?_⟩
    rcases mem_sinsert he with rfl | he
    · exact hv
    · exact h.2 e he

theorem pairwise_zipIdx_key {β : Type} (l : List β) (n : Nat) :
    ((l.zipIdx n).map fun p => (p.2, p.1)).Pairwise fun a b => a.1 < b.1 := by
  induction l generalizing n with
  | nil => simp
  | cons x l ih =>
    simp only [List.zipIdx_cons, List.map_cons, List.pairwise_cons]
    refine ⟨?_, ih (n + 1)⟩
    intro b hb
    obtain ⟨p, hp, rfl⟩ := List.mem_map.1 hb
    have := List.le_snd_of_mem_zipIdx hp
    show n < p.2; omega

/-- Replacing a row of values keeps the canonical form. -/
theorem swf_sreplace {β : Type} [DecidableEq β] (d : β) (m : Sparse β) (base : Nat) (l : List β) (h : swf d m = true) :
    swf d (sreplace d m base l) = true := by
  rw [swf_iff] at h ⊢
  unfold sreplace
  refine ⟨?_, ?_⟩
  · refine List.pairwise_append.2 ⟨List.pairwise_append.2 ⟨h.1.filter _, (pairwise_zipIdx_key l base).filter _, ?_⟩, h.1.filter _, ?_⟩
    · intro a ha b hb
      have h1 := (List.mem_filter.1 ha).2
      obtain ⟨p, hp, rfl⟩ := List.mem_map.1 (List.mem_filter.1 hb).1
      have := List.le_snd_of_mem_zipIdx hp
      simp only [decide_eq_true_eq] at h1
      show a.1 < p.2; omega
    · intro a ha b hb
      have h1 := (List.mem_filter.1 hb).2
      simp only [decide_eq_true_eq] at h1
      rcases List.mem_append.1 ha with ha | ha
      · have h2 := (List.mem_filter.1 ha).2
        simp only [decide_eq_true_eq] at h2
        omega
      · obtain ⟨p, hp, rfl⟩ := List.mem_map.1 (List.mem_filter.1 ha).1
        have := List.snd_lt_add_of_mem_zipIdx hp
        show p.2 < b.1; omega
  · intro e he
    rcases List.mem_append.1 he with he | he
    · rcases List.mem_append.1 he with he | he
      · exact h.2 e (List.mem_filter.1 he).1
      · simpa using (List.mem_filter.1 he).2
    · exact h.2 e (List.mem_filter.1 he).1

end Sys2Proof.Machine
end

