-- ==== Sys2Proof/Laws/State.lean ====
section
/-! SUPPORT. One lemma for each field of the state and each update: what the update leaves alone. -/

namespace Sys2Proof.Machine

/-! ### `updCore` -/

@[simp] theorem State.updCore_gtc (s : State) (c : Nat) (f : Core → Core) : (s.updCore c f).gtc = s.gtc := rfl
@[simp] theorem State.updCore_free (s : State) (c : Nat) (f : Core → Core) : (s.updCore c f).free = s.free := rfl
@[simp] theorem State.updCore_clusters (s : State) (c : Nat) (f : Core → Core) : (s.updCore c f).clusters = s.clusters := rfl
@[simp] theorem State.updCore_power (s : State) (c : Nat) (f : Core → Core) : (s.updCore c f).power = s.power := rfl
@[simp] theorem State.updCore_mem (s : State) (c : Nat) (f : Core → Core) : (s.updCore c f).mem = s.mem := rfl
@[simp] theorem State.updCore_server0 (s : State) (c : Nat) (f : Core → Core) : (s.updCore c f).server0 = s.server0 := rfl
@[simp] theorem State.updCore_server1 (s : State) (c : Nat) (f : Core → Core) : (s.updCore c f).server1 = s.server1 := rfl
@[simp] theorem State.updCore_served (s : State) (c : Nat) (f : Core → Core) : (s.updCore c f).served = s.served := rfl
@[simp] theorem State.updCore_teams (s : State) (c : Nat) (f : Core → Core) : (s.updCore c f).teams = s.teams := rfl
@[simp] theorem State.updCore_tiles (s : State) (c : Nat) (f : Core → Core) : (s.updCore c f).tiles = s.tiles := rfl
@[simp] theorem State.updCore_tileOrd (s : State) (c : Nat) (f : Core → Core) : (s.updCore c f).tileOrd = s.tileOrd := rfl
@[simp] theorem State.updCore_fabTiles (s : State) (c : Nat) (f : Core → Core) : (s.updCore c f).fabTiles = s.fabTiles := rfl
@[simp] theorem State.updCore_nextTile (s : State) (c : Nat) (f : Core → Core) : (s.updCore c f).nextTile = s.nextTile := rfl
@[simp] theorem State.updCore_links (s : State) (c : Nat) (f : Core → Core) : (s.updCore c f).links = s.links := rfl
@[simp] theorem State.updCore_ctxs (s : State) (c : Nat) (f : Core → Core) : (s.updCore c f).ctxs = s.ctxs := rfl
@[simp] theorem State.updCore_parts (s : State) (c : Nat) (f : Core → Core) : (s.updCore c f).parts = s.parts := rfl
@[simp] theorem State.updCore_halts (s : State) (c : Nat) (f : Core → Core) : (s.updCore c f).halts = s.halts := rfl
@[simp] theorem State.updCore_queues (s : State) (c : Nat) (f : Core → Core) : (s.updCore c f).queues = s.queues := rfl
@[simp] theorem State.updCore_nextQueue (s : State) (c : Nat) (f : Core → Core) : (s.updCore c f).nextQueue = s.nextQueue := rfl
@[simp] theorem State.updCore_nodes (s : State) (c : Nat) (f : Core → Core) : (s.updCore c f).nodes = s.nodes := rfl
@[simp] theorem State.updCore_early (s : State) (c : Nat) (f : Core → Core) : (s.updCore c f).early = s.early := rfl
@[simp] theorem State.updCore_cuffs (s : State) (c : Nat) (f : Core → Core) : (s.updCore c f).cuffs = s.cuffs := rfl
@[simp] theorem State.updCore_parkedDies (s : State) (c : Nat) (f : Core → Core) : (s.updCore c f).parkedDies = s.parkedDies := rfl
@[simp] theorem State.updCore_fw (s : State) (c : Nat) (f : Core → Core) : (s.updCore c f).fw = s.fw := rfl
@[simp] theorem State.updCore_checks (s : State) (c : Nat) (f : Core → Core) : (s.updCore c f).checks = s.checks := rfl
@[simp] theorem State.updCore_agenda (s : State) (c : Nat) (f : Core → Core) : (s.updCore c f).agenda = s.agenda := rfl
@[simp] theorem State.updCore_phase (s : State) (c : Nat) (f : Core → Core) : (s.updCore c f).phase = s.phase := rfl
@[simp] theorem State.updCore_moved (s : State) (c : Nat) (f : Core → Core) : (s.updCore c f).moved = s.moved := rfl
@[simp] theorem State.updCore_rollbacks (s : State) (c : Nat) (f : Core → Core) : (s.updCore c f).rollbacks = s.rollbacks := rfl
@[simp] theorem State.updCore_cur (s : State) (c : Nat) (f : Core → Core) : (s.updCore c f).cur = s.cur := rfl
@[simp] theorem State.updCore_turn (s : State) (c : Nat) (f : Core → Core) : (s.updCore c f).turn = s.turn := rfl

/-! ### `updCluster` -/

@[simp] theorem State.updCluster_gtc (s : State) (k : Nat) (f : Cluster → Cluster) : (s.updCluster k f).gtc = s.gtc := rfl
@[simp] theorem State.updCluster_free (s : State) (k : Nat) (f : Cluster → Cluster) : (s.updCluster k f).free = s.free := rfl
@[simp] theorem State.updCluster_cores (s : State) (k : Nat) (f : Cluster → Cluster) : (s.updCluster k f).cores = s.cores := rfl
@[simp] theorem State.updCluster_power (s : State) (k : Nat) (f : Cluster → Cluster) : (s.updCluster k f).power = s.power := rfl
@[simp] theorem State.updCluster_mem (s : State) (k : Nat) (f : Cluster → Cluster) : (s.updCluster k f).mem = s.mem := rfl
@[simp] theorem State.updCluster_server0 (s : State) (k : Nat) (f : Cluster → Cluster) : (s.updCluster k f).server0 = s.server0 := rfl
@[simp] theorem State.updCluster_server1 (s : State) (k : Nat) (f : Cluster → Cluster) : (s.updCluster k f).server1 = s.server1 := rfl
@[simp] theorem State.updCluster_served (s : State) (k : Nat) (f : Cluster → Cluster) : (s.updCluster k f).served = s.served := rfl
@[simp] theorem State.updCluster_teams (s : State) (k : Nat) (f : Cluster → Cluster) : (s.updCluster k f).teams = s.teams := rfl
@[simp] theorem State.updCluster_tiles (s : State) (k : Nat) (f : Cluster → Cluster) : (s.updCluster k f).tiles = s.tiles := rfl
@[simp] theorem State.updCluster_tileOrd (s : State) (k : Nat) (f : Cluster → Cluster) : (s.updCluster k f).tileOrd = s.tileOrd := rfl
@[simp] theorem State.updCluster_fabTiles (s : State) (k : Nat) (f : Cluster → Cluster) : (s.updCluster k f).fabTiles = s.fabTiles := rfl
@[simp] theorem State.updCluster_nextTile (s : State) (k : Nat) (f : Cluster → Cluster) : (s.updCluster k f).nextTile = s.nextTile := rfl
@[simp] theorem State.updCluster_links (s : State) (k : Nat) (f : Cluster → Cluster) : (s.updCluster k f).links = s.links := rfl
@[simp] theorem State.updCluster_ctxs (s : State) (k : Nat) (f : Cluster → Cluster) : (s.updCluster k f).ctxs = s.ctxs := rfl
@[simp] theorem State.updCluster_parts (s : State) (k : Nat) (f : Cluster → Cluster) : (s.updCluster k f).parts = s.parts := rfl
@[simp] theorem State.updCluster_halts (s : State) (k : Nat) (f : Cluster → Cluster) : (s.updCluster k f).halts = s.halts := rfl
@[simp] theorem State.updCluster_queues (s : State) (k : Nat) (f : Cluster → Cluster) : (s.updCluster k f).queues = s.queues := rfl
@[simp] theorem State.updCluster_nextQueue (s : State) (k : Nat) (f : Cluster → Cluster) : (s.updCluster k f).nextQueue = s.nextQueue := rfl
@[simp] theorem State.updCluster_nodes (s : State) (k : Nat) (f : Cluster → Cluster) : (s.updCluster k f).nodes = s.nodes := rfl
@[simp] theorem State.updCluster_early (s : State) (k : Nat) (f : Cluster → Cluster) : (s.updCluster k f).early = s.early := rfl
@[simp] theorem State.updCluster_cuffs (s : State) (k : Nat) (f : Cluster → Cluster) : (s.updCluster k f).cuffs = s.cuffs := rfl
@[simp] theorem State.updCluster_parkedDies (s : State) (k : Nat) (f : Cluster → Cluster) : (s.updCluster k f).parkedDies = s.parkedDies := rfl
@[simp] theorem State.updCluster_fw (s : State) (k : Nat) (f : Cluster → Cluster) : (s.updCluster k f).fw = s.fw := rfl
@[simp] theorem State.updCluster_checks (s : State) (k : Nat) (f : Cluster → Cluster) : (s.updCluster k f).checks = s.checks := rfl
@[simp] theorem State.updCluster_agenda (s : State) (k : Nat) (f : Cluster → Cluster) : (s.updCluster k f).agenda = s.agenda := rfl
@[simp] theorem State.updCluster_phase (s : State) (k : Nat) (f : Cluster → Cluster) : (s.updCluster k f).phase = s.phase := rfl
@[simp] theorem State.updCluster_moved (s : State) (k : Nat) (f : Cluster → Cluster) : (s.updCluster k f).moved = s.moved := rfl
@[simp] theorem State.updCluster_rollbacks (s : State) (k : Nat) (f : Cluster → Cluster) : (s.updCluster k f).rollbacks = s.rollbacks := rfl
@[simp] theorem State.updCluster_cur (s : State) (k : Nat) (f : Cluster → Cluster) : (s.updCluster k f).cur = s.cur := rfl
@[simp] theorem State.updCluster_turn (s : State) (k : Nat) (f : Cluster → Cluster) : (s.updCluster k f).turn = s.turn := rfl

/-! ### `updStrm` -/

@[simp] theorem State.updStrm_gtc (s : State) (c : Nat) (e : StreamId) (f : Stream → Stream) : (s.updStrm c e f).gtc = s.gtc := rfl
@[simp] theorem State.updStrm_free (s : State) (c : Nat) (e : StreamId) (f : Stream → Stream) : (s.updStrm c e f).free = s.free := rfl
@[simp] theorem State.updStrm_clusters (s : State) (c : Nat) (e : StreamId) (f : Stream → Stream) : (s.updStrm c e f).clusters = s.clusters := rfl
@[simp] theorem State.updStrm_power (s : State) (c : Nat) (e : StreamId) (f : Stream → Stream) : (s.updStrm c e f).power = s.power := rfl
@[simp] theorem State.updStrm_mem (s : State) (c : Nat) (e : StreamId) (f : Stream → Stream) : (s.updStrm c e f).mem = s.mem := rfl
@[simp] theorem State.updStrm_server0 (s : State) (c : Nat) (e : StreamId) (f : Stream → Stream) : (s.updStrm c e f).server0 = s.server0 := rfl
@[simp] theorem State.updStrm_server1 (s : State) (c : Nat) (e : StreamId) (f : Stream → Stream) : (s.updStrm c e f).server1 = s.server1 := rfl
@[simp] theorem State.updStrm_served (s : State) (c : Nat) (e : StreamId) (f : Stream → Stream) : (s.updStrm c e f).served = s.served := rfl
@[simp] theorem State.updStrm_teams (s : State) (c : Nat) (e : StreamId) (f : Stream → Stream) : (s.updStrm c e f).teams = s.teams := rfl
@[simp] theorem State.updStrm_tiles (s : State) (c : Nat) (e : StreamId) (f : Stream → Stream) : (s.updStrm c e f).tiles = s.tiles := rfl
@[simp] theorem State.updStrm_tileOrd (s : State) (c : Nat) (e : StreamId) (f : Stream → Stream) : (s.updStrm c e f).tileOrd = s.tileOrd := rfl
@[simp] theorem State.updStrm_fabTiles (s : State) (c : Nat) (e : StreamId) (f : Stream → Stream) : (s.updStrm c e f).fabTiles = s.fabTiles := rfl
@[simp] theorem State.updStrm_nextTile (s : State) (c : Nat) (e : StreamId) (f : Stream → Stream) : (s.updStrm c e f).nextTile = s.nextTile := rfl
@[simp] theorem State.updStrm_links (s : State) (c : Nat) (e : StreamId) (f : Stream → Stream) : (s.updStrm c e f).links = s.links := rfl
@[simp] theorem State.updStrm_ctxs (s : State) (c : Nat) (e : StreamId) (f : Stream → Stream) : (s.updStrm c e f).ctxs = s.ctxs := rfl
@[simp] theorem State.updStrm_parts (s : State) (c : Nat) (e : StreamId) (f : Stream → Stream) : (s.updStrm c e f).parts = s.parts := rfl
@[simp] theorem State.updStrm_halts (s : State) (c : Nat) (e : StreamId) (f : Stream → Stream) : (s.updStrm c e f).halts = s.halts := rfl
@[simp] theorem State.updStrm_queues (s : State) (c : Nat) (e : StreamId) (f : Stream → Stream) : (s.updStrm c e f).queues = s.queues := rfl
@[simp] theorem State.updStrm_nextQueue (s : State) (c : Nat) (e : StreamId) (f : Stream → Stream) : (s.updStrm c e f).nextQueue = s.nextQueue := rfl
@[simp] theorem State.updStrm_nodes (s : State) (c : Nat) (e : StreamId) (f : Stream → Stream) : (s.updStrm c e f).nodes = s.nodes := rfl
@[simp] theorem State.updStrm_early (s : State) (c : Nat) (e : StreamId) (f : Stream → Stream) : (s.updStrm c e f).early = s.early := rfl
@[simp] theorem State.updStrm_cuffs (s : State) (c : Nat) (e : StreamId) (f : Stream → Stream) : (s.updStrm c e f).cuffs = s.cuffs := rfl
@[simp] theorem State.updStrm_parkedDies (s : State) (c : Nat) (e : StreamId) (f : Stream → Stream) : (s.updStrm c e f).parkedDies = s.parkedDies := rfl
@[simp] theorem State.updStrm_fw (s : State) (c : Nat) (e : StreamId) (f : Stream → Stream) : (s.updStrm c e f).fw = s.fw := rfl
@[simp] theorem State.updStrm_checks (s : State) (c : Nat) (e : StreamId) (f : Stream → Stream) : (s.updStrm c e f).checks = s.checks := rfl
@[simp] theorem State.updStrm_agenda (s : State) (c : Nat) (e : StreamId) (f : Stream → Stream) : (s.updStrm c e f).agenda = s.agenda := rfl
@[simp] theorem State.updStrm_phase (s : State) (c : Nat) (e : StreamId) (f : Stream → Stream) : (s.updStrm c e f).phase = s.phase := rfl
@[simp] theorem State.updStrm_moved (s : State) (c : Nat) (e : StreamId) (f : Stream → Stream) : (s.updStrm c e f).moved = s.moved := rfl
@[simp] theorem State.updStrm_rollbacks (s : State) (c : Nat) (e : StreamId) (f : Stream → Stream) : (s.updStrm c e f).rollbacks = s.rollbacks := rfl
@[simp] theorem State.updStrm_cur (s : State) (c : Nat) (e : StreamId) (f : Stream → Stream) : (s.updStrm c e f).cur = s.cur := rfl
@[simp] theorem State.updStrm_turn (s : State) (c : Nat) (e : StreamId) (f : Stream → Stream) : (s.updStrm c e f).turn = s.turn := rfl

/-! ### `updCur` -/

@[simp] theorem State.updCur_gtc (s : State) (f : Core → Core) : (s.updCur f).gtc = s.gtc := rfl
@[simp] theorem State.updCur_free (s : State) (f : Core → Core) : (s.updCur f).free = s.free := rfl
@[simp] theorem State.updCur_clusters (s : State) (f : Core → Core) : (s.updCur f).clusters = s.clusters := rfl
@[simp] theorem State.updCur_power (s : State) (f : Core → Core) : (s.updCur f).power = s.power := rfl
@[simp] theorem State.updCur_mem (s : State) (f : Core → Core) : (s.updCur f).mem = s.mem := rfl
@[simp] theorem State.updCur_server0 (s : State) (f : Core → Core) : (s.updCur f).server0 = s.server0 := rfl
@[simp] theorem State.updCur_server1 (s : State) (f : Core → Core) : (s.updCur f).server1 = s.server1 := rfl
@[simp] theorem State.updCur_served (s : State) (f : Core → Core) : (s.updCur f).served = s.served := rfl
@[simp] theorem State.updCur_teams (s : State) (f : Core → Core) : (s.updCur f).teams = s.teams := rfl
@[simp] theorem State.updCur_tiles (s : State) (f : Core → Core) : (s.updCur f).tiles = s.tiles := rfl
@[simp] theorem State.updCur_tileOrd (s : State) (f : Core → Core) : (s.updCur f).tileOrd = s.tileOrd := rfl
@[simp] theorem State.updCur_fabTiles (s : State) (f : Core → Core) : (s.updCur f).fabTiles = s.fabTiles := rfl
@[simp] theorem State.updCur_nextTile (s : State) (f : Core → Core) : (s.updCur f).nextTile = s.nextTile := rfl
@[simp] theorem State.updCur_links (s : State) (f : Core → Core) : (s.updCur f).links = s.links := rfl
@[simp] theorem State.updCur_ctxs (s : State) (f : Core → Core) : (s.updCur f).ctxs = s.ctxs := rfl
@[simp] theorem State.updCur_parts (s : State) (f : Core → Core) : (s.updCur f).parts = s.parts := rfl
@[simp] theorem State.updCur_halts (s : State) (f : Core → Core) : (s.updCur f).halts = s.halts := rfl
@[simp] theorem State.updCur_queues (s : State) (f : Core → Core) : (s.updCur f).queues = s.queues := rfl
@[simp] theorem State.updCur_nextQueue (s : State) (f : Core → Core) : (s.updCur f).nextQueue = s.nextQueue := rfl
@[simp] theorem State.updCur_nodes (s : State) (f : Core → Core) : (s.updCur f).nodes = s.nodes := rfl
@[simp] theorem State.updCur_early (s : State) (f : Core → Core) : (s.updCur f).early = s.early := rfl
@[simp] theorem State.updCur_cuffs (s : State) (f : Core → Core) : (s.updCur f).cuffs = s.cuffs := rfl
@[simp] theorem State.updCur_parkedDies (s : State) (f : Core → Core) : (s.updCur f).parkedDies = s.parkedDies := rfl
@[simp] theorem State.updCur_fw (s : State) (f : Core → Core) : (s.updCur f).fw = s.fw := rfl
@[simp] theorem State.updCur_checks (s : State) (f : Core → Core) : (s.updCur f).checks = s.checks := rfl
@[simp] theorem State.updCur_agenda (s : State) (f : Core → Core) : (s.updCur f).agenda = s.agenda := rfl
@[simp] theorem State.updCur_phase (s : State) (f : Core → Core) : (s.updCur f).phase = s.phase := rfl
@[simp] theorem State.updCur_moved (s : State) (f : Core → Core) : (s.updCur f).moved = s.moved := rfl
@[simp] theorem State.updCur_rollbacks (s : State) (f : Core → Core) : (s.updCur f).rollbacks = s.rollbacks := rfl
@[simp] theorem State.updCur_cur (s : State) (f : Core → Core) : (s.updCur f).cur = s.cur := rfl
@[simp] theorem State.updCur_turn (s : State) (f : Core → Core) : (s.updCur f).turn = s.turn := rfl

/-! ### `updCurStrm` -/

@[simp] theorem State.updCurStrm_gtc (s : State) (f : Stream → Stream) : (s.updCurStrm f).gtc = s.gtc := rfl
@[simp] theorem State.updCurStrm_free (s : State) (f : Stream → Stream) : (s.updCurStrm f).free = s.free := rfl
@[simp] theorem State.updCurStrm_clusters (s : State) (f : Stream → Stream) : (s.updCurStrm f).clusters = s.clusters := rfl
@[simp] theorem State.updCurStrm_power (s : State) (f : Stream → Stream) : (s.updCurStrm f).power = s.power := rfl
@[simp] theorem State.updCurStrm_mem (s : State) (f : Stream → Stream) : (s.updCurStrm f).mem = s.mem := rfl
@[simp] theorem State.updCurStrm_server0 (s : State) (f : Stream → Stream) : (s.updCurStrm f).server0 = s.server0 := rfl
@[simp] theorem State.updCurStrm_server1 (s : State) (f : Stream → Stream) : (s.updCurStrm f).server1 = s.server1 := rfl
@[simp] theorem State.updCurStrm_served (s : State) (f : Stream → Stream) : (s.updCurStrm f).served = s.served := rfl
@[simp] theorem State.updCurStrm_teams (s : State) (f : Stream → Stream) : (s.updCurStrm f).teams = s.teams := rfl
@[simp] theorem State.updCurStrm_tiles (s : State) (f : Stream → Stream) : (s.updCurStrm f).tiles = s.tiles := rfl
@[simp] theorem State.updCurStrm_tileOrd (s : State) (f : Stream → Stream) : (s.updCurStrm f).tileOrd = s.tileOrd := rfl
@[simp] theorem State.updCurStrm_fabTiles (s : State) (f : Stream → Stream) : (s.updCurStrm f).fabTiles = s.fabTiles := rfl
@[simp] theorem State.updCurStrm_nextTile (s : State) (f : Stream → Stream) : (s.updCurStrm f).nextTile = s.nextTile := rfl
@[simp] theorem State.updCurStrm_links (s : State) (f : Stream → Stream) : (s.updCurStrm f).links = s.links := rfl
@[simp] theorem State.updCurStrm_ctxs (s : State) (f : Stream → Stream) : (s.updCurStrm f).ctxs = s.ctxs := rfl
@[simp] theorem State.updCurStrm_parts (s : State) (f : Stream → Stream) : (s.updCurStrm f).parts = s.parts := rfl
@[simp] theorem State.updCurStrm_halts (s : State) (f : Stream → Stream) : (s.updCurStrm f).halts = s.halts := rfl
@[simp] theorem State.updCurStrm_queues (s : State) (f : Stream → Stream) : (s.updCurStrm f).queues = s.queues := rfl
@[simp] theorem State.updCurStrm_nextQueue (s : State) (f : Stream → Stream) : (s.updCurStrm f).nextQueue = s.nextQueue := rfl
@[simp] theorem State.updCurStrm_nodes (s : State) (f : Stream → Stream) : (s.updCurStrm f).nodes = s.nodes := rfl
@[simp] theorem State.updCurStrm_early (s : State) (f : Stream → Stream) : (s.updCurStrm f).early = s.early := rfl
@[simp] theorem State.updCurStrm_cuffs (s : State) (f : Stream → Stream) : (s.updCurStrm f).cuffs = s.cuffs := rfl
@[simp] theorem State.updCurStrm_parkedDies (s : State) (f : Stream → Stream) : (s.updCurStrm f).parkedDies = s.parkedDies := rfl
@[simp] theorem State.updCurStrm_fw (s : State) (f : Stream → Stream) : (s.updCurStrm f).fw = s.fw := rfl
@[simp] theorem State.updCurStrm_checks (s : State) (f : Stream → Stream) : (s.updCurStrm f).checks = s.checks := rfl
@[simp] theorem State.updCurStrm_agenda (s : State) (f : Stream → Stream) : (s.updCurStrm f).agenda = s.agenda := rfl
@[simp] theorem State.updCurStrm_phase (s : State) (f : Stream → Stream) : (s.updCurStrm f).phase = s.phase := rfl
@[simp] theorem State.updCurStrm_moved (s : State) (f : Stream → Stream) : (s.updCurStrm f).moved = s.moved := rfl
@[simp] theorem State.updCurStrm_rollbacks (s : State) (f : Stream → Stream) : (s.updCurStrm f).rollbacks = s.rollbacks := rfl
@[simp] theorem State.updCurStrm_cur (s : State) (f : Stream → Stream) : (s.updCurStrm f).cur = s.cur := rfl
@[simp] theorem State.updCurStrm_turn (s : State) (f : Stream → Stream) : (s.updCurStrm f).turn = s.turn := rfl

/-! ### `updMem` -/

@[simp] theorem State.updMem_gtc (s : State) (f : Mem → Mem) : (s.updMem f).gtc = s.gtc := rfl
@[simp] theorem State.updMem_free (s : State) (f : Mem → Mem) : (s.updMem f).free = s.free := rfl
@[simp] theorem State.updMem_cores (s : State) (f : Mem → Mem) : (s.updMem f).cores = s.cores := rfl
@[simp] theorem State.updMem_clusters (s : State) (f : Mem → Mem) : (s.updMem f).clusters = s.clusters := rfl
@[simp] theorem State.updMem_power (s : State) (f : Mem → Mem) : (s.updMem f).power = s.power := rfl
@[simp] theorem State.updMem_server0 (s : State) (f : Mem → Mem) : (s.updMem f).server0 = s.server0 := rfl
@[simp] theorem State.updMem_server1 (s : State) (f : Mem → Mem) : (s.updMem f).server1 = s.server1 := rfl
@[simp] theorem State.updMem_served (s : State) (f : Mem → Mem) : (s.updMem f).served = s.served := rfl
@[simp] theorem State.updMem_teams (s : State) (f : Mem → Mem) : (s.updMem f).teams = s.teams := rfl
@[simp] theorem State.updMem_tiles (s : State) (f : Mem → Mem) : (s.updMem f).tiles = s.tiles := rfl
@[simp] theorem State.updMem_tileOrd (s : State) (f : Mem → Mem) : (s.updMem f).tileOrd = s.tileOrd := rfl
@[simp] theorem State.updMem_fabTiles (s : State) (f : Mem → Mem) : (s.updMem f).fabTiles = s.fabTiles := rfl
@[simp] theorem State.updMem_nextTile (s : State) (f : Mem → Mem) : (s.updMem f).nextTile = s.nextTile := rfl
@[simp] theorem State.updMem_links (s : State) (f : Mem → Mem) : (s.updMem f).links = s.links := rfl
@[simp] theorem State.updMem_ctxs (s : State) (f : Mem → Mem) : (s.updMem f).ctxs = s.ctxs := rfl
@[simp] theorem State.updMem_parts (s : State) (f : Mem → Mem) : (s.updMem f).parts = s.parts := rfl
@[simp] theorem State.updMem_halts (s : State) (f : Mem → Mem) : (s.updMem f).halts = s.halts := rfl
@[simp] theorem State.updMem_queues (s : State) (f : Mem → Mem) : (s.updMem f).queues = s.queues := rfl
@[simp] theorem State.updMem_nextQueue (s : State) (f : Mem → Mem) : (s.updMem f).nextQueue = s.nextQueue := rfl
@[simp] theorem State.updMem_nodes (s : State) (f : Mem → Mem) : (s.updMem f).nodes = s.nodes := rfl
@[simp] theorem State.updMem_early (s : State) (f : Mem → Mem) : (s.updMem f).early = s.early := rfl
@[simp] theorem State.updMem_cuffs (s : State) (f : Mem → Mem) : (s.updMem f).cuffs = s.cuffs := rfl
@[simp] theorem State.updMem_parkedDies (s : State) (f : Mem → Mem) : (s.updMem f).parkedDies = s.parkedDies := rfl
@[simp] theorem State.updMem_fw (s : State) (f : Mem → Mem) : (s.updMem f).fw = s.fw := rfl
@[simp] theorem State.updMem_checks (s : State) (f : Mem → Mem) : (s.updMem f).checks = s.checks := rfl
@[simp] theorem State.updMem_agenda (s : State) (f : Mem → Mem) : (s.updMem f).agenda = s.agenda := rfl
@[simp] theorem State.updMem_phase (s : State) (f : Mem → Mem) : (s.updMem f).phase = s.phase := rfl
@[simp] theorem State.updMem_moved (s : State) (f : Mem → Mem) : (s.updMem f).moved = s.moved := rfl
@[simp] theorem State.updMem_rollbacks (s : State) (f : Mem → Mem) : (s.updMem f).rollbacks = s.rollbacks := rfl
@[simp] theorem State.updMem_cur (s : State) (f : Mem → Mem) : (s.updMem f).cur = s.cur := rfl
@[simp] theorem State.updMem_turn (s : State) (f : Mem → Mem) : (s.updMem f).turn = s.turn := rfl

/-! ### `updCtx` -/

@[simp] theorem State.updCtx_gtc (s : State) (c : Nat) (f : Ctx → Ctx) : (s.updCtx c f).gtc = s.gtc := rfl
@[simp] theorem State.updCtx_free (s : State) (c : Nat) (f : Ctx → Ctx) : (s.updCtx c f).free = s.free := rfl
@[simp] theorem State.updCtx_cores (s : State) (c : Nat) (f : Ctx → Ctx) : (s.updCtx c f).cores = s.cores := rfl
@[simp] theorem State.updCtx_clusters (s : State) (c : Nat) (f : Ctx → Ctx) : (s.updCtx c f).clusters = s.clusters := rfl
@[simp] theorem State.updCtx_power (s : State) (c : Nat) (f : Ctx → Ctx) : (s.updCtx c f).power = s.power := rfl
@[simp] theorem State.updCtx_mem (s : State) (c : Nat) (f : Ctx → Ctx) : (s.updCtx c f).mem = s.mem := rfl
@[simp] theorem State.updCtx_server0 (s : State) (c : Nat) (f : Ctx → Ctx) : (s.updCtx c f).server0 = s.server0 := rfl
@[simp] theorem State.updCtx_server1 (s : State) (c : Nat) (f : Ctx → Ctx) : (s.updCtx c f).server1 = s.server1 := rfl
@[simp] theorem State.updCtx_served (s : State) (c : Nat) (f : Ctx → Ctx) : (s.updCtx c f).served = s.served := rfl
@[simp] theorem State.updCtx_teams (s : State) (c : Nat) (f : Ctx → Ctx) : (s.updCtx c f).teams = s.teams := rfl
@[simp] theorem State.updCtx_tiles (s : State) (c : Nat) (f : Ctx → Ctx) : (s.updCtx c f).tiles = s.tiles := rfl
@[simp] theorem State.updCtx_tileOrd (s : State) (c : Nat) (f : Ctx → Ctx) : (s.updCtx c f).tileOrd = s.tileOrd := rfl
@[simp] theorem State.updCtx_fabTiles (s : State) (c : Nat) (f : Ctx → Ctx) : (s.updCtx c f).fabTiles = s.fabTiles := rfl
@[simp] theorem State.updCtx_nextTile (s : State) (c : Nat) (f : Ctx → Ctx) : (s.updCtx c f).nextTile = s.nextTile := rfl
@[simp] theorem State.updCtx_links (s : State) (c : Nat) (f : Ctx → Ctx) : (s.updCtx c f).links = s.links := rfl
@[simp] theorem State.updCtx_parts (s : State) (c : Nat) (f : Ctx → Ctx) : (s.updCtx c f).parts = s.parts := rfl
@[simp] theorem State.updCtx_halts (s : State) (c : Nat) (f : Ctx → Ctx) : (s.updCtx c f).halts = s.halts := rfl
@[simp] theorem State.updCtx_queues (s : State) (c : Nat) (f : Ctx → Ctx) : (s.updCtx c f).queues = s.queues := rfl
@[simp] theorem State.updCtx_nextQueue (s : State) (c : Nat) (f : Ctx → Ctx) : (s.updCtx c f).nextQueue = s.nextQueue := rfl
@[simp] theorem State.updCtx_nodes (s : State) (c : Nat) (f : Ctx → Ctx) : (s.updCtx c f).nodes = s.nodes := rfl
@[simp] theorem State.updCtx_early (s : State) (c : Nat) (f : Ctx → Ctx) : (s.updCtx c f).early = s.early := rfl
@[simp] theorem State.updCtx_cuffs (s : State) (c : Nat) (f : Ctx → Ctx) : (s.updCtx c f).cuffs = s.cuffs := rfl
@[simp] theorem State.updCtx_parkedDies (s : State) (c : Nat) (f : Ctx → Ctx) : (s.updCtx c f).parkedDies = s.parkedDies := rfl
@[simp] theorem State.updCtx_fw (s : State) (c : Nat) (f : Ctx → Ctx) : (s.updCtx c f).fw = s.fw := rfl
@[simp] theorem State.updCtx_checks (s : State) (c : Nat) (f : Ctx → Ctx) : (s.updCtx c f).checks = s.checks := rfl
@[simp] theorem State.updCtx_agenda (s : State) (c : Nat) (f : Ctx → Ctx) : (s.updCtx c f).agenda = s.agenda := rfl
@[simp] theorem State.updCtx_phase (s : State) (c : Nat) (f : Ctx → Ctx) : (s.updCtx c f).phase = s.phase := rfl
@[simp] theorem State.updCtx_moved (s : State) (c : Nat) (f : Ctx → Ctx) : (s.updCtx c f).moved = s.moved := rfl
@[simp] theorem State.updCtx_rollbacks (s : State) (c : Nat) (f : Ctx → Ctx) : (s.updCtx c f).rollbacks = s.rollbacks := rfl
@[simp] theorem State.updCtx_cur (s : State) (c : Nat) (f : Ctx → Ctx) : (s.updCtx c f).cur = s.cur := rfl
@[simp] theorem State.updCtx_turn (s : State) (c : Nat) (f : Ctx → Ctx) : (s.updCtx c f).turn = s.turn := rfl

/-! ### `updPart` -/

@[simp] theorem State.updPart_gtc (s : State) (p : Nat) (f : Part → Part) : (s.updPart p f).gtc = s.gtc := rfl
@[simp] theorem State.updPart_free (s : State) (p : Nat) (f : Part → Part) : (s.updPart p f).free = s.free := rfl
@[simp] theorem State.updPart_cores (s : State) (p : Nat) (f : Part → Part) : (s.updPart p f).cores = s.cores := rfl
@[simp] theorem State.updPart_clusters (s : State) (p : Nat) (f : Part → Part) : (s.updPart p f).clusters = s.clusters := rfl
@[simp] theorem State.updPart_power (s : State) (p : Nat) (f : Part → Part) : (s.updPart p f).power = s.power := rfl
@[simp] theorem State.updPart_mem (s : State) (p : Nat) (f : Part → Part) : (s.updPart p f).mem = s.mem := rfl
@[simp] theorem State.updPart_server0 (s : State) (p : Nat) (f : Part → Part) : (s.updPart p f).server0 = s.server0 := rfl
@[simp] theorem State.updPart_server1 (s : State) (p : Nat) (f : Part → Part) : (s.updPart p f).server1 = s.server1 := rfl
@[simp] theorem State.updPart_served (s : State) (p : Nat) (f : Part → Part) : (s.updPart p f).served = s.served := rfl
@[simp] theorem State.updPart_teams (s : State) (p : Nat) (f : Part → Part) : (s.updPart p f).teams = s.teams := rfl
@[simp] theorem State.updPart_tiles (s : State) (p : Nat) (f : Part → Part) : (s.updPart p f).tiles = s.tiles := rfl
@[simp] theorem State.updPart_tileOrd (s : State) (p : Nat) (f : Part → Part) : (s.updPart p f).tileOrd = s.tileOrd := rfl
@[simp] theorem State.updPart_fabTiles (s : State) (p : Nat) (f : Part → Part) : (s.updPart p f).fabTiles = s.fabTiles := rfl
@[simp] theorem State.updPart_nextTile (s : State) (p : Nat) (f : Part → Part) : (s.updPart p f).nextTile = s.nextTile := rfl
@[simp] theorem State.updPart_links (s : State) (p : Nat) (f : Part → Part) : (s.updPart p f).links = s.links := rfl
@[simp] theorem State.updPart_ctxs (s : State) (p : Nat) (f : Part → Part) : (s.updPart p f).ctxs = s.ctxs := rfl
@[simp] theorem State.updPart_halts (s : State) (p : Nat) (f : Part → Part) : (s.updPart p f).halts = s.halts := rfl
@[simp] theorem State.updPart_queues (s : State) (p : Nat) (f : Part → Part) : (s.updPart p f).queues = s.queues := rfl
@[simp] theorem State.updPart_nextQueue (s : State) (p : Nat) (f : Part → Part) : (s.updPart p f).nextQueue = s.nextQueue := rfl
@[simp] theorem State.updPart_nodes (s : State) (p : Nat) (f : Part → Part) : (s.updPart p f).nodes = s.nodes := rfl
@[simp] theorem State.updPart_early (s : State) (p : Nat) (f : Part → Part) : (s.updPart p f).early = s.early := rfl
@[simp] theorem State.updPart_cuffs (s : State) (p : Nat) (f : Part → Part) : (s.updPart p f).cuffs = s.cuffs := rfl
@[simp] theorem State.updPart_parkedDies (s : State) (p : Nat) (f : Part → Part) : (s.updPart p f).parkedDies = s.parkedDies := rfl
@[simp] theorem State.updPart_fw (s : State) (p : Nat) (f : Part → Part) : (s.updPart p f).fw = s.fw := rfl
@[simp] theorem State.updPart_checks (s : State) (p : Nat) (f : Part → Part) : (s.updPart p f).checks = s.checks := rfl
@[simp] theorem State.updPart_agenda (s : State) (p : Nat) (f : Part → Part) : (s.updPart p f).agenda = s.agenda := rfl
@[simp] theorem State.updPart_phase (s : State) (p : Nat) (f : Part → Part) : (s.updPart p f).phase = s.phase := rfl
@[simp] theorem State.updPart_moved (s : State) (p : Nat) (f : Part → Part) : (s.updPart p f).moved = s.moved := rfl
@[simp] theorem State.updPart_rollbacks (s : State) (p : Nat) (f : Part → Part) : (s.updPart p f).rollbacks = s.rollbacks := rfl
@[simp] theorem State.updPart_cur (s : State) (p : Nat) (f : Part → Part) : (s.updPart p f).cur = s.cur := rfl
@[simp] theorem State.updPart_turn (s : State) (p : Nat) (f : Part → Part) : (s.updPart p f).turn = s.turn := rfl

/-! ### `updHalt` -/

@[simp] theorem State.updHalt_gtc (s : State) (p : Nat) (f : Halt → Halt) : (s.updHalt p f).gtc = s.gtc := rfl
@[simp] theorem State.updHalt_free (s : State) (p : Nat) (f : Halt → Halt) : (s.updHalt p f).free = s.free := rfl
@[simp] theorem State.updHalt_cores (s : State) (p : Nat) (f : Halt → Halt) : (s.updHalt p f).cores = s.cores := rfl
@[simp] theorem State.updHalt_clusters (s : State) (p : Nat) (f : Halt → Halt) : (s.updHalt p f).clusters = s.clusters := rfl
@[simp] theorem State.updHalt_power (s : State) (p : Nat) (f : Halt → Halt) : (s.updHalt p f).power = s.power := rfl
@[simp] theorem State.updHalt_mem (s : State) (p : Nat) (f : Halt → Halt) : (s.updHalt p f).mem = s.mem := rfl
@[simp] theorem State.updHalt_server0 (s : State) (p : Nat) (f : Halt → Halt) : (s.updHalt p f).server0 = s.server0 := rfl
@[simp] theorem State.updHalt_server1 (s : State) (p : Nat) (f : Halt → Halt) : (s.updHalt p f).server1 = s.server1 := rfl
@[simp] theorem State.updHalt_served (s : State) (p : Nat) (f : Halt → Halt) : (s.updHalt p f).served = s.served := rfl
@[simp] theorem State.updHalt_teams (s : State) (p : Nat) (f : Halt → Halt) : (s.updHalt p f).teams = s.teams := rfl
@[simp] theorem State.updHalt_tiles (s : State) (p : Nat) (f : Halt → Halt) : (s.updHalt p f).tiles = s.tiles := rfl
@[simp] theorem State.updHalt_tileOrd (s : State) (p : Nat) (f : Halt → Halt) : (s.updHalt p f).tileOrd = s.tileOrd := rfl
@[simp] theorem State.updHalt_fabTiles (s : State) (p : Nat) (f : Halt → Halt) : (s.updHalt p f).fabTiles = s.fabTiles := rfl
@[simp] theorem State.updHalt_nextTile (s : State) (p : Nat) (f : Halt → Halt) : (s.updHalt p f).nextTile = s.nextTile := rfl
@[simp] theorem State.updHalt_links (s : State) (p : Nat) (f : Halt → Halt) : (s.updHalt p f).links = s.links := rfl
@[simp] theorem State.updHalt_ctxs (s : State) (p : Nat) (f : Halt → Halt) : (s.updHalt p f).ctxs = s.ctxs := rfl
@[simp] theorem State.updHalt_parts (s : State) (p : Nat) (f : Halt → Halt) : (s.updHalt p f).parts = s.parts := rfl
@[simp] theorem State.updHalt_queues (s : State) (p : Nat) (f : Halt → Halt) : (s.updHalt p f).queues = s.queues := rfl
@[simp] theorem State.updHalt_nextQueue (s : State) (p : Nat) (f : Halt → Halt) : (s.updHalt p f).nextQueue = s.nextQueue := rfl
@[simp] theorem State.updHalt_nodes (s : State) (p : Nat) (f : Halt → Halt) : (s.updHalt p f).nodes = s.nodes := rfl
@[simp] theorem State.updHalt_early (s : State) (p : Nat) (f : Halt → Halt) : (s.updHalt p f).early = s.early := rfl
@[simp] theorem State.updHalt_cuffs (s : State) (p : Nat) (f : Halt → Halt) : (s.updHalt p f).cuffs = s.cuffs := rfl
@[simp] theorem State.updHalt_parkedDies (s : State) (p : Nat) (f : Halt → Halt) : (s.updHalt p f).parkedDies = s.parkedDies := rfl
@[simp] theorem State.updHalt_fw (s : State) (p : Nat) (f : Halt → Halt) : (s.updHalt p f).fw = s.fw := rfl
@[simp] theorem State.updHalt_checks (s : State) (p : Nat) (f : Halt → Halt) : (s.updHalt p f).checks = s.checks := rfl
@[simp] theorem State.updHalt_agenda (s : State) (p : Nat) (f : Halt → Halt) : (s.updHalt p f).agenda = s.agenda := rfl
@[simp] theorem State.updHalt_phase (s : State) (p : Nat) (f : Halt → Halt) : (s.updHalt p f).phase = s.phase := rfl
@[simp] theorem State.updHalt_moved (s : State) (p : Nat) (f : Halt → Halt) : (s.updHalt p f).moved = s.moved := rfl
@[simp] theorem State.updHalt_rollbacks (s : State) (p : Nat) (f : Halt → Halt) : (s.updHalt p f).rollbacks = s.rollbacks := rfl
@[simp] theorem State.updHalt_cur (s : State) (p : Nat) (f : Halt → Halt) : (s.updHalt p f).cur = s.cur := rfl
@[simp] theorem State.updHalt_turn (s : State) (p : Nat) (f : Halt → Halt) : (s.updHalt p f).turn = s.turn := rfl

/-! ### `updPower` -/

@[simp] theorem State.updPower_gtc (s : State) (f : Power → Power) : (s.updPower f).gtc = s.gtc := rfl
@[simp] theorem State.updPower_free (s : State) (f : Power → Power) : (s.updPower f).free = s.free := rfl
@[simp] theorem State.updPower_cores (s : State) (f : Power → Power) : (s.updPower f).cores = s.cores := rfl
@[simp] theorem State.updPower_clusters (s : State) (f : Power → Power) : (s.updPower f).clusters = s.clusters := rfl
@[simp] theorem State.updPower_mem (s : State) (f : Power → Power) : (s.updPower f).mem = s.mem := rfl
@[simp] theorem State.updPower_server0 (s : State) (f : Power → Power) : (s.updPower f).server0 = s.server0 := rfl
@[simp] theorem State.updPower_server1 (s : State) (f : Power → Power) : (s.updPower f).server1 = s.server1 := rfl
@[simp] theorem State.updPower_served (s : State) (f : Power → Power) : (s.updPower f).served = s.served := rfl
@[simp] theorem State.updPower_teams (s : State) (f : Power → Power) : (s.updPower f).teams = s.teams := rfl
@[simp] theorem State.updPower_tiles (s : State) (f : Power → Power) : (s.updPower f).tiles = s.tiles := rfl
@[simp] theorem State.updPower_tileOrd (s : State) (f : Power → Power) : (s.updPower f).tileOrd = s.tileOrd := rfl
@[simp] theorem State.updPower_fabTiles (s : State) (f : Power → Power) : (s.updPower f).fabTiles = s.fabTiles := rfl
@[simp] theorem State.updPower_nextTile (s : State) (f : Power → Power) : (s.updPower f).nextTile = s.nextTile := rfl
@[simp] theorem State.updPower_links (s : State) (f : Power → Power) : (s.updPower f).links = s.links := rfl
@[simp] theorem State.updPower_ctxs (s : State) (f : Power → Power) : (s.updPower f).ctxs = s.ctxs := rfl
@[simp] theorem State.updPower_parts (s : State) (f : Power → Power) : (s.updPower f).parts = s.parts := rfl
@[simp] theorem State.updPower_halts (s : State) (f : Power → Power) : (s.updPower f).halts = s.halts := rfl
@[simp] theorem State.updPower_queues (s : State) (f : Power → Power) : (s.updPower f).queues = s.queues := rfl
@[simp] theorem State.updPower_nextQueue (s : State) (f : Power → Power) : (s.updPower f).nextQueue = s.nextQueue := rfl
@[simp] theorem State.updPower_nodes (s : State) (f : Power → Power) : (s.updPower f).nodes = s.nodes := rfl
@[simp] theorem State.updPower_early (s : State) (f : Power → Power) : (s.updPower f).early = s.early := rfl
@[simp] theorem State.updPower_cuffs (s : State) (f : Power → Power) : (s.updPower f).cuffs = s.cuffs := rfl
@[simp] theorem State.updPower_parkedDies (s : State) (f : Power → Power) : (s.updPower f).parkedDies = s.parkedDies := rfl
@[simp] theorem State.updPower_fw (s : State) (f : Power → Power) : (s.updPower f).fw = s.fw := rfl
@[simp] theorem State.updPower_checks (s : State) (f : Power → Power) : (s.updPower f).checks = s.checks := rfl
@[simp] theorem State.updPower_agenda (s : State) (f : Power → Power) : (s.updPower f).agenda = s.agenda := rfl
@[simp] theorem State.updPower_phase (s : State) (f : Power → Power) : (s.updPower f).phase = s.phase := rfl
@[simp] theorem State.updPower_moved (s : State) (f : Power → Power) : (s.updPower f).moved = s.moved := rfl
@[simp] theorem State.updPower_rollbacks (s : State) (f : Power → Power) : (s.updPower f).rollbacks = s.rollbacks := rfl
@[simp] theorem State.updPower_cur (s : State) (f : Power → Power) : (s.updPower f).cur = s.cur := rfl
@[simp] theorem State.updPower_turn (s : State) (f : Power → Power) : (s.updPower f).turn = s.turn := rfl

/-! ### `updQueue` -/

@[simp] theorem State.updQueue_gtc (s : State) (q : Nat) (f : Queue → Queue) : (s.updQueue q f).gtc = s.gtc := rfl
@[simp] theorem State.updQueue_free (s : State) (q : Nat) (f : Queue → Queue) : (s.updQueue q f).free = s.free := rfl
@[simp] theorem State.updQueue_cores (s : State) (q : Nat) (f : Queue → Queue) : (s.updQueue q f).cores = s.cores := rfl
@[simp] theorem State.updQueue_clusters (s : State) (q : Nat) (f : Queue → Queue) : (s.updQueue q f).clusters = s.clusters := rfl
@[simp] theorem State.updQueue_power (s : State) (q : Nat) (f : Queue → Queue) : (s.updQueue q f).power = s.power := rfl
@[simp] theorem State.updQueue_mem (s : State) (q : Nat) (f : Queue → Queue) : (s.updQueue q f).mem = s.mem := rfl
@[simp] theorem State.updQueue_server0 (s : State) (q : Nat) (f : Queue → Queue) : (s.updQueue q f).server0 = s.server0 := rfl
@[simp] theorem State.updQueue_server1 (s : State) (q : Nat) (f : Queue → Queue) : (s.updQueue q f).server1 = s.server1 := rfl
@[simp] theorem State.updQueue_served (s : State) (q : Nat) (f : Queue → Queue) : (s.updQueue q f).served = s.served := rfl
@[simp] theorem State.updQueue_teams (s : State) (q : Nat) (f : Queue → Queue) : (s.updQueue q f).teams = s.teams := rfl
@[simp] theorem State.updQueue_tiles (s : State) (q : Nat) (f : Queue → Queue) : (s.updQueue q f).tiles = s.tiles := rfl
@[simp] theorem State.updQueue_tileOrd (s : State) (q : Nat) (f : Queue → Queue) : (s.updQueue q f).tileOrd = s.tileOrd := rfl
@[simp] theorem State.updQueue_fabTiles (s : State) (q : Nat) (f : Queue → Queue) : (s.updQueue q f).fabTiles = s.fabTiles := rfl
@[simp] theorem State.updQueue_nextTile (s : State) (q : Nat) (f : Queue → Queue) : (s.updQueue q f).nextTile = s.nextTile := rfl
@[simp] theorem State.updQueue_links (s : State) (q : Nat) (f : Queue → Queue) : (s.updQueue q f).links = s.links := rfl
@[simp] theorem State.updQueue_ctxs (s : State) (q : Nat) (f : Queue → Queue) : (s.updQueue q f).ctxs = s.ctxs := rfl
@[simp] theorem State.updQueue_parts (s : State) (q : Nat) (f : Queue → Queue) : (s.updQueue q f).parts = s.parts := rfl
@[simp] theorem State.updQueue_halts (s : State) (q : Nat) (f : Queue → Queue) : (s.updQueue q f).halts = s.halts := rfl
@[simp] theorem State.updQueue_nextQueue (s : State) (q : Nat) (f : Queue → Queue) : (s.updQueue q f).nextQueue = s.nextQueue := rfl
@[simp] theorem State.updQueue_nodes (s : State) (q : Nat) (f : Queue → Queue) : (s.updQueue q f).nodes = s.nodes := rfl
@[simp] theorem State.updQueue_early (s : State) (q : Nat) (f : Queue → Queue) : (s.updQueue q f).early = s.early := rfl
@[simp] theorem State.updQueue_cuffs (s : State) (q : Nat) (f : Queue → Queue) : (s.updQueue q f).cuffs = s.cuffs := rfl
@[simp] theorem State.updQueue_parkedDies (s : State) (q : Nat) (f : Queue → Queue) : (s.updQueue q f).parkedDies = s.parkedDies := rfl
@[simp] theorem State.updQueue_fw (s : State) (q : Nat) (f : Queue → Queue) : (s.updQueue q f).fw = s.fw := rfl
@[simp] theorem State.updQueue_checks (s : State) (q : Nat) (f : Queue → Queue) : (s.updQueue q f).checks = s.checks := rfl
@[simp] theorem State.updQueue_agenda (s : State) (q : Nat) (f : Queue → Queue) : (s.updQueue q f).agenda = s.agenda := rfl
@[simp] theorem State.updQueue_phase (s : State) (q : Nat) (f : Queue → Queue) : (s.updQueue q f).phase = s.phase := rfl
@[simp] theorem State.updQueue_moved (s : State) (q : Nat) (f : Queue → Queue) : (s.updQueue q f).moved = s.moved := rfl
@[simp] theorem State.updQueue_rollbacks (s : State) (q : Nat) (f : Queue → Queue) : (s.updQueue q f).rollbacks = s.rollbacks := rfl
@[simp] theorem State.updQueue_cur (s : State) (q : Nat) (f : Queue → Queue) : (s.updQueue q f).cur = s.cur := rfl
@[simp] theorem State.updQueue_turn (s : State) (q : Nat) (f : Queue → Queue) : (s.updQueue q f).turn = s.turn := rfl

/-! ### `updCuff` -/

@[simp] theorem State.updCuff_gtc (s : State) (p : Nat) (f : Cuff → Cuff) : (s.updCuff p f).gtc = s.gtc := rfl
@[simp] theorem State.updCuff_free (s : State) (p : Nat) (f : Cuff → Cuff) : (s.updCuff p f).free = s.free := rfl
@[simp] theorem State.updCuff_cores (s : State) (p : Nat) (f : Cuff → Cuff) : (s.updCuff p f).cores = s.cores := rfl
@[simp] theorem State.updCuff_clusters (s : State) (p : Nat) (f : Cuff → Cuff) : (s.updCuff p f).clusters = s.clusters := rfl
@[simp] theorem State.updCuff_power (s : State) (p : Nat) (f : Cuff → Cuff) : (s.updCuff p f).power = s.power := rfl
@[simp] theorem State.updCuff_mem (s : State) (p : Nat) (f : Cuff → Cuff) : (s.updCuff p f).mem = s.mem := rfl
@[simp] theorem State.updCuff_server0 (s : State) (p : Nat) (f : Cuff → Cuff) : (s.updCuff p f).server0 = s.server0 := rfl
@[simp] theorem State.updCuff_server1 (s : State) (p : Nat) (f : Cuff → Cuff) : (s.updCuff p f).server1 = s.server1 := rfl
@[simp] theorem State.updCuff_served (s : State) (p : Nat) (f : Cuff → Cuff) : (s.updCuff p f).served = s.served := rfl
@[simp] theorem State.updCuff_teams (s : State) (p : Nat) (f : Cuff → Cuff) : (s.updCuff p f).teams = s.teams := rfl
@[simp] theorem State.updCuff_tiles (s : State) (p : Nat) (f : Cuff → Cuff) : (s.updCuff p f).tiles = s.tiles := rfl
@[simp] theorem State.updCuff_tileOrd (s : State) (p : Nat) (f : Cuff → Cuff) : (s.updCuff p f).tileOrd = s.tileOrd := rfl
@[simp] theorem State.updCuff_fabTiles (s : State) (p : Nat) (f : Cuff → Cuff) : (s.updCuff p f).fabTiles = s.fabTiles := rfl
@[simp] theorem State.updCuff_nextTile (s : State) (p : Nat) (f : Cuff → Cuff) : (s.updCuff p f).nextTile = s.nextTile := rfl
@[simp] theorem State.updCuff_links (s : State) (p : Nat) (f : Cuff → Cuff) : (s.updCuff p f).links = s.links := rfl
@[simp] theorem State.updCuff_ctxs (s : State) (p : Nat) (f : Cuff → Cuff) : (s.updCuff p f).ctxs = s.ctxs := rfl
@[simp] theorem State.updCuff_parts (s : State) (p : Nat) (f : Cuff → Cuff) : (s.updCuff p f).parts = s.parts := rfl
@[simp] theorem State.updCuff_halts (s : State) (p : Nat) (f : Cuff → Cuff) : (s.updCuff p f).halts = s.halts := rfl
@[simp] theorem State.updCuff_queues (s : State) (p : Nat) (f : Cuff → Cuff) : (s.updCuff p f).queues = s.queues := rfl
@[simp] theorem State.updCuff_nextQueue (s : State) (p : Nat) (f : Cuff → Cuff) : (s.updCuff p f).nextQueue = s.nextQueue := rfl
@[simp] theorem State.updCuff_nodes (s : State) (p : Nat) (f : Cuff → Cuff) : (s.updCuff p f).nodes = s.nodes := rfl
@[simp] theorem State.updCuff_early (s : State) (p : Nat) (f : Cuff → Cuff) : (s.updCuff p f).early = s.early := rfl
@[simp] theorem State.updCuff_parkedDies (s : State) (p : Nat) (f : Cuff → Cuff) : (s.updCuff p f).parkedDies = s.parkedDies := rfl
@[simp] theorem State.updCuff_fw (s : State) (p : Nat) (f : Cuff → Cuff) : (s.updCuff p f).fw = s.fw := rfl
@[simp] theorem State.updCuff_checks (s : State) (p : Nat) (f : Cuff → Cuff) : (s.updCuff p f).checks = s.checks := rfl
@[simp] theorem State.updCuff_agenda (s : State) (p : Nat) (f : Cuff → Cuff) : (s.updCuff p f).agenda = s.agenda := rfl
@[simp] theorem State.updCuff_phase (s : State) (p : Nat) (f : Cuff → Cuff) : (s.updCuff p f).phase = s.phase := rfl
@[simp] theorem State.updCuff_moved (s : State) (p : Nat) (f : Cuff → Cuff) : (s.updCuff p f).moved = s.moved := rfl
@[simp] theorem State.updCuff_rollbacks (s : State) (p : Nat) (f : Cuff → Cuff) : (s.updCuff p f).rollbacks = s.rollbacks := rfl
@[simp] theorem State.updCuff_cur (s : State) (p : Nat) (f : Cuff → Cuff) : (s.updCuff p f).cur = s.cur := rfl
@[simp] theorem State.updCuff_turn (s : State) (p : Nat) (f : Cuff → Cuff) : (s.updCuff p f).turn = s.turn := rfl

/-! ### `updTile` -/

@[simp] theorem State.updTile_gtc (s : State) (i : Nat) (f : TileIns → TileIns) : (s.updTile i f).gtc = s.gtc := rfl
@[simp] theorem State.updTile_free (s : State) (i : Nat) (f : TileIns → TileIns) : (s.updTile i f).free = s.free := rfl
@[simp] theorem State.updTile_cores (s : State) (i : Nat) (f : TileIns → TileIns) : (s.updTile i f).cores = s.cores := rfl
@[simp] theorem State.updTile_clusters (s : State) (i : Nat) (f : TileIns → TileIns) : (s.updTile i f).clusters = s.clusters := rfl
@[simp] theorem State.updTile_power (s : State) (i : Nat) (f : TileIns → TileIns) : (s.updTile i f).power = s.power := rfl
@[simp] theorem State.updTile_mem (s : State) (i : Nat) (f : TileIns → TileIns) : (s.updTile i f).mem = s.mem := rfl
@[simp] theorem State.updTile_server0 (s : State) (i : Nat) (f : TileIns → TileIns) : (s.updTile i f).server0 = s.server0 := rfl
@[simp] theorem State.updTile_server1 (s : State) (i : Nat) (f : TileIns → TileIns) : (s.updTile i f).server1 = s.server1 := rfl
@[simp] theorem State.updTile_served (s : State) (i : Nat) (f : TileIns → TileIns) : (s.updTile i f).served = s.served := rfl
@[simp] theorem State.updTile_teams (s : State) (i : Nat) (f : TileIns → TileIns) : (s.updTile i f).teams = s.teams := rfl
@[simp] theorem State.updTile_tileOrd (s : State) (i : Nat) (f : TileIns → TileIns) : (s.updTile i f).tileOrd = s.tileOrd := rfl
@[simp] theorem State.updTile_fabTiles (s : State) (i : Nat) (f : TileIns → TileIns) : (s.updTile i f).fabTiles = s.fabTiles := rfl
@[simp] theorem State.updTile_nextTile (s : State) (i : Nat) (f : TileIns → TileIns) : (s.updTile i f).nextTile = s.nextTile := rfl
@[simp] theorem State.updTile_links (s : State) (i : Nat) (f : TileIns → TileIns) : (s.updTile i f).links = s.links := rfl
@[simp] theorem State.updTile_ctxs (s : State) (i : Nat) (f : TileIns → TileIns) : (s.updTile i f).ctxs = s.ctxs := rfl
@[simp] theorem State.updTile_parts (s : State) (i : Nat) (f : TileIns → TileIns) : (s.updTile i f).parts = s.parts := rfl
@[simp] theorem State.updTile_halts (s : State) (i : Nat) (f : TileIns → TileIns) : (s.updTile i f).halts = s.halts := rfl
@[simp] theorem State.updTile_queues (s : State) (i : Nat) (f : TileIns → TileIns) : (s.updTile i f).queues = s.queues := rfl
@[simp] theorem State.updTile_nextQueue (s : State) (i : Nat) (f : TileIns → TileIns) : (s.updTile i f).nextQueue = s.nextQueue := rfl
@[simp] theorem State.updTile_nodes (s : State) (i : Nat) (f : TileIns → TileIns) : (s.updTile i f).nodes = s.nodes := rfl
@[simp] theorem State.updTile_early (s : State) (i : Nat) (f : TileIns → TileIns) : (s.updTile i f).early = s.early := rfl
@[simp] theorem State.updTile_cuffs (s : State) (i : Nat) (f : TileIns → TileIns) : (s.updTile i f).cuffs = s.cuffs := rfl
@[simp] theorem State.updTile_parkedDies (s : State) (i : Nat) (f : TileIns → TileIns) : (s.updTile i f).parkedDies = s.parkedDies := rfl
@[simp] theorem State.updTile_fw (s : State) (i : Nat) (f : TileIns → TileIns) : (s.updTile i f).fw = s.fw := rfl
@[simp] theorem State.updTile_checks (s : State) (i : Nat) (f : TileIns → TileIns) : (s.updTile i f).checks = s.checks := rfl
@[simp] theorem State.updTile_agenda (s : State) (i : Nat) (f : TileIns → TileIns) : (s.updTile i f).agenda = s.agenda := rfl
@[simp] theorem State.updTile_phase (s : State) (i : Nat) (f : TileIns → TileIns) : (s.updTile i f).phase = s.phase := rfl
@[simp] theorem State.updTile_moved (s : State) (i : Nat) (f : TileIns → TileIns) : (s.updTile i f).moved = s.moved := rfl
@[simp] theorem State.updTile_rollbacks (s : State) (i : Nat) (f : TileIns → TileIns) : (s.updTile i f).rollbacks = s.rollbacks := rfl
@[simp] theorem State.updTile_cur (s : State) (i : Nat) (f : TileIns → TileIns) : (s.updTile i f).cur = s.cur := rfl
@[simp] theorem State.updTile_turn (s : State) (i : Nat) (f : TileIns → TileIns) : (s.updTile i f).turn = s.turn := rfl

/-! ### `drawn` -/

@[simp] theorem State.drawn_gtc (s : State) : (s.drawn).gtc = s.gtc := rfl
@[simp] theorem State.drawn_cores (s : State) : (s.drawn).cores = s.cores := rfl
@[simp] theorem State.drawn_clusters (s : State) : (s.drawn).clusters = s.clusters := rfl
@[simp] theorem State.drawn_power (s : State) : (s.drawn).power = s.power := rfl
@[simp] theorem State.drawn_mem (s : State) : (s.drawn).mem = s.mem := rfl
@[simp] theorem State.drawn_server0 (s : State) : (s.drawn).server0 = s.server0 := rfl
@[simp] theorem State.drawn_server1 (s : State) : (s.drawn).server1 = s.server1 := rfl
@[simp] theorem State.drawn_served (s : State) : (s.drawn).served = s.served := rfl
@[simp] theorem State.drawn_teams (s : State) : (s.drawn).teams = s.teams := rfl
@[simp] theorem State.drawn_tiles (s : State) : (s.drawn).tiles = s.tiles := rfl
@[simp] theorem State.drawn_tileOrd (s : State) : (s.drawn).tileOrd = s.tileOrd := rfl
@[simp] theorem State.drawn_fabTiles (s : State) : (s.drawn).fabTiles = s.fabTiles := rfl
@[simp] theorem State.drawn_nextTile (s : State) : (s.drawn).nextTile = s.nextTile := rfl
@[simp] theorem State.drawn_links (s : State) : (s.drawn).links = s.links := rfl
@[simp] theorem State.drawn_ctxs (s : State) : (s.drawn).ctxs = s.ctxs := rfl
@[simp] theorem State.drawn_parts (s : State) : (s.drawn).parts = s.parts := rfl
@[simp] theorem State.drawn_halts (s : State) : (s.drawn).halts = s.halts := rfl
@[simp] theorem State.drawn_queues (s : State) : (s.drawn).queues = s.queues := rfl
@[simp] theorem State.drawn_nextQueue (s : State) : (s.drawn).nextQueue = s.nextQueue := rfl
@[simp] theorem State.drawn_nodes (s : State) : (s.drawn).nodes = s.nodes := rfl
@[simp] theorem State.drawn_early (s : State) : (s.drawn).early = s.early := rfl
@[simp] theorem State.drawn_cuffs (s : State) : (s.drawn).cuffs = s.cuffs := rfl
@[simp] theorem State.drawn_parkedDies (s : State) : (s.drawn).parkedDies = s.parkedDies := rfl
@[simp] theorem State.drawn_fw (s : State) : (s.drawn).fw = s.fw := rfl
@[simp] theorem State.drawn_checks (s : State) : (s.drawn).checks = s.checks := rfl
@[simp] theorem State.drawn_agenda (s : State) : (s.drawn).agenda = s.agenda := rfl
@[simp] theorem State.drawn_phase (s : State) : (s.drawn).phase = s.phase := rfl
@[simp] theorem State.drawn_moved (s : State) : (s.drawn).moved = s.moved := rfl
@[simp] theorem State.drawn_rollbacks (s : State) : (s.drawn).rollbacks = s.rollbacks := rfl
@[simp] theorem State.drawn_cur (s : State) : (s.drawn).cur = s.cur := rfl
@[simp] theorem State.drawn_turn (s : State) : (s.drawn).turn = s.turn := rfl

/-! ### `warn` -/

@[simp] theorem State.warn_gtc (s : State) (w : W64) : (s.warn w).gtc = s.gtc := rfl
@[simp] theorem State.warn_free (s : State) (w : W64) : (s.warn w).free = s.free := rfl
@[simp] theorem State.warn_clusters (s : State) (w : W64) : (s.warn w).clusters = s.clusters := rfl
@[simp] theorem State.warn_power (s : State) (w : W64) : (s.warn w).power = s.power := rfl
@[simp] theorem State.warn_mem (s : State) (w : W64) : (s.warn w).mem = s.mem := rfl
@[simp] theorem State.warn_server0 (s : State) (w : W64) : (s.warn w).server0 = s.server0 := rfl
@[simp] theorem State.warn_server1 (s : State) (w : W64) : (s.warn w).server1 = s.server1 := rfl
@[simp] theorem State.warn_served (s : State) (w : W64) : (s.warn w).served = s.served := rfl
@[simp] theorem State.warn_teams (s : State) (w : W64) : (s.warn w).teams = s.teams := rfl
@[simp] theorem State.warn_tiles (s : State) (w : W64) : (s.warn w).tiles = s.tiles := rfl
@[simp] theorem State.warn_tileOrd (s : State) (w : W64) : (s.warn w).tileOrd = s.tileOrd := rfl
@[simp] theorem State.warn_fabTiles (s : State) (w : W64) : (s.warn w).fabTiles = s.fabTiles := rfl
@[simp] theorem State.warn_nextTile (s : State) (w : W64) : (s.warn w).nextTile = s.nextTile := rfl
@[simp] theorem State.warn_links (s : State) (w : W64) : (s.warn w).links = s.links := rfl
@[simp] theorem State.warn_ctxs (s : State) (w : W64) : (s.warn w).ctxs = s.ctxs := rfl
@[simp] theorem State.warn_parts (s : State) (w : W64) : (s.warn w).parts = s.parts := rfl
@[simp] theorem State.warn_halts (s : State) (w : W64) : (s.warn w).halts = s.halts := rfl
@[simp] theorem State.warn_queues (s : State) (w : W64) : (s.warn w).queues = s.queues := rfl
@[simp] theorem State.warn_nextQueue (s : State) (w : W64) : (s.warn w).nextQueue = s.nextQueue := rfl
@[simp] theorem State.warn_nodes (s : State) (w : W64) : (s.warn w).nodes = s.nodes := rfl
@[simp] theorem State.warn_early (s : State) (w : W64) : (s.warn w).early = s.early := rfl
@[simp] theorem State.warn_cuffs (s : State) (w : W64) : (s.warn w).cuffs = s.cuffs := rfl
@[simp] theorem State.warn_parkedDies (s : State) (w : W64) : (s.warn w).parkedDies = s.parkedDies := rfl
@[simp] theorem State.warn_fw (s : State) (w : W64) : (s.warn w).fw = s.fw := rfl
@[simp] theorem State.warn_checks (s : State) (w : W64) : (s.warn w).checks = s.checks := rfl
@[simp] theorem State.warn_agenda (s : State) (w : W64) : (s.warn w).agenda = s.agenda := rfl
@[simp] theorem State.warn_phase (s : State) (w : W64) : (s.warn w).phase = s.phase := rfl
@[simp] theorem State.warn_moved (s : State) (w : W64) : (s.warn w).moved = s.moved := rfl
@[simp] theorem State.warn_rollbacks (s : State) (w : W64) : (s.warn w).rollbacks = s.rollbacks := rfl
@[simp] theorem State.warn_cur (s : State) (w : W64) : (s.warn w).cur = s.cur := rfl
@[simp] theorem State.warn_turn (s : State) (w : W64) : (s.warn w).turn = s.turn := rfl

/-! ### `charge` -/

@[simp] theorem State.charge_gtc (s : State) (c : Nat) (x : Option (Nat × Nat)) : (s.charge c x).gtc = s.gtc := by cases x <;> rfl
@[simp] theorem State.charge_free (s : State) (c : Nat) (x : Option (Nat × Nat)) : (s.charge c x).free = s.free := by cases x <;> rfl
@[simp] theorem State.charge_cores (s : State) (c : Nat) (x : Option (Nat × Nat)) : (s.charge c x).cores = s.cores := by cases x <;> rfl
@[simp] theorem State.charge_power (s : State) (c : Nat) (x : Option (Nat × Nat)) : (s.charge c x).power = s.power := by cases x <;> rfl
@[simp] theorem State.charge_mem (s : State) (c : Nat) (x : Option (Nat × Nat)) : (s.charge c x).mem = s.mem := by cases x <;> rfl
@[simp] theorem State.charge_server0 (s : State) (c : Nat) (x : Option (Nat × Nat)) : (s.charge c x).server0 = s.server0 := by cases x <;> rfl
@[simp] theorem State.charge_server1 (s : State) (c : Nat) (x : Option (Nat × Nat)) : (s.charge c x).server1 = s.server1 := by cases x <;> rfl
@[simp] theorem State.charge_served (s : State) (c : Nat) (x : Option (Nat × Nat)) : (s.charge c x).served = s.served := by cases x <;> rfl
@[simp] theorem State.charge_teams (s : State) (c : Nat) (x : Option (Nat × Nat)) : (s.charge c x).teams = s.teams := by cases x <;> rfl
@[simp] theorem State.charge_tiles (s : State) (c : Nat) (x : Option (Nat × Nat)) : (s.charge c x).tiles = s.tiles := by cases x <;> rfl
@[simp] theorem State.charge_tileOrd (s : State) (c : Nat) (x : Option (Nat × Nat)) : (s.charge c x).tileOrd = s.tileOrd := by cases x <;> rfl
@[simp] theorem State.charge_fabTiles (s : State) (c : Nat) (x : Option (Nat × Nat)) : (s.charge c x).fabTiles = s.fabTiles := by cases x <;> rfl
@[simp] theorem State.charge_nextTile (s : State) (c : Nat) (x : Option (Nat × Nat)) : (s.charge c x).nextTile = s.nextTile := by cases x <;> rfl
@[simp] theorem State.charge_links (s : State) (c : Nat) (x : Option (Nat × Nat)) : (s.charge c x).links = s.links := by cases x <;> rfl
@[simp] theorem State.charge_ctxs (s : State) (c : Nat) (x : Option (Nat × Nat)) : (s.charge c x).ctxs = s.ctxs := by cases x <;> rfl
@[simp] theorem State.charge_parts (s : State) (c : Nat) (x : Option (Nat × Nat)) : (s.charge c x).parts = s.parts := by cases x <;> rfl
@[simp] theorem State.charge_halts (s : State) (c : Nat) (x : Option (Nat × Nat)) : (s.charge c x).halts = s.halts := by cases x <;> rfl
@[simp] theorem State.charge_queues (s : State) (c : Nat) (x : Option (Nat × Nat)) : (s.charge c x).queues = s.queues := by cases x <;> rfl
@[simp] theorem State.charge_nextQueue (s : State) (c : Nat) (x : Option (Nat × Nat)) : (s.charge c x).nextQueue = s.nextQueue := by cases x <;> rfl
@[simp] theorem State.charge_nodes (s : State) (c : Nat) (x : Option (Nat × Nat)) : (s.charge c x).nodes = s.nodes := by cases x <;> rfl
@[simp] theorem State.charge_early (s : State) (c : Nat) (x : Option (Nat × Nat)) : (s.charge c x).early = s.early := by cases x <;> rfl
@[simp] theorem State.charge_cuffs (s : State) (c : Nat) (x : Option (Nat × Nat)) : (s.charge c x).cuffs = s.cuffs := by cases x <;> rfl
@[simp] theorem State.charge_parkedDies (s : State) (c : Nat) (x : Option (Nat × Nat)) : (s.charge c x).parkedDies = s.parkedDies := by cases x <;> rfl
@[simp] theorem State.charge_fw (s : State) (c : Nat) (x : Option (Nat × Nat)) : (s.charge c x).fw = s.fw := by cases x <;> rfl
@[simp] theorem State.charge_checks (s : State) (c : Nat) (x : Option (Nat × Nat)) : (s.charge c x).checks = s.checks := by cases x <;> rfl
@[simp] theorem State.charge_agenda (s : State) (c : Nat) (x : Option (Nat × Nat)) : (s.charge c x).agenda = s.agenda := by cases x <;> rfl
@[simp] theorem State.charge_phase (s : State) (c : Nat) (x : Option (Nat × Nat)) : (s.charge c x).phase = s.phase := by cases x <;> rfl
@[simp] theorem State.charge_moved (s : State) (c : Nat) (x : Option (Nat × Nat)) : (s.charge c x).moved = s.moved := by cases x <;> rfl
@[simp] theorem State.charge_rollbacks (s : State) (c : Nat) (x : Option (Nat × Nat)) : (s.charge c x).rollbacks = s.rollbacks := by cases x <;> rfl
@[simp] theorem State.charge_cur (s : State) (c : Nat) (x : Option (Nat × Nat)) : (s.charge c x).cur = s.cur := by cases x <;> rfl
@[simp] theorem State.charge_turn (s : State) (c : Nat) (x : Option (Nat × Nat)) : (s.charge c x).turn = s.turn := by cases x <;> rfl

end Sys2Proof.Machine
end

