-- ==== Sys2Proof/Laws/Core.lean ====
section
/-! SUPPORT. What replacing one stream of a core leaves alone, field by field. -/

namespace Sys2Proof.Machine

@[simp] theorem Core.setStrm_job (k : Core) (e : StreamId) (t : Stream) : (k.setStrm e t).job = k.job := by cases e <;> rfl
@[simp] theorem Core.setStrm_vec (k : Core) (e : StreamId) (t : Stream) : (k.setStrm e t).vec = k.vec := by cases e <;> rfl
@[simp] theorem Core.setStrm_tile (k : Core) (e : StreamId) (t : Stream) : (k.setStrm e t).tile = k.tile := by cases e <;> rfl
@[simp] theorem Core.setStrm_acc (k : Core) (e : StreamId) (t : Stream) : (k.setStrm e t).acc = k.acc := by cases e <;> rfl
@[simp] theorem Core.setStrm_fmask (k : Core) (e : StreamId) (t : Stream) : (k.setStrm e t).fmask = k.fmask := by cases e <;> rfl
@[simp] theorem Core.setStrm_tags (k : Core) (e : StreamId) (t : Stream) : (k.setStrm e t).tags = k.tags := by cases e <;> rfl
@[simp] theorem Core.setStrm_tagScope (k : Core) (e : StreamId) (t : Stream) : (k.setStrm e t).tagScope = k.tagScope := by cases e <;> rfl
@[simp] theorem Core.setStrm_tagSets (k : Core) (e : StreamId) (t : Stream) : (k.setStrm e t).tagSets = k.tagSets := by cases e <;> rfl
@[simp] theorem Core.setStrm_tagsClr (k : Core) (e : StreamId) (t : Stream) : (k.setStrm e t).tagsClr = k.tagsClr := by cases e <;> rfl
@[simp] theorem Core.setStrm_tplWrites (k : Core) (e : StreamId) (t : Stream) : (k.setStrm e t).tplWrites = k.tplWrites := by cases e <;> rfl
@[simp] theorem Core.setStrm_wid (k : Core) (e : StreamId) (t : Stream) : (k.setStrm e t).wid = k.wid := by cases e <;> rfl
@[simp] theorem Core.setStrm_sr (k : Core) (e : StreamId) (t : Stream) : (k.setStrm e t).sr = k.sr := by cases e <;> rfl
@[simp] theorem Core.setStrm_srSeed (k : Core) (e : StreamId) (t : Stream) : (k.setStrm e t).srSeed = k.srSeed := by cases e <;> rfl
@[simp] theorem Core.setStrm_vcyc (k : Core) (e : StreamId) (t : Stream) : (k.setStrm e t).vcyc = k.vcyc := by cases e <;> rfl
@[simp] theorem Core.setStrm_range (k : Core) (e : StreamId) (t : Stream) : (k.setStrm e t).range = k.range := by cases e <;> rfl
@[simp] theorem Core.setStrm_ring0 (k : Core) (e : StreamId) (t : Stream) : (k.setStrm e t).ring0 = k.ring0 := by cases e <;> rfl
@[simp] theorem Core.setStrm_ring1 (k : Core) (e : StreamId) (t : Stream) : (k.setStrm e t).ring1 = k.ring1 := by cases e <;> rfl
@[simp] theorem Core.setStrm_fmtq (k : Core) (e : StreamId) (t : Stream) : (k.setStrm e t).fmtq = k.fmtq := by cases e <;> rfl
@[simp] theorem Core.setStrm_spilled (k : Core) (e : StreamId) (t : Stream) : (k.setStrm e t).spilled = k.spilled := by cases e <;> rfl
@[simp] theorem Core.setStrm_fmtqNew (k : Core) (e : StreamId) (t : Stream) : (k.setStrm e t).fmtqNew = k.fmtqNew := by cases e <;> rfl
@[simp] theorem Core.setStrm_issueOrd (k : Core) (e : StreamId) (t : Stream) : (k.setStrm e t).issueOrd = k.issueOrd := by cases e <;> rfl
@[simp] theorem Core.setStrm_pend (k : Core) (e : StreamId) (t : Stream) : (k.setStrm e t).pend = k.pend := by cases e <;> rfl
@[simp] theorem Core.setStrm_memq (k : Core) (e : StreamId) (t : Stream) : (k.setStrm e t).memq = k.memq := by cases e <;> rfl
@[simp] theorem Core.setStrm_holdReq (k : Core) (e : StreamId) (t : Stream) : (k.setStrm e t).holdReq = k.holdReq := by cases e <;> rfl
@[simp] theorem Core.setStrm_refused (k : Core) (e : StreamId) (t : Stream) : (k.setStrm e t).refused = k.refused := by cases e <;> rfl
@[simp] theorem Core.setStrm_suspect (k : Core) (e : StreamId) (t : Stream) : (k.setStrm e t).suspect = k.suspect := by cases e <;> rfl
@[simp] theorem Core.setStrm_errors (k : Core) (e : StreamId) (t : Stream) : (k.setStrm e t).errors = k.errors := by cases e <;> rfl
@[simp] theorem Core.setStrm_failed (k : Core) (e : StreamId) (t : Stream) : (k.setStrm e t).failed = k.failed := by cases e <;> rfl
@[simp] theorem Core.setStrm_cycleOpen (k : Core) (e : StreamId) (t : Stream) : (k.setStrm e t).cycleOpen = k.cycleOpen := by cases e <;> rfl
@[simp] theorem Core.setStrm_issuing (k : Core) (e : StreamId) (t : Stream) : (k.setStrm e t).issuing = k.issuing := by cases e <;> rfl
@[simp] theorem Core.setStrm_formsOnly (k : Core) (e : StreamId) (t : Stream) : (k.setStrm e t).formsOnly = k.formsOnly := by cases e <;> rfl
@[simp] theorem Core.setStrm_age (k : Core) (e : StreamId) (t : Stream) : (k.setStrm e t).age = k.age := by cases e <;> rfl
@[simp] theorem Core.setStrm_skid (k : Core) (e : StreamId) (t : Stream) : (k.setStrm e t).skid = k.skid := by cases e <;> rfl
@[simp] theorem Core.setStrm_stall (k : Core) (e : StreamId) (t : Stream) : (k.setStrm e t).stall = k.stall := by cases e <;> rfl
@[simp] theorem Core.setStrm_issued (k : Core) (e : StreamId) (t : Stream) : (k.setStrm e t).issued = k.issued := by cases e <;> rfl
@[simp] theorem Core.setStrm_poolHold (k : Core) (e : StreamId) (t : Stream) : (k.setStrm e t).poolHold = k.poolHold := by cases e <;> rfl
@[simp] theorem Core.setStrm_poolHeld (k : Core) (e : StreamId) (t : Stream) : (k.setStrm e t).poolHeld = k.poolHeld := by cases e <;> rfl
@[simp] theorem Core.setStrm_retiring (k : Core) (e : StreamId) (t : Stream) : (k.setStrm e t).retiring = k.retiring := by cases e <;> rfl
@[simp] theorem Core.setStrm_saveOp (k : Core) (e : StreamId) (t : Stream) : (k.setStrm e t).saveOp = k.saveOp := by cases e <;> rfl
@[simp] theorem Core.setStrm_asks (k : Core) (e : StreamId) (t : Stream) : (k.setStrm e t).asks = k.asks := by cases e <;> rfl
@[simp] theorem Core.setStrm_scrubbed (k : Core) (e : StreamId) (t : Stream) : (k.setStrm e t).scrubbed = k.scrubbed := by cases e <;> rfl
@[simp] theorem Core.setStrm_sp (k : Core) (e : StreamId) (t : Stream) : (k.setStrm e t).sp = k.sp := by cases e <;> rfl
@[simp] theorem Core.setStrm_spEvents (k : Core) (e : StreamId) (t : Stream) : (k.setStrm e t).spEvents = k.spEvents := by cases e <;> rfl
@[simp] theorem Core.setStrm_spPoison (k : Core) (e : StreamId) (t : Stream) : (k.setStrm e t).spPoison = k.spPoison := by cases e <;> rfl
@[simp] theorem Core.setStrm_l1 (k : Core) (e : StreamId) (t : Stream) : (k.setStrm e t).l1 = k.l1 := by cases e <;> rfl
@[simp] theorem Core.setStrm_ranges (k : Core) (e : StreamId) (t : Stream) : (k.setStrm e t).ranges = k.ranges := by cases e <;> rfl
@[simp] theorem Core.setStrm_rangesDone (k : Core) (e : StreamId) (t : Stream) : (k.setStrm e t).rangesDone = k.rangesDone := by cases e <;> rfl
@[simp] theorem Core.setStrm_phase (k : Core) (e : StreamId) (t : Stream) : (k.setStrm e t).phase = k.phase := by cases e <;> rfl
@[simp] theorem Core.setStrm_sig1 (k : Core) (e : StreamId) (t : Stream) : (k.setStrm e t).sig1 = k.sig1 := by cases e <;> rfl
@[simp] theorem Core.setStrm_sig2 (k : Core) (e : StreamId) (t : Stream) : (k.setStrm e t).sig2 = k.sig2 := by cases e <;> rfl
@[simp] theorem Core.setStrm_sig3 (k : Core) (e : StreamId) (t : Stream) : (k.setStrm e t).sig3 = k.sig3 := by cases e <;> rfl
@[simp] theorem Core.setStrm_sig4 (k : Core) (e : StreamId) (t : Stream) : (k.setStrm e t).sig4 = k.sig4 := by cases e <;> rfl
@[simp] theorem Core.setStrm_lastEp (k : Core) (e : StreamId) (t : Stream) : (k.setStrm e t).lastEp = k.lastEp := by cases e <;> rfl
@[simp] theorem Core.setStrm_hm (k : Core) (e : StreamId) (t : Stream) : (k.setStrm e t).hm = k.hm := by cases e <;> rfl
@[simp] theorem Core.setStrm_hcyc (k : Core) (e : StreamId) (t : Stream) : (k.setStrm e t).hcyc = k.hcyc := by cases e <;> rfl
@[simp] theorem Core.setStrm_svcWait (k : Core) (e : StreamId) (t : Stream) : (k.setStrm e t).svcWait = k.svcWait := by cases e <;> rfl
@[simp] theorem Core.setStrm_trapBits (k : Core) (e : StreamId) (t : Stream) : (k.setStrm e t).trapBits = k.trapBits := by cases e <;> rfl
@[simp] theorem Core.setStrm_trapTmr (k : Core) (e : StreamId) (t : Stream) : (k.setStrm e t).trapTmr = k.trapTmr := by cases e <;> rfl
@[simp] theorem Core.setStrm_trapCode (k : Core) (e : StreamId) (t : Stream) : (k.setStrm e t).trapCode = k.trapCode := by cases e <;> rfl
@[simp] theorem Core.setStrm_trapStrm (k : Core) (e : StreamId) (t : Stream) : (k.setStrm e t).trapStrm = k.trapStrm := by cases e <;> rfl
@[simp] theorem Core.setStrm_trapSync (k : Core) (e : StreamId) (t : Stream) : (k.setStrm e t).trapSync = k.trapSync := by cases e <;> rfl
@[simp] theorem Core.setStrm_tcause (k : Core) (e : StreamId) (t : Stream) : (k.setStrm e t).tcause = k.tcause := by cases e <;> rfl
@[simp] theorem Core.setStrm_tvec (k : Core) (e : StreamId) (t : Stream) : (k.setStrm e t).tvec = k.tvec := by cases e <;> rfl
@[simp] theorem Core.setStrm_tframe (k : Core) (e : StreamId) (t : Stream) : (k.setStrm e t).tframe = k.tframe := by cases e <;> rfl
@[simp] theorem Core.setStrm_tdeleg (k : Core) (e : StreamId) (t : Stream) : (k.setStrm e t).tdeleg = k.tdeleg := by cases e <;> rfl
@[simp] theorem Core.setStrm_csrNew (k : Core) (e : StreamId) (t : Stream) : (k.setStrm e t).csrNew = k.csrNew := by cases e <;> rfl
@[simp] theorem Core.setStrm_savedOps (k : Core) (e : StreamId) (t : Stream) : (k.setStrm e t).savedOps = k.savedOps := by cases e <;> rfl
@[simp] theorem Core.setStrm_savedHold (k : Core) (e : StreamId) (t : Stream) : (k.setStrm e t).savedHold = k.savedHold := by cases e <;> rfl
@[simp] theorem Core.setStrm_savedMx (k : Core) (e : StreamId) (t : Stream) : (k.setStrm e t).savedMx = k.savedMx := by cases e <;> rfl
@[simp] theorem Core.setStrm_carveTo (k : Core) (e : StreamId) (t : Stream) : (k.setStrm e t).carveTo = k.carveTo := by cases e <;> rfl
@[simp] theorem Core.setStrm_mx (k : Core) (e : StreamId) (t : Stream) : (k.setStrm e t).mx = k.mx := by cases e <;> rfl
@[simp] theorem Core.setStrm_cx (k : Core) (e : StreamId) (t : Stream) : (k.setStrm e t).cx = k.cx := by cases e <;> rfl
@[simp] theorem Core.setStrm_tilesOut (k : Core) (e : StreamId) (t : Stream) : (k.setStrm e t).tilesOut = k.tilesOut := by cases e <;> rfl

end Sys2Proof.Machine
end

