-- ==== Sys2Proof/Laws/Lanes.lean ====
section
/-! SUPPORT. The lane loop, said once: the elements it forms and the generators it advances (R104, R105, R147). -/

namespace Sys2Proof.Machine

/-- `n` fields of width `w`, field 0 lowest. -/
def packNat (w : Nat) (f : Nat → Nat) : Nat → Nat
  | 0 => 0
  | n + 1 => packNat w f n + f n * 2 ^ (w * n)

theorem packNat_lt {w : Nat} {f : Nat → Nat} (n : Nat) (h : ∀ i, i < n → f i < 2 ^ w) : packNat w f n < 2 ^ (w * n) := by
  induction n with
  | zero => simp [packNat]
  | succ n ih =>
    have h1 := ih fun i hi => h i (by omega)
    have h2 := h n (by omega)
    have : f n * 2 ^ (w * n) + 2 ^ (w * n) ≤ 2 ^ w * 2 ^ (w * n) := by
      rw [← Nat.succ_mul]; exact Nat.mul_le_mul_right _ h2
    rw [packNat, Nat.mul_succ, Nat.pow_add, Nat.mul_comm (2 ^ (w * n))]
    omega

theorem packNat_field {w : Nat} {f : Nat → Nat} {n i : Nat} (h : ∀ i, i < n → f i < 2 ^ w) (hi : i < n) :
    packNat w f n / 2 ^ (w * i) % 2 ^ w = f i := by
  induction n with
  | zero => omega
  | succ n ih =>
    rw [packNat]
    by_cases hin : i = n
    · subst hin
      have h1 := packNat_lt i fun j hj => h j (by omega)
      rw [Nat.add_mul_div_right _ _ (Nat.two_pow_pos _), Nat.div_eq_of_lt h1, Nat.zero_add]
      exact Nat.mod_eq_of_lt (h i (by omega))
    · have hlt : i < n := by omega
      obtain ⟨d, rfl⟩ : ∃ d, n = i + 1 + d := ⟨n - (i + 1), by omega⟩
      have : f (i + 1 + d) * 2 ^ (w * (i + 1 + d)) = 2 ^ (w * i) * (2 ^ w * (f (i + 1 + d) * 2 ^ (w * d))) := by
        have : w * (i + 1 + d) = w * i + w + w * d := by rw [Nat.mul_add, Nat.mul_add, Nat.mul_one]
        rw [this, Nat.pow_add, Nat.pow_add]; ac_rfl
      rw [this, Nat.add_mul_div_left _ _ (Nat.two_pow_pos _), Nat.add_mul_mod_self_left]
      exact ih (fun j hj => h j (by omega)) hlt

theorem packNat_congr {w : Nat} {f g : Nat → Nat} (n : Nat) (h : ∀ i, i < n → f i = g i) : packNat w f n = packNat w g n := by
  induction n with
  | zero => rfl
  | succ n ih => rw [packNat, packNat, ih fun i hi => h i (by omega), h n (by omega)]

theorem foldUpTo_succ {α : Type} (n : Nat) (f : α → Nat → α) (a : α) : foldUpTo (n + 1) f a = f (foldUpTo n f a) n := by
  simp [foldUpTo, List.range_succ]

/-- The elements of one lane, and its generator after them. -/
theorem laneElems_eq (sr : Bool) (i n w : Nat) (f : Nat → Nat → Nat) (bank : Sparse W32) :
    (laneElems sr i n w f bank).1 = packNat w (fun j => f (i * n + j) (if sr then drawOf bank i j else 0) % 2 ^ w) n
    ∧ (∀ k, k ≠ i → sget 0 (laneElems sr i n w f bank).2 k = sget 0 bank k)
    ∧ sget 0 (laneElems sr i n w f bank).2 i = if sr then Nat.repeat srNext n (sget 0 bank i) else sget 0 bank i := by
  suffices h : ∀ m, ∃ b : Sparse W32,
      foldUpTo m (fun (acc : Nat × Sparse W32) j =>
        let (d, b) := if sr then srDraw acc.2 i else (0, acc.2)
        (acc.1 + (f (i * n + j) d % 2 ^ w) <<< (w * j), b)) (0, bank)
        = (packNat w (fun j => f (i * n + j) (if sr then drawOf bank i j else 0) % 2 ^ w) m, b)
      ∧ (∀ k, k ≠ i → sget 0 b k = sget 0 bank k)
      ∧ sget 0 b i = if sr then Nat.repeat srNext m (sget 0 bank i) else sget 0 bank i by
    obtain ⟨b, h1, h2, h3⟩ := h n
    unfold laneElems
    rw [h1]
    exact ⟨rfl, h2, h3⟩
  intro m
  induction m with
  | zero => exact ⟨bank, rfl, fun _ _ => rfl, by cases sr <;> rfl⟩
  | succ m ih =>
    obtain ⟨b, h1, h2, h3⟩ := ih
    rw [foldUpTo_succ, h1]
    cases sr with
    | false =>
      simp only [Bool.false_eq_true, if_false] at h3 ⊢
      exact ⟨b, by rw [packNat, Nat.shiftLeft_eq], h2, h3⟩
    | true =>
      simp only [if_true] at h3 ⊢
      simp only [srDraw, h3]
      exact ⟨_, by rw [packNat, Nat.shiftLeft_eq]; rfl, fun k hk => by rw [sget_sset_ne 0 _ _ hk]; exact h2 k hk,
        by rw [sget_sset_self]; rfl⟩

/-- A field of one lane is a field of the whole register. -/
theorem lane_field (w n : Nat) (hw : w * n = 32) (y e : Nat) (hn : 0 < n) :
    y / 2 ^ (32 * (e / n)) % 2 ^ 32 / 2 ^ (w * (e % n)) % 2 ^ w = y / 2 ^ (w * e) % 2 ^ w := by
  have hm : e % n < n := Nat.mod_lt _ hn
  have hsplit : w * e = 32 * (e / n) + w * (e % n) := by
    conv => lhs; rw [← Nat.div_add_mod e n]
    rw [Nat.mul_add, ← Nat.mul_assoc, hw]
  rw [hsplit, Nat.pow_add (2 : Nat) (32 * (e / n)), ← Nat.div_div_eq_div_mul]
  generalize y / 2 ^ (32 * (e / n)) = z
  obtain ⟨d, hd⟩ : ∃ d, n = e % n + 1 + d := ⟨n - (e % n + 1), by omega⟩
  have h32 : 32 = w * (e % n) + (w + w * d) := by
    rw [← hw]; conv => lhs; rw [hd]
    rw [Nat.mul_add, Nat.mul_add, Nat.mul_one, Nat.add_assoc]
  have : (2 : Nat) ^ 32 = 2 ^ (w * (e % n)) * (2 ^ w * 2 ^ (w * d)) := by
    rw [← Nat.pow_add, ← Nat.pow_add, ← h32]
  rw [this, Nat.mod_mul_right_div_self, Nat.mod_mul_right_mod]

/-- A field of the lanes packed together. -/
theorem elem_packLanes (w n : Nat) (hw : w * n = 32) (x : Nat → Nat) (h : ∀ i, i < 64 → x i < 2 ^ 32) (e : Nat) (he : e < 64 * n) :
    elem (BitVec.ofNat 2048 (packNat 32 x 64)) w e = x (e / n) / 2 ^ (w * (e % n)) % 2 ^ w := by
  have hn : 0 < n := Nat.pos_of_ne_zero fun h => by subst h; omega
  obtain ⟨N, hN⟩ : ∃ N, N = 64 := ⟨64, rfl⟩
  have hi : e / n < N := by subst hN; exact Nat.div_lt_of_lt_mul (by rwa [Nat.mul_comm] at he)
  have hlt := packNat_lt (w := 32) (f := x) N (hN ▸ h)
  have hx := packNat_field (w := 32) (f := x) (hN ▸ h) hi
  rw [← hN]
  generalize packNat 32 x N = y at hlt hx
  have h2048 : 32 * N = 2048 := by subst hN; rfl
  rw [h2048] at hlt
  unfold elem
  rw [BitVec.toNat_ofNat, Nat.mod_eq_of_lt hlt, Nat.shiftRight_eq_div_pow, ← hx, lane_field w n hw y e hn]

/-- The lane loop: the elements of its vector, and the generators after it. -/
theorem mapLanes_eq (sr : Bool) (g : W64) (w n : Nat) (hw : w * n = 32) (old : Vec) (bank : Sparse W32) (f : Nat → Nat → Nat) :
    (∀ e, e < 64 * n → elem (mapLanes sr g w old bank f).1 w e =
      if bit g (e / n) then f e (if sr then drawOf bank (e / n) (e % n) else 0) % 2 ^ w else elem old w e)
    ∧ ∀ i, i < 64 → sget 0 (mapLanes sr g w old bank f).2 i =
      if sr && bit g i then Nat.repeat srNext n (sget 0 bank i) else sget 0 bank i := by
  have hn : 32 / w = n := by
    have : 0 < w := Nat.pos_of_ne_zero fun h => by subst h; omega
    rw [← hw, Nat.mul_div_cancel_left _ this]
  let x := fun i => if bit g i then packNat w (fun j => f (i * n + j) (if sr then drawOf bank i j else 0) % 2 ^ w) n else lane old i
  have hx : ∀ i, i < 64 → x i < 2 ^ 32 := by
    intro i _
    simp only [x]
    split
    · have := packNat_lt (w := w) (f := fun j => f (i * n + j) (if sr then drawOf bank i j else 0) % 2 ^ w) n
        fun j _ => Nat.mod_lt _ (Nat.two_pow_pos _)
      rwa [hw] at this
    · exact Nat.mod_lt _ (Nat.two_pow_pos _)
  have h : ∀ m, ∃ b : Sparse W32,
      foldUpTo m (fun (acc : Nat × Sparse W32) i =>
        let (x, b) := if bit g i then laneElems sr i (32 / w) w f acc.2 else (lane old i, acc.2)
        (acc.1 + x <<< (32 * i), b)) (0, bank) = (packNat 32 x m, b)
      ∧ ∀ i, sget 0 b i = if decide (i < m) && (sr && bit g i) then Nat.repeat srNext n (sget 0 bank i) else sget 0 bank i := by
    intro m
    induction m with
    | zero => exact ⟨bank, rfl, fun i => by simp⟩
    | succ m ih =>
      obtain ⟨b, h1, h2⟩ := ih
      rw [foldUpTo_succ, h1]
      have hm := h2 m
      simp only [Nat.lt_irrefl, decide_false, Bool.false_and, Bool.false_eq_true, if_false] at hm
      cases hg : bit g m with
      | false =>
        simp only [Bool.false_eq_true, if_false]
        refine ⟨b, by rw [packNat, Nat.shiftLeft_eq]; simp [x, hg], fun i => ?_⟩
        rw [h2 i]
        by_cases him : i = m
        · subst him; simp [hg]
        · have : i < m + 1 ↔ i < m := by omega
          simp [this]
      | true =>
        obtain ⟨e1, e2, e3⟩ := laneElems_eq sr m n w f b
        simp only [if_true, hn]
        have hd : ∀ j, drawOf b m j = drawOf bank m j := fun j => by simp only [drawOf, hm]
        simp only [hd] at e1
        refine ⟨(laneElems sr m n w f b).2, by rw [packNat, Nat.shiftLeft_eq, e1]; simp [x, hg], fun i => ?_⟩
        by_cases him : i = m
        · subst him; rw [e3, hm]; cases sr <;> simp [hg]
        · rw [e2 i him, h2 i]
          have : i < m + 1 ↔ i < m := by omega
          simp [this]
  obtain ⟨b, h1, h2⟩ := h 64
  unfold mapLanes
  rw [h1]
  refine ⟨fun e he => ?_, fun i hi => ?_⟩
  · rw [elem_packLanes w n hw x hx e he]
    have hpos : 0 < n := Nat.pos_of_ne_zero fun h => by subst h; omega
    simp only [x]
    split
    · rw [packNat_field (fun j _ => Nat.mod_lt _ (Nat.two_pow_pos _)) (Nat.mod_lt _ hpos)]
      rw [Nat.mul_comm, Nat.div_add_mod]
    · simp only [lane, elem, Nat.shiftRight_eq_div_pow]; exact lane_field w n hw old.toNat e hpos
  · rw [h2 i]; simp [hi]

end Sys2Proof.Machine
end

