-- ==== Sys2Proof/Laws/Memory.lean ====
section
/-! SUPPORT. Every operation on committed memory keeps its canonical form, and changes only what it names. -/

namespace Sys2Proof.Machine

/-- What a counted loop keeps, if each turn keeps it. -/
theorem foldUpTo_keeps {α : Type} (P : α → Prop) (n : Nat) (f : α → Nat → α) (x : α) (h0 : P x) (h : ∀ y i, P y → P (f y i)) :
    P (foldUpTo n f x) := by
  unfold foldUpTo
  induction List.range n generalizing x with
  | nil => exact h0
  | cons a l ih => exact ih _ (h _ _ h0)

theorem Mem.wf_reset : State.reset.mem.wf = true := rfl

theorem Mem.wf_setByte (m : Mem) (loc : Nat) (b : Byte) (h : m.wf = true) : (m.setByte loc b).wf = true :=
  swf_sset 0 m.bytes loc b h

theorem Mem.setPoison_bytes (m : Mem) (i : Nat) (p : Bool) : (m.setPoison i p).bytes = m.bytes := rfl

/-- A masked write of a line replaces its bytes, changes the marks of its sectors, and nothing else. -/
theorem Mem.writeLine_frame (m : Mem) (line : Nat) (mask : LineMask) (data : LineData) (p : BitVec 4) :
    m.writeLine line mask data p =
      { m with bytes := (m.writeLine line mask data p).bytes, poison := (m.writeLine line mask data p).poison } := by
  unfold Mem.writeLine
  refine foldUpTo_keeps (fun x : Mem => x = { m with bytes := x.bytes, poison := x.poison }) 4 _ _ rfl ?_
  intro y i h
  split
  · exact h
  · simp only [Mem.setPoison]; conv => lhs; rw [h]

theorem Mem.writeLine_bytes (m : Mem) (line : Nat) (mask : LineMask) (data : LineData) (p : BitVec 4) :
    (m.writeLine line mask data p).bytes =
      sreplace 0 m.bytes (128 * line) ((List.range 128).map fun i => byteAt (mergeLine (m.lineData line) data mask) i) := by
  unfold Mem.writeLine
  refine foldUpTo_keeps (fun x : Mem => x.bytes = _) 4 _ _ rfl ?_
  intro y i h
  split
  · exact h
  · exact h

/-- A masked write of a line keeps the canonical form. -/
theorem Mem.wf_writeLine (m : Mem) (line : Nat) (mask : LineMask) (data : LineData) (p : BitVec 4) (h : m.wf = true) :
    (m.writeLine line mask data p).wf = true := by
  simp only [Mem.wf, Mem.writeLine_bytes]
  exact swf_sreplace 0 m.bytes _ _ h

/-- Placing an instruction keeps the canonical form. -/
theorem Mem.wf_placed (m : Mem) (ctag : W16) (bs : List Byte) (h : m.wf = true) : (m.placed ctag bs).wf = true := by
  simp only [Mem.wf, Mem.placed]
  exact foldUpTo_keeps (fun x => swf 0 x = true) _ _ _ h fun y i hy => swf_sset 0 y _ _ hy

/-- The step's placement of an instruction keeps the canonical form. -/
theorem State.wf_withFetchWord (s : State) (n w : Nat) (h : s.mem.wf = true) : (s.withFetchWord n w).mem.wf = true :=
  Mem.wf_placed s.mem _ _ h

/-- Resets keep the canonical form (R465). -/
theorem State.wf_warm (s : State) (h : s.mem.wf = true) : s.warm.mem.wf = true := h

theorem State.wf_cold (s : State) : s.cold.mem.wf = true := rfl

end Sys2Proof.Machine
end

