-- ==== Sys2Proof/Laws/Words.lean ====
section
/-! SUPPORT. Words that issue: cores and streams under updates, what sending a result, a charge and the retirement of a word do, and
the frame of a word that sends its result to a register. -/

namespace Sys2Proof.Machine

/-! ## Cores, clusters, streams -/

@[simp] theorem State.core_updCore_self (s : State) (c : Nat) (f : Core → Core) : (s.updCore c f).core c = f (s.core c) :=
  sget_sinsert_self _ _ _ _

theorem State.core_updCore_ne (s : State) {c d : Nat} (f : Core → Core) (h : d ≠ c) : (s.updCore c f).core d = s.core d :=
  sget_sinsert_ne _ _ _ h

@[simp] theorem State.cluster_updCluster_self (s : State) (k : Nat) (f : Cluster → Cluster) :
    (s.updCluster k f).cluster k = f (s.cluster k) := sget_sinsert_self _ _ _ _

theorem State.cluster_updCluster_ne (s : State) {k j : Nat} (f : Cluster → Cluster) (h : j ≠ k) :
    (s.updCluster k f).cluster j = s.cluster j := sget_sinsert_ne _ _ _ h

@[simp] theorem State.core_updCluster (s : State) (k c : Nat) (f : Cluster → Cluster) : (s.updCluster k f).core c = s.core c := rfl
@[simp] theorem State.cluster_updCore (s : State) (k c : Nat) (f : Core → Core) : (s.updCore c f).cluster k = s.cluster k := rfl
@[simp] theorem State.core_updMem (s : State) (c : Nat) (f : Mem → Mem) : (s.updMem f).core c = s.core c := rfl

@[simp] theorem Core.strm_setStrm_self (k : Core) (e : StreamId) (t : Stream) : (k.setStrm e t).strm e = t := by cases e <;> rfl

theorem Core.strm_setStrm_ne (k : Core) {e d : StreamId} (t : Stream) (h : d ≠ e) : (k.setStrm e t).strm d = k.strm d := by
  cases e <;> cases d <;> first | rfl | exact absurd rfl h

@[simp] theorem Core.setStrm_strm (k : Core) (e : StreamId) : k.setStrm e (k.strm e) = k := by cases e <;> rfl

@[simp] theorem Core.setStrm_setStrm (k : Core) (e : StreamId) (t u : Stream) : (k.setStrm e t).setStrm e u = k.setStrm e u := by
  cases e <;> rfl

/-- Changing a stream is replacing it. -/
@[simp] theorem Core.updStrm_eq (k : Core) (e : StreamId) (f : Stream → Stream) : k.updStrm e f = k.setStrm e (f (k.strm e)) := rfl

/-! ## WARN, charges, results -/

@[simp] theorem State.core_charge (s : State) (c d : Nat) (x : Option (Nat × Nat)) : (s.charge c x).core d = s.core d := by
  cases x <;> rfl

@[simp] theorem State.pend_warn (s : State) (w : W64) (c : Nat) : ((s.warn w).core c).pend = (s.core c).pend := by
  by_cases h : c = s.cur.core
  · subst h; simp [State.warn, State.updCurStrm, State.updStrm]
  · simp [State.warn, State.updCurStrm, State.updStrm, State.core_updCore_ne _ _ h]

@[simp] theorem State.pend_retire (s : State) (o : Nat) (t : Tpl) (a : Bool) (br : Branch) (rot : Bool) (c : Nat) :
    ((s.retire o t a br rot).core c).pend = (s.core c).pend := by
  by_cases h : c = s.cur.core
  · subst h; cases a <;> simp [State.retire, State.updCur, State.warn, State.updCurStrm, State.updStrm]
  · cases a <;> simp [State.retire, State.updCur, State.warn, State.updCurStrm, State.updStrm, State.core_updCore_ne _ _ h]

@[simp] theorem State.sr_retire (s : State) (o : Nat) (t : Tpl) (a : Bool) (br : Branch) (rot : Bool) (c : Nat) :
    ((s.retire o t a br rot).core c).sr = (s.core c).sr := by
  by_cases h : c = s.cur.core
  · subst h; cases a <;> simp [State.retire, State.updCur, State.warn, State.updCurStrm, State.updStrm]
  · cases a <;> simp [State.retire, State.updCur, State.warn, State.updCurStrm, State.updStrm, State.core_updCore_ne _ _ h]

@[simp] theorem State.mx_retire (s : State) (o : Nat) (t : Tpl) (a : Bool) (br : Branch) (rot : Bool) (c : Nat) :
    ((s.retire o t a br rot).core c).mx = (s.core c).mx := by
  by_cases h : c = s.cur.core
  · subst h; cases a <;> simp [State.retire, State.updCur, State.warn, State.updCurStrm, State.updStrm]
  · cases a <;> simp [State.retire, State.updCur, State.warn, State.updCurStrm, State.updStrm, State.core_updCore_ne _ _ h]

@[simp] theorem State.cx_retire (s : State) (o : Nat) (t : Tpl) (a : Bool) (br : Branch) (rot : Bool) (c : Nat) :
    ((s.retire o t a br rot).core c).cx = (s.core c).cx := by
  by_cases h : c = s.cur.core
  · subst h; cases a <;> simp [State.retire, State.updCur, State.warn, State.updCurStrm, State.updStrm]
  · cases a <;> simp [State.retire, State.updCur, State.warn, State.updCurStrm, State.updStrm, State.core_updCore_ne _ _ h]

@[simp] theorem State.memq_retire (s : State) (o : Nat) (t : Tpl) (a : Bool) (br : Branch) (rot : Bool) (c : Nat) :
    ((s.retire o t a br rot).core c).memq = (s.core c).memq := by
  by_cases h : c = s.cur.core
  · subst h; cases a <;> simp [State.retire, State.updCur, State.warn, State.updCurStrm, State.updStrm]
  · cases a <;> simp [State.retire, State.updCur, State.warn, State.updCurStrm, State.updStrm, State.core_updCore_ne _ _ h]

@[simp] theorem State.tilesOut_retire (s : State) (o : Nat) (t : Tpl) (a : Bool) (br : Branch) (rot : Bool) (c : Nat) :
    ((s.retire o t a br rot).core c).tilesOut = (s.core c).tilesOut := by
  by_cases h : c = s.cur.core
  · subst h; cases a <;> simp [State.retire, State.updCur, State.warn, State.updCurStrm, State.updStrm]
  · cases a <;> simp [State.retire, State.updCur, State.warn, State.updCurStrm, State.updStrm, State.core_updCore_ne _ _ h]

@[simp] theorem State.ranges_retire (s : State) (o : Nat) (t : Tpl) (a : Bool) (br : Branch) (rot : Bool) (c : Nat) :
    ((s.retire o t a br rot).core c).ranges = (s.core c).ranges := by
  by_cases h : c = s.cur.core
  · subst h; cases a <;> simp [State.retire, State.updCur, State.warn, State.updCurStrm, State.updStrm]
  · cases a <;> simp [State.retire, State.updCur, State.warn, State.updCurStrm, State.updStrm, State.core_updCore_ne _ _ h]

@[simp] theorem State.fmtqNew_retire (s : State) (o : Nat) (t : Tpl) (a : Bool) (br : Branch) (rot : Bool) (c : Nat) :
    ((s.retire o t a br rot).core c).fmtqNew = (s.core c).fmtqNew := by
  by_cases h : c = s.cur.core
  · subst h; cases a <;> simp [State.retire, State.updCur, State.warn, State.updCurStrm, State.updStrm]
  · cases a <;> simp [State.retire, State.updCur, State.warn, State.updCurStrm, State.updStrm, State.core_updCore_ne _ _ h]

@[simp] theorem State.ring0_retire (s : State) (o : Nat) (t : Tpl) (a : Bool) (br : Branch) (rot : Bool) (c : Nat) :
    ((s.retire o t a br rot).core c).ring0 = (s.core c).ring0 := by
  by_cases h : c = s.cur.core
  · subst h; cases a <;> simp [State.retire, State.updCur, State.warn, State.updCurStrm, State.updStrm]
  · cases a <;> simp [State.retire, State.updCur, State.warn, State.updCurStrm, State.updStrm, State.core_updCore_ne _ _ h]

@[simp] theorem State.ring1_retire (s : State) (o : Nat) (t : Tpl) (a : Bool) (br : Branch) (rot : Bool) (c : Nat) :
    ((s.retire o t a br rot).core c).ring1 = (s.core c).ring1 := by
  by_cases h : c = s.cur.core
  · subst h; cases a <;> simp [State.retire, State.updCur, State.warn, State.updCurStrm, State.updStrm]
  · cases a <;> simp [State.retire, State.updCur, State.warn, State.updCurStrm, State.updStrm, State.core_updCore_ne _ _ h]

@[simp] theorem State.range_retire (s : State) (o : Nat) (t : Tpl) (a : Bool) (br : Branch) (rot : Bool) (c : Nat) :
    ((s.retire o t a br rot).core c).range = (s.core c).range := by
  by_cases h : c = s.cur.core
  · subst h; cases a <;> simp [State.retire, State.updCur, State.warn, State.updCurStrm, State.updStrm]
  · cases a <;> simp [State.retire, State.updCur, State.warn, State.updCurStrm, State.updStrm, State.core_updCore_ne _ _ h]

@[simp] theorem State.tagsClr_retire (s : State) (o : Nat) (t : Tpl) (a : Bool) (br : Branch) (rot : Bool) (c : Nat) :
    ((s.retire o t a br rot).core c).tagsClr = (s.core c).tagsClr := by
  by_cases h : c = s.cur.core
  · subst h; cases a <;> simp [State.retire, State.updCur, State.warn, State.updCurStrm, State.updStrm]
  · cases a <;> simp [State.retire, State.updCur, State.warn, State.updCurStrm, State.updStrm, State.core_updCore_ne _ _ h]

@[simp] theorem State.tagSets_retire (s : State) (o : Nat) (t : Tpl) (a : Bool) (br : Branch) (rot : Bool) (c : Nat) :
    ((s.retire o t a br rot).core c).tagSets = (s.core c).tagSets := by
  by_cases h : c = s.cur.core
  · subst h; cases a <;> simp [State.retire, State.updCur, State.warn, State.updCurStrm, State.updStrm]
  · cases a <;> simp [State.retire, State.updCur, State.warn, State.updCurStrm, State.updStrm, State.core_updCore_ne _ _ h]

@[simp] theorem State.job_retire (s : State) (o : Nat) (t : Tpl) (a : Bool) (br : Branch) (rot : Bool) (c : Nat) :
    ((s.retire o t a br rot).core c).job = (s.core c).job := by
  by_cases h : c = s.cur.core
  · subst h; cases a <;> simp [State.retire, State.updCur, State.warn, State.updCurStrm, State.updStrm]
  · cases a <;> simp [State.retire, State.updCur, State.warn, State.updCurStrm, State.updStrm, State.core_updCore_ne _ _ h]

@[simp] theorem State.issuing_retire (s : State) (o : Nat) (t : Tpl) (a : Bool) (br : Branch) (rot : Bool) (c : Nat) :
    ((s.retire o t a br rot).core c).issuing = (s.core c).issuing := by
  by_cases h : c = s.cur.core
  · subst h; cases a <;> simp [State.retire, State.updCur, State.warn, State.updCurStrm, State.updStrm]
  · cases a <;> simp [State.retire, State.updCur, State.warn, State.updCurStrm, State.updStrm, State.core_updCore_ne _ _ h]

@[simp] theorem State.tags_retire (s : State) (o : Nat) (t : Tpl) (a : Bool) (br : Branch) (rot : Bool) (c : Nat) :
    ((s.retire o t a br rot).core c).tags = (s.core c).tags := by
  by_cases h : c = s.cur.core
  · subst h; cases a <;> simp [State.retire, State.updCur, State.warn, State.updCurStrm, State.updStrm]
  · cases a <;> simp [State.retire, State.updCur, State.warn, State.updCurStrm, State.updStrm, State.core_updCore_ne _ _ h]

@[simp] theorem State.vcyc_retire (s : State) (o : Nat) (t : Tpl) (a : Bool) (br : Branch) (rot : Bool) (c : Nat) :
    ((s.retire o t a br rot).core c).vcyc = (s.core c).vcyc := by
  by_cases h : c = s.cur.core
  · subst h; cases a <;> simp [State.retire, State.updCur, State.warn, State.updCurStrm, State.updStrm]
  · cases a <;> simp [State.retire, State.updCur, State.warn, State.updCurStrm, State.updStrm, State.core_updCore_ne _ _ h]

@[simp] theorem State.hm_retire (s : State) (o : Nat) (t : Tpl) (a : Bool) (br : Branch) (rot : Bool) (c : Nat) :
    ((s.retire o t a br rot).core c).hm = (s.core c).hm := by
  by_cases h : c = s.cur.core
  · subst h; cases a <;> simp [State.retire, State.updCur, State.warn, State.updCurStrm, State.updStrm]
  · cases a <;> simp [State.retire, State.updCur, State.warn, State.updCurStrm, State.updStrm, State.core_updCore_ne _ _ h]

@[simp] theorem State.cur_retire (s : State) (o : Nat) (t : Tpl) (a : Bool) (br : Branch) (rot : Bool) :
    (s.retire o t a br rot).cur = s.cur := by cases a <;> simp [State.retire]

@[simp] theorem State.cur_land (s : State) (d : BitVec 8) (lat : Nat) (v : Val) : (s.land d lat v).cur = s.cur := by
  unfold State.land; split <;> simp

/-- What sending a result does to the pending results of the issuing core. -/
theorem State.pend_land (s : State) (d : BitVec 8) (lat : Nat) (v : Val) :
    ((s.land d lat v).core s.cur.core).pend = s.curCore.pend ++ s.sends d lat v := by
  unfold State.land State.sends
  cases h : bindDst s.curStrm s.cur.strm d.toNat with
  | none => simp [State.curCore]
  | some x => simp [State.updCur, Core.addPend, State.curCore]

/-- A word that acts: its effect, then its retirement. -/
theorem issue_acts {o : Nat} {t : Tpl} {s : State} (h : s.acts o t) (body : State → State) :
    issue o t body s = .next ((body s).retire o t true .seq false) := by
  simp [issue, h.1, h.2]

/-- A branch that acts. -/
theorem issueBranch_acts {o : Nat} {t : Tpl} {s : State} (h : s.acts o t) (br : Branch) (rot : Bool) (body : State → State) :
    issueBranch o t br rot body s = .next ((body s).retire o t true br rot) := by
  simp [issueBranch, h.1, h.2]

/-! ## The frame of a word -/

/-- From `s` to `u` only the pending results, the generators and the WARN bits of the issuing stream have changed: what the effects of
the words that only write registers change. -/
structure EffectFrame (s u : State) : Prop where
  rest : u = { s with cores := u.cores }
  otherCores : ∀ c, c ≠ s.cur.core → u.core c = s.core c
  core : u.core s.cur.core = { s.curCore.setStrm s.cur.strm ((u.core s.cur.core).strm s.cur.strm) with
    pend := (u.core s.cur.core).pend, sr := (u.core s.cur.core).sr }
  stream : (u.core s.cur.core).strm s.cur.strm = { s.curStrm with warnSet := ((u.core s.cur.core).strm s.cur.strm).warnSet }

theorem EffectFrame.refl (s : State) : EffectFrame s s := ⟨rfl, fun _ _ => rfl, by simp [State.curCore], rfl⟩

theorem EffectFrame.cur {s u : State} (h : EffectFrame s u) : u.cur = s.cur := by rw [h.rest]

theorem EffectFrame.clusters {s u : State} (h : EffectFrame s u) : u.clusters = s.clusters := by rw [h.rest]

theorem EffectFrame.trans {s u v : State} (h : EffectFrame s u) (g : EffectFrame u v) : EffectFrame s v := by
  have hc := h.cur
  refine ⟨?_, ?_, ?_, ?_⟩
  · rw [g.rest, h.rest]
  · intro c hne; rw [g.otherCores c (by rw [hc]; exact hne), h.otherCores c hne]
  · have h1 := g.core; rw [hc] at h1
    rw [h1]; simp only [State.curCore, hc]; rw [h.core]
    cases s.cur.strm <;> rfl
  · have h1 := g.stream; rw [hc] at h1
    rw [h1]; simp only [State.curStrm, State.curCore, hc]; rw [h.stream]
    simp only [State.curStrm, State.curCore]

theorem EffectFrame.updCur (s : State) (f : Core → Core)
    (hc : f s.curCore = { s.curCore.setStrm s.cur.strm ((f s.curCore).strm s.cur.strm) with
      pend := (f s.curCore).pend, sr := (f s.curCore).sr })
    (hs : (f s.curCore).strm s.cur.strm = { s.curStrm with warnSet := ((f s.curCore).strm s.cur.strm).warnSet }) :
    EffectFrame s (s.updCur f) := by
  refine ⟨rfl, fun c h => State.core_updCore_ne s f h, ?_, ?_⟩
  · simpa [State.updCur, State.curCore] using hc
  · simpa [State.updCur, State.curCore] using hs

theorem EffectFrame.addPend (s : State) (e : StreamId) (d : Dst) (lat : Nat) (v : Val) :
    EffectFrame s (s.updCur fun k => k.addPend e d lat v) :=
  EffectFrame.updCur s _ (by cases s.cur.strm <;> rfl) (by simp only [State.curStrm, Core.addPend]; cases s.cur.strm <;> rfl)

theorem EffectFrame.land (s : State) (d : BitVec 8) (lat : Nat) (v : Val) : EffectFrame s (s.land d lat v) := by
  unfold State.land
  cases h : bindDst s.curStrm s.cur.strm d.toNat with
  | none => exact .refl s
  | some x => exact .addPend ..

theorem EffectFrame.warn (s : State) (w : W64) : EffectFrame s (s.warn w) :=
  EffectFrame.updCur s (fun k => k.updStrm s.cur.strm fun st => { st with warnSet := st.warnSet ||| w })
    (by cases s.cur.strm <;> rfl) (by simp only [State.curStrm, Core.updStrm]; cases s.cur.strm <;> rfl)

theorem EffectFrame.setSr (s : State) (b : Sparse W32) : EffectFrame s (s.updCur fun k => { k with sr := b }) :=
  EffectFrame.updCur s _ (by cases s.cur.strm <;> rfl) (by simp only [State.curStrm]; cases s.cur.strm <;> rfl)

/-- What a stream keeps when its word goes on. -/
theorem Stream.advance_keeps (st : Stream) (cur : Cur) (n : Nat) (br : Branch) (rot ann : Bool) :
    let r := (st.writeBack cur).advance n br rot ann
    r = { st with pc := r.pc, resume := r.resume, redirects := r.redirects, annul := r.annul, rot := r.rot, reps := r.reps
                  rvb := r.rvb, rpb := r.rpb, form := r.form, table := r.table, stage := r.stage } := rfl

/-- The retirement of a word changes only what its frame names. -/
theorem EffectFrame.goOn {s u : State} (h : EffectFrame s u) (x : Option (Nat × Nat)) (br : Branch) (rot : Bool) (n : Nat) (cur : Cur) :
    WordFrame s ((u.charge s.cur.core x).updCur fun k =>
      { k.updStrm s.cur.strm fun st => (st.writeBack cur).advance n br rot false with issueOrd := k.issueOrd + 1, issued := true }) := by
  have hc : (u.charge s.cur.core x).cur = s.cur := by rw [← h.cur]; cases x <;> rfl
  have hcl : ∀ k, k ≠ clusterOf s.cur.core → (u.charge s.cur.core x).cluster k = s.cluster k := by
    intro k hk
    have : u.cluster k = s.cluster k := by simp [State.cluster, h.clusters]
    cases x with
    | none => exact this
    | some p => rw [← this]; exact State.cluster_updCluster_ne _ _ hk
  refine ⟨?_, ?_, ?_, ?_, ?_, ?_⟩
  · have hr := h.rest
    generalize u.cores = cs at hr
    subst hr
    cases x <;> rfl
  · intro c hne
    simp only [State.updCur, hc]
    rw [State.core_updCore_ne _ _ hne, State.core_charge, h.otherCores c hne]
  · intro k hk; simpa [State.updCur] using hcl k hk
  · have : u.cluster (clusterOf s.cur.core) = s.cluster (clusterOf s.cur.core) := by simp [State.cluster, h.clusters]
    rw [← this]
    cases x with
    | none => simp [State.updCur, State.charge]
    | some p => simp [State.updCur, State.charge]
  · simp only [State.updCur, hc, State.core_updCore_self, State.core_charge]
    rw [h.core]
    cases s.cur.strm <;> rfl
  · simp only [State.updCur, hc, State.core_updCore_self, State.core_charge]
    have hs := h.stream
    generalize u.core s.cur.core = k at hs ⊢
    have : (k.updStrm s.cur.strm fun st => (st.writeBack cur).advance n br rot false).strm s.cur.strm
        = ((k.strm s.cur.strm).writeBack cur).advance n br rot false := by simp [Core.updStrm]
    have hgo : ∀ (k' : Core) (i : Nat), ({ k' with issueOrd := i, issued := true } : Core).strm s.cur.strm = k'.strm s.cur.strm := by
      intro k' i; cases s.cur.strm <;> rfl
    rw [hgo, this, Stream.advance_keeps (k.strm s.cur.strm) cur n br rot false]
    rw [hs]

/-- The retirement of a word changes only what its frame names. -/
theorem EffectFrame.retire {s u : State} (h : EffectFrame s u) (o : Nat) (t : Tpl) (a : Bool) (br : Branch) (rot : Bool) :
    WordFrame s (u.retire o t a br rot) := by
  have hu : u.cur = s.cur := h.cur
  cases a with
  | false =>
    have := h.goOn (energyClass o t) br rot s.cur.words s.cur
    simpa [State.retire, hu] using this
  | true =>
    have := (h.trans (.warn u (tplWarns o t ||| u.cur.patchWarn))).goOn (energyClass o t) br rot s.cur.words s.cur
    simpa [State.retire, hu] using this

theorem Core.strm_issued (k : Core) (e : StreamId) (i : Nat) :
    ({ k with issueOrd := i, issued := true } : Core).strm e = k.strm e := by cases e <;> rfl

/-- The issuing stream once its word has retired. -/
theorem State.strm_retire (v : State) (o : Nat) (t : Tpl) (a : Bool) (br : Branch) (rot : Bool) :
    ((v.retire o t a br rot).core v.cur.core).strm v.cur.strm =
      (({ v.curStrm with warnSet := if a then v.curStrm.warnSet ||| (tplWarns o t ||| v.cur.patchWarn) else v.curStrm.warnSet } :
        Stream).writeBack v.cur).advance v.cur.words br rot false := by
  have key : ∀ (w : State) (f : Stream → Stream) (hw : w.cur = v.cur) (x : Option (Nat × Nat)),
      (((w.charge v.cur.core x).updCur fun k =>
        { k.updStrm v.cur.strm f with issueOrd := k.issueOrd + 1, issued := true }).core v.cur.core).strm v.cur.strm
      = f ((w.core v.cur.core).strm v.cur.strm) := by
    intro w f hw x
    have : (w.charge v.cur.core x).cur.core = v.cur.core := by rw [State.charge_cur, hw]
    simp only [State.updCur, this, State.core_updCore_self, State.core_charge]
    exact (Core.strm_issued _ _ _).trans (by simp)
  cases a
  · simp only [State.retire, State.charge_cur]
    exact (key v _ rfl _).trans (by simp [State.curStrm, State.curCore])
  · simp only [State.retire, State.charge_cur, State.warn_cur, if_true]
    refine (key (v.warn (tplWarns o t ||| v.cur.patchWarn)) _ rfl _).trans ?_
    simp [State.warn, State.updCurStrm, State.updStrm, State.curStrm, State.curCore]

/-! ## Words that act -/

/-- A word that acts, whose effect stays in the frame. -/
theorem does_issue {i : Tpl → Instr} {o : Nat} {body : Tpl → State → State} {P : Tpl → State → State → Prop}
    (h : ∀ t s, exec (i t) s = issue o t (body t) s) (hp : ∀ t s, P t s ((body t s).retire o t true .seq false)) : Does i o P :=
  fun t s ha => ⟨_, (h t s).trans (issue_acts ha _), hp t s⟩

theorem doesWhen_issue {i : Tpl → Instr} {o : Nat} {body : Tpl → State → State} {pre : Tpl → State → Prop}
    {P : Tpl → State → State → Prop} (h : ∀ t s, s.acts o t → pre t s → exec (i t) s = issue o t (body t) s)
    (hp : ∀ t s, pre t s → P t s ((body t s).retire o t true .seq false)) : DoesWhen i o pre P :=
  fun t s ha hs => ⟨_, (h t s ha hs).trans (issue_acts ha _), hp t s hs⟩

/-- An effect that leaves `s'` within the frame, retired. -/
theorem Leaves.retire {s s' v : State} {l : List Pend} (h : EffectFrame s' v)
    (hp : (v.core s.cur.core).pend = s.curCore.pend ++ l) (hr : (v.core s.cur.core).sr = s.curCore.sr)
    (o : Nat) (t : Tpl) (a : Bool) (br : Branch) (rot : Bool) : Leaves s s' (v.retire o t a br rot) l :=
  ⟨h.retire .., by simpa [Gains] using hp, by simpa using hr⟩

/-- Sending a result leaves the generators alone. -/
theorem State.sr_land (s : State) (d : BitVec 8) (lat : Nat) (v : Val) (c : Nat) : ((s.land d lat v).core c).sr = (s.core c).sr := by
  unfold State.land
  cases bindDst s.curStrm s.cur.strm d.toNat with
  | none => rfl
  | some x =>
    by_cases h : c = s.cur.core
    · subst h; simp [State.updCur, Core.addPend]
    · simp [State.updCur, Core.addPend, State.core_updCore_ne _ _ h]

/-- A result sent in an effect that otherwise stays in the frame. -/
theorem sendsWord_land (o lat : Nat) (v : W64) (t : Tpl) (s : State) :
    SendsWord lat v t s ((s.landWord t.dst lat v).retire o t true .seq false) :=
  .retire (.land s t.dst lat (.word v)) (State.pend_land s t.dst lat _) (State.sr_land ..) ..

/-- A scalar word that acts sends its value. -/
theorem results_scalarOp {i : Tpl → Instr} {o lat : Nat} {f : Tpl → State → W64}
    (h : ∀ t s, exec (i t) s = scalarOp o lat t (f t) s) : Results i o lat f :=
  does_issue (body := fun t s => s.landWord t.dst lat (f t s)) h fun t s => sendsWord_land o lat (f t s) t s

/-- Two descriptions of one result. -/
theorem Results.congr {i : Tpl → Instr} {o lat : Nat} {f g : Tpl → State → W64} (h : Results i o lat f) (e : ∀ t s, f t s = g t s) :
    Results i o lat g := by
  have : f = g := by funext t s; exact e t s
  exact this ▸ h

end Sys2Proof.Machine
end

