-- ==== Sys2Proof/Laws/Vector.lean ====
section
/-! SUPPORT. Vector words: what a lane loop, a part of a register and a predicate result send. -/

namespace Sys2Proof.Machine

theorem Core.strm_setSr (k : Core) (b : Sparse W32) (e : StreamId) : ({ k with sr := b } : Core).strm e = k.strm e := by
  cases e <;> rfl

theorem State.sends_setSr (s : State) (b : Sparse W32) (d : BitVec 8) (lat : Nat) (v : Val) :
    (s.updCur fun k => { k with sr := b }).sends d lat v = s.sends d lat v := by
  unfold State.sends
  simp only [State.curStrm, State.curCore, State.updCur_cur]
  simp only [State.updCur, State.core_updCore_self, Core.strm_setSr]
  rfl

/-- A lane loop, retired. -/
theorem lanesSent_vecResult (o lat : Nat) (t : Tpl) (w n : Nat) (hw : w * n = 32) (f : Nat → Nat → Nat) (s : State) :
    LanesSent lat w (drawing o t) f t s ((vecResult o lat t w f s).retire o t true .seq false) := by
  obtain ⟨h1, h2⟩ := mapLanes_eq (drawing o t) (s.guard t) w n hw (s.vreg t.dst) s.curCore.sr f
  have hpos : 0 < w := Nat.pos_of_ne_zero fun h => by subst h; omega
  have hn : 32 / w = n := by rw [← hw, Nat.mul_div_cancel_left _ hpos]
  have h2048 : 2048 / w = 64 * n := by
    have : 2048 = w * (64 * n) := by rw [Nat.mul_left_comm, hw]
    rw [this, Nat.mul_div_cancel_left _ hpos]
  have hdiv : ∀ e, e * w / 32 = e / n := by
    intro e
    rw [← hw, Nat.mul_comm w n, Nat.mul_div_mul_right _ _ hpos]
  let s1 := s.updCur fun k => { k with sr := (mapLanes (drawing o t) (s.guard t) w (s.vreg t.dst) s.curCore.sr f).2 }
  let v := (mapLanes (drawing o t) (s.guard t) w (s.vreg t.dst) s.curCore.sr f).1
  have hv : vecResult o lat t w f s = s1.landVec t.dst lat v := rfl
  refine ⟨v, ?_, ?_, ?_, ?_⟩
  · have := State.pend_land s1 t.dst lat (.vector v)
    rw [hv]
    simp only [Gains, State.pend_retire, State.landVec]
    refine this.trans ?_
    rw [State.sends_setSr]
    simp [s1, State.updCur, State.curCore]
  · exact ((EffectFrame.setSr s _).trans (.land s1 t.dst lat (.vector v))).retire ..
  · intro e he
    rw [h2048] at he
    rw [hdiv, hn]
    exact h1 e he
  · intro i hi
    rw [hn, hv, State.sr_retire, State.landVec, State.sr_land]
    simp only [s1, State.updCur, State.core_updCore_self]
    exact h2 i hi

/-- The width of an element type divides a lane. -/
theorem vwidth_mul (ty : Nat) : vwidth ty * (32 / vwidth ty) = 32 := by
  unfold vwidth; split <;> rfl

/-- An element-wise word that acts. -/
theorem does_vecResult {i : Tpl → Instr} {o lat : Nat} {w : Tpl → Nat} {f : Tpl → State → Nat → Nat → Nat} {pre : Tpl → State → Prop}
    (h : ∀ t s, pre t s → exec (i t) s = issue o t (fun s => vecResult o lat t (w t) (f t s) s) s)
    (hw : ∀ t, w t * (32 / w t) = 32) :
    DoesWhen i o pre fun t s u => LanesSent lat (w t) (drawing o t) (f t s) t s u :=
  fun t s ha hp => ⟨_, (h t s hp).trans (issue_acts ha _), lanesSent_vecResult o lat t (w t) _ (hw t) (f t s) s⟩

end Sys2Proof.Machine
end

