-- ==== Sys2Proof/Machine/Gumel.lean ====
section
/-! DEFINITION. Gumel past its text: the values of expressions (R86), what the data directives emit (R87), and the words and the
template table that gumas makes of a stream's instructions (R88). Instructions come in as full templates. -/

namespace Sys2Proof.Machine

/-- The binary operators of an expression (R86). -/
inductive GumOp where
  | mul | div | rem | add | sub | shl | shr | and | xor | or
  deriving DecidableEq, Repr

/-- An expression, its precedence already resolved as in C (R86). -/
inductive GumExpr where
  | num (n : Nat)
  | sym (name : String)
  | neg (a : GumExpr)
  | not (a : GumExpr)
  | bin (op : GumOp) (a b : GumExpr)
  deriving DecidableEq, Repr

/-- An operator on two 64-bit values in two's complement; none is an assembly error (R86). -/
def gumApply (op : GumOp) (a b : W64) : Option W64 :=
  match op with
  | .mul => some (a * b)
  | .div => if b = 0 then none else some (BitVec.ofInt 64 (a.toInt.tdiv b.toInt))
  | .rem => if b = 0 then none else some (BitVec.ofInt 64 (a.toInt.tmod b.toInt))
  | .add => some (a + b)
  | .sub => some (a - b)
  | .shl => if b.toInt < 0 then none else some (if 64 ≤ b.toNat then 0 else a <<< b.toNat)
  | .shr => if b.toInt < 0 then none else some (a.sshiftRight (min b.toNat 64))
  | .and => some (a &&& b)
  | .xor => some (a ^^^ b)
  | .or => some (a ||| b)

/-- The value of an expression under the symbols; none is an assembly error (R86). -/
def GumExpr.eval (syms : String → Option W64) : GumExpr → Option W64
  | .num n => some (BitVec.ofNat 64 n)
  | .sym x => syms x
  | .neg a => (a.eval syms).map (- ·)
  | .not a => (a.eval syms).map (~~~ ·)
  | .bin op a b => (a.eval syms).bind fun x => (b.eval syms).bind fun y => gumApply op x y

/-- IMM of a branch at `addr` to the label at `target`: the signed distance in words (R86, R128). -/
def branchImm (target addr : W64) : W32 := ((target - addr).sshiftRight 2).setWidth 32

/-- A suffix with a field of its own (R85). -/
inductive GumSuffix where
  | n | rne | rtz | rup | rdn | sr | sat
  | core | clu | chip | dev | fab
  | rlx | acq | rel | ar
  deriving DecidableEq, Repr

/-- The field a suffix sets, on an instruction whose entry lists no suffix of its own by that name (R85). -/
def GumSuffix.set (x : GumSuffix) (w : W128) : W128 :=
  match x with
  | .n => putField w 112 1 1
  | .rne => putField w 72 3 0
  | .rtz => putField w 72 3 1
  | .rup => putField w 72 3 2
  | .rdn => putField w 72 3 3
  | .sr => putField w 72 3 4
  | .sat => putField w 71 1 1
  | .core => putField w 68 3 0
  | .clu => putField w 68 3 1
  | .chip => putField w 68 3 2
  | .dev => putField w 68 3 3
  | .fab => putField w 68 3 4
  | .rlx => putField w 66 2 0
  | .acq => putField w 66 2 1
  | .rel => putField w 66 2 2
  | .ar => putField w 66 2 3

/-- The order of the mnemonic, where no order suffix is written: 01 on `ld.acq` (0x095), 10 on `st.rel` (0x096) (R85). -/
def mnemonicOrder (opc : Nat) : Nat := if opc = 0x095 then 1 else if opc = 0x096 then 2 else 0

/-- What a data directive emits at offset `pos` of its section; none is an assembly error (R87). -/
inductive GumDatum where
  /-- `.byte`, `.half`, `.word`, `.dword`: the size and the expressions. -/
  | ints (size : Nat) (l : List GumExpr)
  /-- `.align n`. -/
  | align (n : Nat)
  /-- `.fmt`: the finished format word. -/
  | fmt (w : W64)
  /-- `.tile` with no operand, and the writes into that image: row, column, bytes. -/
  | tile (writes : List (Nat × Nat × List Byte))
  deriving DecidableEq, Repr

/-- Zeros up to a multiple of `n` bytes. -/
def gumPad (pos n : Nat) : List Byte := List.replicate (ceilDiv pos n * n - pos) 0

/-- The bytes of a data directive (R87). -/
def GumDatum.bytes (syms : String → Option W64) (pos : Nat) : GumDatum → Option (List Byte)
  | .ints size l => (l.mapM (GumExpr.eval syms)).map fun vs => vs.flatMap fun v => leBytes v.toNat size
  | .align n => some (gumPad pos (2 ^ n))
  | .fmt w => some (gumPad pos 8 ++ leBytes w.toNat 8)
  | .tile ws =>
    some (gumPad pos 64 ++ ws.foldl (fun (img : List Byte) (r, c, bs) =>
      (bs.zipIdx (64 * r + c)).foldl (fun img (b, i) => img.set i b) img) (List.replicate 4096 0))

/-- The bytes of a section's directives, from offset `pos` on (R87). -/
def sectionBytes (syms : String → Option W64) (pos : Nat) : List GumDatum → Option (List Byte)
  | [] => some []
  | d :: rest =>
    (d.bytes syms pos).bind fun b => (sectionBytes syms (pos + b.length) rest).map (b ++ ·)

/-- The keys of `.fmt`, as the codes of R114 and R115. -/
structure FmtKeys where
  afmt : Nat := 0
  bfmt : Nat := 0
  blk : Nat := 0
  ascale : Nat := 0
  bscale : Nat := 0
  tensor : Nat := 0
  xform : Nat := 0
  hsz : Nat := 0
  ainf : Nat := 0
  binf : Nat := 0
  dfmt : Nat := 0
  dinf : Nat := 0
  dsat : Nat := 0
  drnd : Nat := 0
  tfmt : Nat := 0
  tinf : Nat := 0
  tsat : Nat := 0
  trnd : Nat := 0
  tblk : Nat := 0
  tscale : Nat := 0
  deriving DecidableEq, Repr

/-- The format word of `.fmt`; a key left out is zero (R114, R117). -/
def fmtWordOf (k : FmtKeys) : W64 :=
  BitVec.ofNat 5 k.afmt ++ BitVec.ofNat 5 k.bfmt ++ BitVec.ofNat 2 k.blk ++ BitVec.ofNat 1 k.ascale
    ++ BitVec.ofNat 1 k.bscale ++ BitVec.ofNat 1 k.tensor ++ BitVec.ofNat 2 k.xform ++ BitVec.ofNat 1 k.hsz
    ++ BitVec.ofNat 1 k.ainf ++ BitVec.ofNat 1 k.binf ++ BitVec.ofNat 5 k.dfmt ++ BitVec.ofNat 1 k.dinf
    ++ BitVec.ofNat 1 k.dsat ++ BitVec.ofNat 3 k.drnd ++ BitVec.ofNat 5 k.tfmt ++ BitVec.ofNat 1 k.tinf
    ++ BitVec.ofNat 1 k.tsat ++ BitVec.ofNat 3 k.trnd ++ BitVec.ofNat 2 k.tblk ++ BitVec.ofNat 1 k.tscale
    ++ (0 : BitVec 21)

/-- The keys of `.launch`, with the addresses that the job fills in (R87). -/
structure LaunchKeys where
  restartable : Bool := false
  essential : Bool := false
  redundant : Bool := false
  fw : List Nat := []
  pt : List Nat := []
  grain : W64 := 0
  regsl : Nat := 0
  l1sl : Nat := 0
  ring0 : Nat := 0
  ring1 : Nat := 0
  entry : List W64 := []
  tt : List W64 := []
  ckpt : W64 := 0
  ckptN : W32 := 0
  /-- `argN`: number and value. -/
  args : List (Nat × W64) := []
  deriving DecidableEq, Repr

/-- The 256 bytes of the launch header that `.launch` statements build; no limit is checked (R24, R87). -/
def LaunchKeys.bytes (k : LaunchKeys) : List Byte :=
  let flag (b : Bool) (n : Nat) := if b then n else 0
  leBytes 1 2 ++ leBytes (flag k.restartable 1 + flag k.essential 2 + flag k.redundant 4) 2
    ++ leBytes (k.fw.countP (· ≠ 0)) 1 ++ leBytes k.regsl 1 ++ leBytes k.l1sl 1
    ++ leBytes (k.ring0 % 4 + k.ring1 % 4 * 4) 1
    ++ (List.range 6).flatMap (fun i => leBytes (k.fw.getD i 0) 1) ++ leBytes 0 2
    ++ (List.range 6).flatMap (fun i => leBytes (k.pt.getD i 0) 1) ++ leBytes 0 2
    ++ leBytes k.grain.toNat 8
    ++ (List.range 6).flatMap (fun i => leBytes (k.entry.getD i 0).toNat 8)
    ++ (List.range 6).flatMap (fun i => leBytes (k.tt.getD i 0).toNat 8)
    ++ leBytes k.ckpt.toNat 8 ++ leBytes k.ckptN.toNat 4 ++ leBytes 0 52
    ++ (List.range 8).flatMap (fun i =>
      leBytes (match k.args.reverse.find? (·.1 = i) with | some p => p.2.toNat | none => 0) 8)

/-- An item of `.ckpt` (R409), rotating names at RVB = RPB = 0. -/
inductive CkptItem where
  | s (lo hi : Nat)
  | v (lo hi : Nat)
  | p (lo hi : Nat)
  | sp (off len : Nat)
  deriving DecidableEq, Repr

/-- The mask of the registers `lo` to `hi`. -/
def runMask (lo hi : Nat) : Nat := if hi < lo then 0 else (2 ^ (hi + 1 - lo) - 1) * 2 ^ lo

/-- The 64 bytes of the table entry that `.ckpt` emits; none is an assembly error (R87, R409). -/
def ckptEntry (pc : W64) (strm : StreamId) (items : List CkptItem) : Option (List Byte) :=
  let mask (f : CkptItem → Nat) := items.foldl (fun m i => m ||| f i) 0
  let sps := items.filterMap fun | .sp off len => some (off, len) | _ => none
  if 4 < sps.length then none
  else some (leBytes pc.toNat 8
    ++ leBytes (mask fun | .s lo hi => runMask lo hi | _ => 0) 8
    ++ leBytes (mask fun | .v lo hi => runMask lo hi | _ => 0) 8
    ++ leBytes (mask fun | .p lo hi => runMask lo hi | _ => 0) 2
    ++ leBytes strm.code 1 ++ leBytes sps.length 1 ++ leBytes 0 4
    ++ (List.range 4).flatMap fun i => leBytes (sps.getD i (0, 0)).1 4 ++ leBytes (sps.getD i (0, 0)).2 4)

/-! ## The words of a stream (R88) -/

/-- A line of a stream's text section. -/
inductive GumLine where
  /-- An instruction, as its full template. -/
  | instr (w : W128)
  /-- `.template load n = instruction`. -/
  | load (n : Nat) (w : W128)
  /-- `.word`: a raw patch word. -/
  | raw (w : W32)
  deriving DecidableEq, Repr

/-- The templates of a stream as gumas keeps them: the initial table, and what each template holds at the
current line. -/
structure GumTable where
  init : Sparse W128 := []
  now : Sparse W128 := []
  deriving DecidableEq, Repr

/-- The value that field-select code `f` needs to reach the field of `want` (R73). -/
def amendValue (want : W128) (f : Nat) : Nat :=
  match f with
  | 0 => field want 104 8
  | 1 => field want 96 8
  | 2 => field want 88 8
  | 3 => field want 80 8
  | 4 | 12 => field want 32 16
  | 5 => field want 48 16
  | 6 => field want 0 16
  | 7 => field want 16 16
  | 8 => field want 104 8 * 256 + field want 96 8
  | 9 => field want 88 8 * 256 + field want 80 8
  | 10 => field want 75 5
  | 11 => field want 112 6
  | 13 => field want 16 14
  | 14 => field want 118 10
  | _ => 0

/-- The codes in the order gumas tries them: none, the override alone, each field, each field with the override. Code 12 goes before
codes 4 and 5, as the worked branch of R128 has it. -/
def amendTries (want : W128) : List (Nat × Nat) :=
  let h := 8 + field want 75 3
  let codes := [0, 1, 2, 3, 12, 4, 5, 6, 7, 8, 9, 10, 11, 13, 14]
  [(15, 0), (15, h)] ++ codes.map (·, 0) ++ codes.map (·, h)

/-- How one patch word amends `base` into `want`: field select, H and V (R73, R74, R88 rule 1). -/
def amendsTo (base want : W128) : Option (Nat × Nat × Nat) :=
  ((amendTries want).find? fun (f, h) => amend base f h (amendValue want f) = want).map
    fun (f, h) => (f, h, amendValue want f)

/-- The template with IMM zero, by which R88 rule 2 compares. -/
def zeroImm (w : W128) : W128 := putField w 32 32 0

/-- The words of one instruction and the table after it: the first rule of R88 that applies, none where no template is free. -/
def gumInstr (t : GumTable) (want : W128) : Option (List W32 × GumTable) :=
  match t.now.findSome? fun (n, b) => (amendsTo b want).map (n, ·) with
  | some (n, f, h, v) => some ([packPatch n 0 f h v], t)
  | none =>
    match t.now.find? fun (_, b) => zeroImm b = zeroImm want with
    | some (n, _) => some ([packPatch 62 3 0 0 n, want.extractLsb' 32 32], t)
    | none =>
      match (List.range 64).find? fun n => (sfind t.now n).isNone with
      | some n => some ([packPatch n 0 15 0 0], { init := sinsert t.init n want, now := sinsert t.now n want })
      | none => none

/-- The words of one line and the table after it (R76, R88). -/
def gumLine (t : GumTable) : GumLine → Option (List W32 × GumTable)
  | .instr w => gumInstr t w
  | .load n w => some (packPatch 63 3 0 0 (n % 64) :: tplWords w, { t with now := sinsert t.now (n % 64) w })
  | .raw w => some ([w], t)

/-- The words of a stream's lines and its table at the end. -/
def gumLines (t : GumTable) : List GumLine → Option (List W32 × GumTable)
  | [] => some ([], t)
  | l :: rest =>
    (gumLine t l).bind fun (ws, t') => (gumLines t' rest).map fun (ws', t'') => (ws ++ ws', t'')

/-- The text of a stream and its initial template table: the pinned templates stand from the start (R87, R88). -/
def gumas (pins : Sparse W128) (ls : List GumLine) : Option (List W32 × Sparse W128) :=
  (gumLines { init := pins, now := pins } ls).map fun (ws, t) => (ws, t.init)

/-- The TT image of a table: 1 KiB, or none where every template is zero and the TT field is zero (R66, R88). -/
def ttImage (t : Sparse W128) : Option (List Byte) :=
  if t.all (·.2 = 0) then none
  else some ((List.range 64).flatMap fun n => leBytes (sget 0 t n).toNat 16)

end Sys2Proof.Machine
end

