-- ==== Sys2Proof/Tests/Slice0.lean ====
section
/-! SUPPORT. The model's own tests. Words are written out from R69, R71, R76, R77 and R81; expected values come from the spec's worked
cases or from a count by hand. A witness meets, on a concrete state, the hypotheses of a statement or of its clauses together. -/

namespace Sys2Proof.Tests

open Sys2Proof Sys2Proof.Machine

set_option Elab.async false

/-! ## Helpers -/

/-- A template whose fields are all zero. -/
def z : Tpl := { mod := 0, dst := 0, sa := 0, sb := 0, sc := 0, pred := 0, ctl := 0, imm := 0, ext := 0 }

/-- The machine after reset. -/
def r : State := State.reset

/-- Context 0 running on partition 0 with a job on core 0 and one word at virtual address 0. -/
def p : State := State.reset.withFetchWord 32 0x01000000

/-- Core 0 of a state changed. -/
def on0 (s : State) (f : Core → Core) : State := s.updCore 0 f

/-- After reset, with some scalar registers of a stream of core 0 set, and that stream issuing. -/
def regs (e : StreamId) (l : Sparse W64) : State :=
  on0 { State.reset with cur := { strm := e } } fun k => k.updStrm e fun st => { st with s := l }

/-- What holds of the state that an outcome goes on to. -/
def nextIs (o : Host.Outcome State Fault Refusal) (f : State → Bool) : Bool :=
  match o with
  | .next t => f t
  | _ => false

/-! ## Well-formedness -/

theorem test_wf_word_forms : (Instr.stage 63 15 15 65535).wf = true ∧ (Instr.stage 64 0 0 0).wf = false ∧ (Instr.stage 0 16 0 0).wf = false
    ∧ (Instr.issueAndWriteBack 63 15 15 65535).wf = true ∧ (Instr.issueAndWriteBack 0 0 16 0).wf = false
    ∧ (Instr.issueAndWriteBack 0 0 0 65536).wf = false ∧ (Instr.templateLoad 63 262143 0 0 0 0).wf = true
    ∧ (Instr.templateLoad 64 0 0 0 0 0).wf = false ∧ (Instr.templateLoad 0 262144 0 0 0 0).wf = false
    ∧ (Instr.longImmediate 63 true 15 8191 0).wf = true ∧ (Instr.longImmediate 64 true 0 0 0).wf = false
    ∧ (Instr.longImmediate 0 true 0 8192 0).wf = false ∧ (Instr.longImmediate 0 true 16 0 0).wf = false := by decide

theorem test_wf_selects : (Instr.li z).wf = true ∧ (Instr.li { z with mod := 1 }).wf = false ∧ (Instr.liHi z).wf = false
    ∧ (Instr.bcwaitArm { z with mod := 1 }).wf = false ∧ (Instr.mwaitTake { z with mod := 3 }).wf = true := by decide

theorem test_wf_core_events : ∀ f ∈ ([.carveApply, .mxCommandStart, .scheduleMiss, .counterThresholdTrap, .pairPartialArrive, .pairAckArrive,
    .katWindowClose, .resultLand, .timerFire, .streamStall, .poolSpillTrap, .jobRetire, .workRequest, .katSweep, .ckwdTimeout, .coreSave,
    (.mxCommandComplete · 0), (.nmvBlockComplete · 0 0), (.overlayComplete · 0), (.streamFetchStart · .cc), (.sliceScrubComplete · 1)] :
    List (Nat → Instr)), (f 511).wf = true ∧ (f 512).wf = false := by decide

theorem test_wf_context_events : ∀ f ∈ ([.queueServerAppend, .ptrootWrite, .dlogbaseWrite, .dlogidxWrite, .dlogepWrite, .tsegpoolWrite,
    .stoplogWrite, .queuePoolLimitsWrite, .reclaimComplete, .haltComplete, (.nodeDispatch · 0), (.priorityPromotion · 0),
    (.operatingPointSelect · 0), (.nodeRetire · 0), (.signalStallResume · 0), (.nodeRollback · 0 .poison), (.incarnationInstall 755 ·),
    (.peerInstall 1023 ·), (.peerDrainTimeout 1023 ·)] : List (Nat → Instr)), (f 1023).wf = true ∧ (f 1024).wf = false := by decide

theorem test_wf_other_units : ∀ q ∈ ([((.fabricTilePacket · 0 0 0 0), 36), (.linkResync, 36), (.linkReplayLimit, 36), (.linkUp, 36),
    ((.linkFlitReceive · 0 true), 36), ((.peerRequestIngress · 0 (.read 1) 0), 36), (.accessTableEntryApply, 128), ((.translationWalk · 0), 70),
    ((.incarnationInstall · 0), 756), ((.peerInstall · 0), 1024), ((.peerDrainTimeout · 0), 1024), (.clusterWakeRegister, 64), (.wakeComplete, 64),
    (.clockRestart, 64), (.replayLimit, 64), ((.overcurrentAlarm .peak ·), 64), ((.unitHaltStop · 0), 64), ((.unitHaltStop 0 ·), 65536),
    ((.preemptRequestReceive · 0), 64), ((.preemptRequestReceive 0 ·), 586), ((.cuffAck · 0), 64), ((.cuffAck 0 ·), 586), (.cDieParkGate, 8),
    ((.machineCheck · 0 0), 6), ((.baseDieRequest · 0), 16), ((.baseDieRequest 0 ·), 8), ((.baseDieReply · 0 0), 16), ((.baseDieReply 0 · 0), 8),
    ((.baseDieReply 0 0 ·), 8), ((.hostRdmaWrite · 0 []), 256), ((.hostRdmaRead · 0 0), 256), ((.hostRdmaFetchAdd · 0 0), 256), ((.hostSend · 0), 256),
    ((.hostRequestRefused · .bindWindow), 256), ((.ethernetLinkTraining · true), 2), ((.sliceScrubComplete 0 ·), 2)] : List ((Nat → Instr) × Nat)),
    (q.1 (q.2 - 1)).wf = true ∧ (q.1 q.2).wf = false := by decide

theorem test_wf_copy_engines : ∀ f ∈ ([(.copyStart · 0), (.copyChunk · 0), (.copyComplete · 0)] : List (Nat → Instr)),
    (f 511).wf = true ∧ (f 512).wf = false ∧ (f 597).wf = false ∧ (f 598).wf = true ∧ (f 599).wf = true ∧ (f 600).wf = false := by decide

/-! ## Decoding: every template instruction by its word, with R81's code in [31:22] and MOD in [21:16] -/

theorem test_decode_control_1 : ∀ p ∈ ([
    (0x00000000, 0x00, .add), (0x00400000, 0x00, .sub), (0x00800000, 0x00, .addi), (0x00C00000, 0x00, .mul),
    (0x01000000, 0x00, .mulh), (0x01400000, 0x00, .mulhu), (0x01800000, 0x00, .div), (0x01C00000, 0x00, .divu),
    (0x02000000, 0x00, .rem), (0x02400000, 0x00, .remu), (0x02800000, 0x00, .and), (0x02C00000, 0x00, .or),
    (0x03000000, 0x00, .xor), (0x03400000, 0x00, .andn), (0x03800000, 0x00, .orn), (0x03C00000, 0x00, .shl),
    (0x04000000, 0x00, .shr), (0x04400000, 0x00, .sra), (0x04800000, 0x00, .rotl), (0x04C00000, 0x00, .clz),
    (0x05000000, 0x00, .ctz), (0x05400000, 0x00, .popc), (0x05800000, 0x00, .min), (0x05C00000, 0x00, .max),
    (0x06000000, 0x00, .minu), (0x06400000, 0x00, .maxu), (0x06800000, 0x00, .sel), (0x06C00000, 0x00, .cmp),
    (0x07000000, 0x00, .cmpi), (0x07400000, 0x00, .li), (0x07800000, 0x00, .mov), (0x0A000000, 0x00, .br)] : List (W32 × BitVec 6 × (Tpl → Instr))),
    (decode [0, 0, 0, p.1]).toOption = some (p.2.2 { z with mod := p.2.1 }) := by decide

theorem test_decode_control_2 : ∀ p ∈ ([
    (0x0A400000, 0x00, .jmp), (0x0A800000, 0x00, .call), (0x0AC00000, 0x00, .ret), (0x0B000000, 0x00, .jr),
    (0x0B400000, 0x00, .loop), (0x0C000000, 0x00, .ld), (0x0C400000, 0x00, .st), (0x0C800000, 0x00, .pf),
    (0x0E000000, 0x00, .rpush), (0x0E400000, 0x00, .rpop), (0x0E800000, 0x00, .rpeek), (0x0EC00000, 0x00, .rlevel),
    (0x0F000000, 0x00, .fpush), (0x10000000, 0x00, .wid), (0x10400000, 0x00, .rclaim), (0x10800000, 0x00, .tsub),
    (0x10C00000, 0x00, .rdgtc), (0x11000000, 0x00, .rdscnt), (0x11400000, 0x00, .rdvc), (0x11800000, 0x00, .rdwarn),
    (0x11C00000, 0x00, .warnclr), (0x12000000, 0x00, .trap), (0x1F800000, 0x00, .nop), (0x1FC00000, 0x00, .rdv),
    (0x07410000, 0x01, .liHi), (0x10810000, 0x01, .tsubRel), (0x10820000, 0x02, .tsubOff), (0x10830000, 0x03, .tsubOff)] : List (W32 × BitVec 6 × (Tpl → Instr))),
    (decode [0, 0, 0, p.1]).toOption = some (p.2.2 { z with mod := p.2.1 }) := by decide

theorem test_decode_control_extended : ∀ p ∈ ([
    (0x20000000, 0x00, .bext), (0x20400000, 0x00, .bdep), (0x20800000, 0x00, .madd), (0x20C00000, 0x00, .adda),
    (0x24000000, 0x00, .fork), (0x24400000, 0x00, .phase), (0x24800000, 0x00, .pub), (0x24C00000, 0x00, .acq),
    (0x25000000, 0x00, .fence), (0x25400000, 0x00, .ldAcq), (0x25800000, 0x00, .stRel), (0x25C00000, 0x00, .amo),
    (0x26000000, 0x00, .amof), (0x26400000, 0x00, .cas), (0x26800000, 0x00, .tbarw), (0x26C00000, 0x00, .carve),
    (0x28000000, 0x00, .cwany), (0x28400000, 0x00, .cwall), (0x28800000, 0x00, .cfirst), (0x28C00000, 0x00, .ctest),
    (0x29000000, 0x00, .ctclr), (0x29400000, 0x00, .fetest), (0x24200000, 0x20, .forkR)] : List (W32 × BitVec 6 × (Tpl → Instr))),
    (decode [0, 0, 0, p.1]).toOption = some (p.2.2 { z with mod := p.2.1 }) := by decide

theorem test_decode_vector_1 : ∀ p ∈ ([
    (0x40000000, 0x00, .vadd), (0x40400000, 0x00, .vsub), (0x40800000, 0x00, .vmul), (0x40C00000, 0x00, .vfma),
    (0x41000000, 0x00, .vfms), (0x41400000, 0x00, .vfnma), (0x41800000, 0x00, .vmin), (0x41C00000, 0x00, .vmax),
    (0x42000000, 0x00, .vabs), (0x42400000, 0x00, .vneg), (0x42800000, 0x00, .vrcp), (0x42C00000, 0x00, .vrsqrt),
    (0x43000000, 0x00, .vsqrt), (0x43400000, 0x00, .vdiv), (0x43800000, 0x00, .vexp2), (0x43C00000, 0x00, .vlog2),
    (0x44000000, 0x00, .vtanh), (0x44400000, 0x00, .vcvt), (0x46000000, 0x00, .vand), (0x46400000, 0x00, .vor),
    (0x46800000, 0x00, .vxor), (0x46C00000, 0x00, .vnot), (0x47000000, 0x00, .vshl), (0x47400000, 0x00, .vshr),
    (0x47800000, 0x00, .vsra), (0x47C00000, 0x00, .vclz), (0x48000000, 0x00, .vpopc), (0x48400000, 0x00, .vcmp),
    (0x48800000, 0x00, .vsel), (0x4A000000, 0x00, .pand), (0x4A400000, 0x00, .por), (0x4A800000, 0x00, .pxor)] : List (W32 × BitVec 6 × (Tpl → Instr))),
    (decode [0, 0, 0, p.1]).toOption = some (p.2.2 { z with mod := p.2.1 }) := by decide

theorem test_decode_vector_2 : ∀ p ∈ ([
    (0x4AC00000, 0x00, .pnot), (0x4B000000, 0x00, .pcnt), (0x4B400000, 0x00, .pfirst), (0x4B800000, 0x00, .pset)] : List (W32 × BitVec 6 × (Tpl → Instr))),
    (decode [0, 0, 0, p.1]).toOption = some (p.2.2 { z with mod := p.2.1 }) := by decide

theorem test_decode_vector_extended : ∀ p ∈ ([
    (0x60000000, 0x00, .vquant), (0x60400000, 0x00, .vdequant), (0x60800000, 0x00, .vhad), (0x60C00000, 0x00, .vsmooth),
    (0x61000000, 0x00, .vamax), (0x62000000, 0x00, .vred), (0x62400000, 0x00, .vscan), (0x62800000, 0x00, .vperm),
    (0x62C00000, 0x00, .vbcast), (0x63000000, 0x00, .vsplat), (0x63400000, 0x00, .vmov), (0x63800000, 0x00, .vmovs),
    (0x63C00000, 0x00, .vins), (0x64000000, 0x00, .vld), (0x64400000, 0x00, .vst), (0x64800000, 0x00, .vldx),
    (0x64C00000, 0x00, .vstx), (0x65000000, 0x00, .vstxAdd), (0x65400000, 0x00, .vldslc), (0x65800000, 0x00, .vstslc),
    (0x65C00000, 0x00, .vsrnd), (0x7F400000, 0x00, .ckptVx), (0x7F800000, 0x00, .nopVx), (0x7FC00000, 0x00, .rdvVx),
    (0x65C10000, 0x01, .vsrndRd), (0x7F810000, 0x01, .nopRepVx)] : List (W32 × BitVec 6 × (Tpl → Instr))),
    (decode [0, 0, 0, p.1]).toOption = some (p.2.2 { z with mod := p.2.1 }) := by decide

theorem test_decode_matrix_1 : ∀ p ∈ ([
    (0x80000000, 0x00, .mload), (0x80400000, 0x00, .mstore), (0x80800000, 0x00, .mzero), (0x80C00000, 0x00, .mmov),
    (0x81000000, 0x00, .mtr), (0x81400000, 0x00, .mma), (0x81800000, 0x00, .mdrain), (0x81C00000, 0x00, .mdrainX),
    (0x82000000, 0x00, .mkat), (0x82400000, 0x00, .mslot), (0x82800000, 0x00, .mcnt), (0x82C00000, 0x00, .mclr),
    (0x83000000, 0x00, .mthr), (0x83400000, 0x00, .mpair), (0x83800000, 0x00, .mstamp), (0x83C00000, 0x00, .mscl),
    (0x84000000, 0x00, .mwaitScnt), (0x84400000, 0x00, .nmv), (0x84800000, 0x00, .nmvAcc), (0x9F800000, 0x00, .nopMx),
    (0x9FC00000, 0x00, .rdvMx), (0x9F810000, 0x01, .nopRepMx), (0x80010000, 0x01, .mloadCv), (0x80020000, 0x02, .mloadCv),
    (0x80030000, 0x03, .mloadSc), (0x80430000, 0x03, .mstoreSc), (0x80C10000, 0x01, .mmovCv), (0x82840000, 0x04, .mcntSet),
    (0x83810000, 0x01, .mstampNow), (0x83820000, 0x02, .mstampAdd), (0x84010000, 0x01, .mwaitTags),
    (0x84020000, 0x02, .mwaitLine)] : List (W32 × BitVec 6 × (Tpl → Instr))),
    (decode [0, 0, 0, p.1]).toOption = some (p.2.2 { z with mod := p.2.1 }) := by decide

theorem test_decode_matrix_2 : ∀ p ∈ ([
    (0x84030000, 0x03, .mwaitTake), (0x84040000, 0x04, .mwaitIdle), (0x84050000, 0x05, .mwaitPost)] : List (W32 × BitVec 6 × (Tpl → Instr))),
    (decode [0, 0, 0, p.1]).toOption = some (p.2.2 { z with mod := p.2.1 }) := by decide

theorem test_decode_tile : ∀ p ∈ ([
    (0xA0000000, 0x00, .tmma), (0xA0400000, 0x00, .tconv), (0xA0800000, 0x00, .tnmv), (0xA0C00000, 0x00, .tmap),
    (0xA1000000, 0x00, .tred), (0xA1400000, 0x00, .tcopy), (0xA1800000, 0x00, .tkat), (0xA1C00000, 0x00, .tbar),
    (0xA2000000, 0x00, .tdesc), (0xA2400000, 0x00, .tsync)] : List (W32 × BitVec 6 × (Tpl → Instr))),
    (decode [0, 0, 0, p.1]).toOption = some (p.2.2 { z with mod := p.2.1 }) := by decide

theorem test_decode_copy : ∀ p ∈ ([
    (0xC0000000, 0x00, .cpost), (0xC0400000, 0x00, .cwanyCx), (0xC0800000, 0x00, .cwallCx), (0xC0C00000, 0x00, .cfirstCx),
    (0xC1000000, 0x00, .ctestCx), (0xC1400000, 0x00, .ctclrCx), (0xC1800000, 0x00, .fefill), (0xC1C00000, 0x00, .feempty),
    (0xC2000000, 0x00, .fetestCx), (0xC2400000, 0x00, .lbset), (0xC2800000, 0x00, .lbadv), (0xC2C00000, 0x00, .chalo),
    (0xC3000000, 0x00, .covl), (0xC3400000, 0x00, .bcpost), (0xC3800000, 0x00, .bcwait), (0xDF800000, 0x00, .nopCx),
    (0xDFC00000, 0x00, .rdvCx), (0xC6000000, 0x00, .fenceCx), (0xDF810000, 0x01, .nopRepCx), (0xC0010000, 0x01, .cpostQ),
    (0xC3810000, 0x01, .bcwaitRd), (0xC3820000, 0x02, .bcwaitArm)] : List (W32 × BitVec 6 × (Tpl → Instr))),
    (decode [0, 0, 0, p.1]).toOption = some (p.2.2 { z with mod := p.2.1 }) := by decide

theorem test_decode_system : ∀ p ∈ ([
    (0xE0000000, 0x00, .csrr), (0xE0400000, 0x00, .csrw), (0xE0800000, 0x00, .eret), (0xE0C00000, 0x00, .sysc),
    (0xE1000000, 0x00, .tlbiCtx), (0xE1400000, 0x00, .atbw), (0xE1800000, 0x00, .incb), (0xE1C00000, 0x00, .reclaim),
    (0xE2000000, 0x00, .ctxsave), (0xE2400000, 0x00, .ctxload), (0xE2800000, 0x00, .pstop), (0xE2C00000, 0x00, .prun),
    (0xE3000000, 0x00, .preempt), (0xE3400000, 0x00, .hltclr), (0xE3800000, 0x00, .gate), (0xE3C00000, 0x00, .wake),
    (0xE4000000, 0x00, .alarmclr), (0xE4400000, 0x00, .logrd), (0xE4800000, 0x00, .ckpt), (0xE0410000, 0x01, .csrwCtx),
    (0xE1010000, 0x01, .tlbiPage), (0xE2C10000, 0x01, .prunCore), (0xE4410000, 0x01, .logrdPop)] : List (W32 × BitVec 6 × (Tpl → Instr))),
    (decode [0, 0, 0, p.1]).toOption = some (p.2.2 { z with mod := p.2.1 }) := by decide

theorem test_decode_word_forms : decode [0x01000000] = .ok (.issueAndWriteBack 0 0 0 0)
    ∧ decode [0xFDFFFFFF] = .ok (.issueAndWriteBack 63 15 15 0xFFFF) ∧ decode [0x02000000] = .ok (.stage 0 0 0 0)
    ∧ decode [0xFEFFFFFF] = .ok (.stage 63 15 15 0xFFFF) ∧ decode [0xFF00003F, 4, 3, 2, 1] = .ok (.templateLoad 63 0 4 3 2 1)
    ∧ decode [0xFB00003F, 0xFFFFFFFF] = .ok (.longImmediate 63 false 0 0 0xFFFFFFFF) := ⟨rfl, rfl, rfl, rfl, rfl, rfl⟩

/-- Every field of a template from its own bits (R69). -/
theorem test_decode_fields : decode [0x89ABCDEF, 0x12345678, 0x21439ABC, 0x00154321] =
    .ok (.add { mod := 0x15, dst := 0x43, sa := 0x21, sb := 0x21, sc := 0x43, pred := 0x13, ctl := 0x2BC, imm := 0x12345678,
                ext := 0x89ABCDEF }) := rfl

theorem test_decode_refuses : decode [] = .error (.unassignedOpcode 0) ∧ decode [0x03000000] = .error (.extendedIndex 0)
    ∧ decode [0xF7000000] = .error (.extendedIndex 61) ∧ decode [0, 0, 0, 0x08000000] = .error (.unassignedOpcode 0x020) := ⟨rfl, rfl, rfl, rfl⟩

/-! ## Encoding -/

theorem test_encode_words : encode (.add { z with dst := 4, sa := 2, sb := 3 }) = [0, 0, 0x03000000, 0x00000402]
    ∧ encode (.issueAndWriteBack 7 12 0 0xFFF6) = [0x1DC0FFF6] ∧ encode (.templateLoad 5 0 0 0 0x03000000 0x402) = [0xFF000005, 0, 0, 0x03000000, 0x402]
    ∧ encode (.longImmediate 9 false 0 0 0x123456) = [0xFB000009, 0x00123456] := by decide

/-! ## Placing and stepping -/

/-- The placed word is the one that the next step issues: template 0 is `add s0, s0, s0`, written back, and CC goes on at 4. -/
theorem test_step_placed : nextIs (step p) (fun t => t.curStrm.pc == 4 && t.curCore.issueOrd == 1 && t.turn == []) = true := by decide +kernel

theorem test_step_placed_stage : nextIs (step (State.reset.withFetchWord 32 0x16800708)) (fun t =>
    t.curStrm.stage == some (5, putField (putField 0 104 8 7) 96 8 8)) = true := by decide +kernel

theorem test_table_word : decodeTableWord 32 0x01000000 = some (.issueAndWriteBack 0 0 0 0) ∧ decodeTableWord 32 0xFEFFFFFF = some (.stage 63 15 15 0xFFFF) := by
  decide

/-! ## Witnesses: words of the control contexts and of VX -/

/-- A core whose CC has s1 = 7, s2 = 3 and predicate 1 set. -/
def c1 : State := on0 (regs .cc [(1, 7), (2, 3)]) fun k => { k with cc := { k.cc with p := [(1, 1)] } }

theorem test_witness_ArithmeticResults : ∀ o ∈ [0x000, 0x001, 0x002, 0x083, 0x003, 0x004, 0x005, 0x082],
    c1.acts o { z with mod := 0x3F, sa := 1, sb := 2, pred := 1, ctl := 0x700, imm := 0xFFFFFFFF } := by unfold State.acts; decide +kernel

theorem test_witness_DivisionResults : ∀ o ∈ [0x006, 0x007, 0x008, 0x009], c1.acts o { z with sa := 1, sb := 2 } ∧ c1.acts o { z with sa := 1 } := by
  unfold State.acts; decide +kernel

theorem test_witness_LogicResults : ∀ o ∈ [0x00A, 0x00B, 0x00C, 0x00D, 0x00E, 0x00F, 0x010, 0x011, 0x012, 0x013, 0x014, 0x015, 0x016, 0x017,
    0x018, 0x019, 0x080, 0x081], c1.acts o { z with mod := 1, sa := 1, sb := 2, imm := 64 } := by unfold State.acts; decide +kernel

theorem test_witness_SelectionResults : ∀ o ∈ [0x01B, 0x01C, 0x01A, 0x01D, 0x01E], c1.acts o { z with sc := 129, pred := 1 } := by
  unfold State.acts; decide +kernel

theorem test_witness_IdentifierAndTimerWords : (∀ o ∈ [0x040, 0x043, 0x044, 0x045, 0x03B, 0x046, 0x041, 0x042, 0x047], c1.acts o z)
    ∧ c1.curCore.range.hi ≤ c1.curCore.range.lo ∧ ¬ (on0 c1 fun k => { k with range := { hi := 5 } }).curCore.range.hi ≤ 0 := by
  unfold State.acts; decide +kernel

theorem test_witness_IdleEndAndForkWords : c1.acts 0x090 { z with mod := 0x1F } ∧ c1.cur.strm = .cc
    ∧ (let s := on0 c1 fun k => { k with job := some { entry := [8, 0, 16, 24, 32, 40] } }
      s.acts 0x090 { z with mod := 0x3F } ∧ s.curCore.theJob.entry.getD 0 0 ≠ 0 ∧ (s.curCore.strm .cl).started = false ∧ s.opa { z with sa := 1 } ≠ 0) := by
  unfold State.acts; decide +kernel

theorem test_witness_RingAndFormatWords :
    (regs .cl []).acts 0x038 z ∧ (regs .cl []).cur.strm = .cl ∧ (regs .cl []).curCore.roomFor 3 0 = true
    ∧ c1.acts 0x038 { z with mod := 1 } ∧ c1.cur.strm = .cc ∧ c1.curCore.roomFor 4 0 = true ∧ c1.acts 0x038 z
    ∧ (let s := on0 c1 fun k => { k with ring0 := { q := [5], start := 1 } }
       s.acts 0x039 z ∧ s.acts 0x03A z ∧ s.curCore.ring0.pops < s.curCore.ring0.start ∧ s.curCore.ring0.q.headD 0 = 5)
    ∧ c1.acts 0x039 { z with mod := 1 } ∧ c1.acts 0x03A { z with mod := 1 }
    ∧ (let s := on0 (regs .cl []) fun k => { k with job := some { qpcap := 0 }, ring0 := { start := 8 } }
       s.guard0 z = true ∧ s.curCore.roomFor 3 (s.curCore.ring0.start + s.curCore.ring0.pushes) = false)
    ∧ (c1.guard0 z = true ∧ ¬ c1.curCore.ring0.pops < c1.curCore.ring0.start) ∧ c1.acts 0x03C z ∧ c1.curCore.roomFor 2 0 = true
    ∧ (let s := on0 c1 fun k => { k with job := some { qpcap := 0 }, fmtq := List.replicate 16 0 }
       s.guard0 z = true ∧ s.curCore.roomFor 2 (s.curCore.fmtq.length + s.curCore.fmtqNew.length) = false) := by unfold State.acts; decide +kernel

theorem test_witness_BranchResults : ∀ o ∈ [0x028, 0x029, 0x02A, 0x02B, 0x02C, 0x02D],
    c1.admits c1.cur.core (energyClass o { z with mod := 1, sa := 1 }) = true := by decide +kernel

theorem test_witness_DelaySlots : c1.admits c1.cur.core (energyClass 0x02D z) = true ∧ c1.curStrm.rot = [] ∧ c1.curStrm.resume = []
    ∧ c1.curStrm.reps = [] ∧ c1.curStrm.redirects = []
    ∧ (∀ l ∈ [[(2, 0)], [(1, 64)], [(1, 64), (2, 128)]], (c1.updCurStrm fun st => { st with redirects := l }).curStrm.redirects = l)
    ∧ ∀ l ∈ [[1], [2]], (c1.updCurStrm fun st => { st with rot := l }).curStrm.rot = l := by decide +kernel

/-- VX issuing, with s1 = 7, s2 = 3. -/
def v1 : State := regs .vx [(1, 7), (2, 3)]

theorem test_witness_VectorArithmetic : ∀ o ∈ [0x100, 0x101, 0x102, 0x103, 0x104, 0x105, 0x106, 0x107, 0x108, 0x109], ∀ m ∈ [0, 1, 2, 3, 4, 5, 6],
    v1.acts o { z with mod := m, dst := 64, sa := 65, sb := 66, sc := 67 } ∧ vtypeOf o { z with mod := m } ≠ 7 := by unfold State.acts; decide +kernel

theorem test_witness_VectorFunctions : ∀ o ∈ [0x10A, 0x10B, 0x10C, 0x10D, 0x10E, 0x10F, 0x110],
    v1.acts o { z with dst := 64, sa := 65, sb := 66, ctl := 0x400 } := by unfold State.acts; decide +kernel

theorem test_witness_VectorScalarForms : ∀ o ∈ [0x100, 0x101, 0x118, 0x119, 0x11A, 0x11C, 0x11D, 0x11E],
    v1.acts o { z with mod := 7, dst := 3, sa := 1, sb := 2 } ∧ vtypeOf o { z with mod := 7 } = 7
      ∧ v1.guard0 { z with mod := 7 } = true ∧ v1.guard0 { z with mod := 7, pred := 1 } = false := by unfold State.acts; decide +kernel

theorem test_witness_VectorLogic : ∀ o ∈ [0x118, 0x119, 0x11A, 0x11B, 0x11C, 0x11D, 0x11E, 0x11F, 0x120],
    v1.acts o { z with mod := 8, dst := 64, sa := 65, sb := 66, imm := 33 } ∧ vtypeOf o { z with mod := 8 } ≠ 7 := by unfold State.acts; decide +kernel

theorem test_witness_VectorMoves : ∀ o ∈ [0x18A, 0x18B, 0x18C, 0x18D, 0x18E, 0x18F, 0x122, 0x197],
    v1.acts o { z with mod := 1, dst := 64, sa := 65, imm := 63 } := by unfold State.acts; decide +kernel

theorem test_witness_PredicateWords : ∀ o ∈ [0x121, 0x128, 0x129, 0x12A, 0x12B, 0x12C, 0x12D, 0x12E], ∀ m ∈ [0, 1, 2, 3],
    v1.acts o { z with mod := m, dst := 129, sa := 130, imm := 64 } := by unfold State.acts; decide +kernel

/-- IMM of `vcvt` from e2m1 (18) to FP32 (23) is within R153; format 7 is not given. -/
theorem test_witness_VectorConvert : v1.acts 0x111 { z with imm := 0x1712 } ∧ v1.acts 0x111 { z with imm := 7 }
    ∧ (z.imm.toNat / 2 ^ 5 % 8 = 0 ∧ z.imm.toNat / 2 ^ 15 = 0 ∧ z.imm.toNat % 32 ≤ 6) := by unfold State.acts; decide +kernel

/-- Format word 0 is valid; one with a reserved bit set is not. -/
theorem test_witness_VectorQuantise : (∀ o ∈ [0x180, 0x181], v1.acts o z ∧ v1.acts o { z with sb := 1 }) ∧ v1.opb z = 0 ∧ v1.opb { z with sb := 1 } = 7
    ∧ (7 : Nat) % 2 ^ 21 ≠ 0 := by unfold State.acts; decide +kernel

theorem test_witness_VectorBlocks : ∀ o ∈ [0x182, 0x183, 0x184], v1.acts o { z with mod := 1 } ∧ v1.acts o { z with mod := 3 } := by unfold State.acts; decide +kernel

theorem test_witness_VectorReductions : ∀ o ∈ [0x188, 0x189], ∀ m ∈ [0, 8, 0x28, 0x3F], v1.acts o { z with mod := m, imm := 7 } := by unfold State.acts; decide +kernel

theorem test_witness_IntegerReductionExact : ((List.replicate 256 (-1 : Int)).length = 2 ^ 8) ∧ [(3 : Int)].length = 2 ^ 0 := by decide +kernel

theorem test_witness_TileSlices : (∀ o ∈ [0x195, 0x196], v1.acts o { z with ext := 0x40000000 }) ∧ ({ z with ext := 0x40000000 } : Tpl).slice = 1
    ∧ ({ z with ext := 0x80000000 } : Tpl).slice = 2 ∧ z.slice = 0 := by unfold State.acts; decide +kernel

/-- s1 = 7 repetitions of two words; at level 1 of a body of four words, and at a full stack. -/
theorem test_witness_RepeatWords : v1.opa z = 0 ∧ v1.opa { z with sa := 1 } = 7 ∧ v1.curStrm.resume = [] ∧ v1.curStrm.reps = []
    ∧ (regs .mx [(1, 7)]).curCore.mx.scalarBusy [1] = false ∧ ({ z with imm := 2 } : Tpl).imm.toNat % 65536 ≠ 0 ∧ v1.cur.words ≤ 5
    ∧ (let rp : Rep := { start := 0, last := 12, left := 1 }
       (v1.updCurStrm fun st => { st with reps := [rp] }).curStrm.reps = [rp] ∧ 4 * (4 - 1) ≤ (rp.last - 0).toNat ∧ ¬ 4 * (5 - 1) ≤ (rp.last - 0).toNat
         ∧ (v1.updCurStrm fun st => { st with reps := [rp, rp] }).curStrm.reps = rp :: rp :: []) := by decide +kernel

/-! ## Witnesses: accesses -/

/-- `p` with s1 = 0x1004 of CC, a virtual address that nothing translates, and s2 = 0xC00000, past any scratchpad carve. -/
def p1 : State := on0 p fun k => { k with cc := { k.cc with s := [(1, 0x1004), (2, 0xC00000)] } }

/-- The line of `p`'s page 0 in L1 of core 0. -/
def pL1 : State := on0 p fun k => { k with l1 := [{ loc := lineOf placePa, pa := placePa, va := 0, ctag := k.theJob.ctag, valid := BitVec.allOnes 128 }] }

/-- Scratchpad line 0 of core 0 full. -/
def spFull : State := on0 c1 fun k => { k with sp := [(0, { full := true, data := 0x1234 })] }

theorem test_witness_ScalarLoads :
    (c1.acts 0x030 { z with mod := 1, imm := 1 } ∧ (c1.ea { z with mod := 1, imm := 1 }).toNat % 2 ≠ 0)
    ∧ (p1.acts 0x030 { z with mod := 8, sa := 2 } ∧ (p1.ea { z with sa := 2 }).toNat = 0xC00000 ∧ p1.spTarget 0 0xC00000 false = none)
    ∧ (spFull.acts 0x030 { z with mod := 9, imm := 126 } ∧ spFull.ready ∧ ordOf 0x030 { z with mod := 9 } = 0 ∧ spFull.spTarget 0 126 false = some (0, 126)
      ∧ (spFull.curCore.spLine 0).full = true ∧ (spFull.curCore.spLine 0).poison = 0 ∧ (c1.curCore.spLine 0).full = false)
    ∧ (pL1.acts 0x030 { z with mod := 3, imm := 120 } ∧ pL1.ready ∧ pL1.mem.translate 0 0 120 permR = .hit (placePa + 120) (placeEntry 0)
      ∧ (locOf (placePa + 120)).isSome = true ∧ (pL1.curCore.l1Find (lineOf (placePa + 120)) 0).isSome = true)
    ∧ (p.acts 0x030 z ∧ p.ready ∧ p.mem.translate 0 0 0 permR = .hit placePa (placeEntry 0) ∧ p.curCore.l1Find (lineOf placePa) 0 = none ∧ p.mem.reqs = [])
    ∧ (p1.acts 0x030 { z with sa := 1 } ∧ p1.ready ∧ p1.mem.translate 0 0 0x1004 permR = .miss) := by
  unfold State.acts State.ready; decide +kernel

/-- A word of `p` whose page 1 is a peer's: aperture 3 leads to device 5. -/
def pPeer : State := p.updMem fun m => { m with
  tcache := [{ unit := 0, ctag := 0, va := 0x1000, size := 12, frame := 2 ^ 43 + 3 * 2 ^ 35, perm := 31, epoch := none }], devId := 1, domain := 8
  aper := [(3, { dev := 5, base := 0 })] }

theorem test_witness_ScalarStores :
    (c1.acts 0x031 { z with mod := 3, imm := 4 } ∧ (c1.ea { z with mod := 3, imm := 4 }).toNat % 8 ≠ 0)
    ∧ (p1.acts 0x031 { z with mod := 8, sa := 2 } ∧ p1.spTarget 0 0xC00000 true = none)
    ∧ (spFull.acts 0x031 { z with mod := 11, imm := 120 } ∧ spFull.ready ∧ ordOf 0x031 { z with mod := 11 } = 0 ∧ spFull.spTarget 0 120 true = some (0, 120)
      ∧ c1.spTarget 0 120 true = some (0, 120) ∧ (c1.curCore.spLine 0).full = false)
    ∧ (p.acts 0x031 z ∧ p.ready ∧ p.mem.translate 0 0 0 permW = .hit placePa (placeEntry 0) ∧ (locOf placePa).isSome = true ∧ p.curCore.l1.length < 16
      ∧ placePa % 8 = 0)
    ∧ (p.acts 0x031 { z with ctl := 8 } ∧ (ordOf 0x031 { z with ctl := 8 }).testBit 1 = true ∧ p.ready) := by
  unfold State.acts State.ready; decide +kernel

theorem test_witness_ScalarStoresPeer : let s := on0 pPeer fun k => { k with cc := { k.cc with s := [(1, 0x1040)] } }
    s.acts 0x031 { z with sa := 1 } ∧ s.ready ∧ (s.ea { z with sa := 1 }) = 0x1040
      ∧ (s.mem.translate 0 0 0x1040 permW matches .hit _ _) = true ∧ destOf s.mem (2 ^ 43 + 3 * 2 ^ 35 + 0x40) = .peer 5 0x40 := by
  unfold State.acts State.ready; decide +kernel

theorem test_witness_PrefetchAndAcquireLoad : p.acts 0x032 z ∧ p1.acts 0x032 { z with sa := 1 }
    ∧ (c1.acts 0x095 { z with mod := 3, imm := 4 } ∧ (c1.ea { z with mod := 3, imm := 4 }).toNat % 8 ≠ 0)
    ∧ p.acts 0x095 z ∧ p.ready ∧ p.mem.reqs = [] ∧ p.mem.translate 0 0 0 permR = .hit placePa (placeEntry 0) := by
  unfold State.acts State.ready; decide +kernel

theorem test_witness_AtomicWords : ∀ o ∈ [0x097, 0x098, 0x099],
    (c1.acts o { z with imm := 2 } ∧ (c1.ea { z with imm := 2 }).toNat % 4 ≠ 0)
    ∧ (p.acts o { z with mod := 0x10, imm := 8 } ∧ p.ready ∧ ordOf o z = 0 ∧ p.mem.translate 0 0 8 (permR + permW + permA) = .hit (placePa + 8) (placeEntry 0))
    ∧ p1.acts o { z with sa := 1 } ∧ p1.mem.translate 0 0 0x1004 (permR + permW + permA) = .miss := by
  unfold State.acts State.ready; decide +kernel

/-- s1 of CC holds a number of cycles. -/
def holdFor (n : Nat) : State := regs .cc [(1, BitVec.ofNat 64 n)]

theorem test_witness_FencesAndHolds : (∀ o ∈ [0x091, 0x092, 0x093, 0x096, 0x09A], c1.acts o z) ∧ c1.ready
    ∧ (c1.acts 0x097 { z with ctl := 0xC } ∧ ordOf 0x097 { z with ctl := 0xC } = 3)
    ∧ (∀ v ∈ [16, 48], (holdFor v).acts 0x09B { z with sa := 1 } ∧ (holdFor v).cur.strm = .cc ∧ ((holdFor v).opa { z with sa := 1 }).toNat = v)
    ∧ (∀ v ∈ [15, 49], (holdFor v).guard0 z = true ∧ ((holdFor v).opa { z with sa := 1 }).toNat = v)
    ∧ (regs .cl []).cur.strm ≠ .cc ∧ c1.acts 0x094 { z with mod := 0x1F } ∧ (regs .cx []).acts 0x318 { z with mod := 0x1F }
    ∧ (on0 c1 fun k => { k with tilesOut := [4] }).acts 0x094 { z with mod := 8 } := by
  unfold State.acts State.ready; decide +kernel

/-- Tags 0 and 3 set; s1 names tags 0 to 2, which are not all set. -/
def cTags : State := on0 c1 fun k => { k with tags := 9 }

theorem test_witness_TagAndFullTestWords : (∀ o ∈ [0x0A0, 0x0A1, 0x0A2, 0x0A3, 0x0A4, 0x301, 0x302, 0x303, 0x304, 0x305], cTags.acts o { z with sa := 1 })
    ∧ cTags.curCore.tags &&& cTags.opa { z with sa := 1 } ≠ 0 ∧ cTags.curCore.tags &&& cTags.opa { z with sa := 1 } ≠ cTags.opa { z with sa := 1 }
    ∧ cTags.curCore.tags &&& cTags.opa z = cTags.opa z ∧ c1.curCore.tags &&& c1.opa { z with sa := 1 } = 0 ∧ cTags.guard0 z = true
    ∧ (∀ o ∈ [0x0A5, 0x308], spFull.acts o z ∧ spFull.guard0 z = true ∧ spFull.curCore.carveTo = none ∧ spFull.spTarget 0 0 false = some (0, 0))
    ∧ (spFull.opa { z with sa := 1 }).toNat % 128 ≠ 0
    ∧ ((regs .cc [(1, 0xC00000)]).opa { z with sa := 1 }).toNat % 128 = 0 ∧ (regs .cc [(1, 0xC00000)]).spTarget 0 0xC00000 false = none := by
  unfold State.acts; decide +kernel

/-- VX of `p`'s core issuing. -/
def pv : State := on0 { p with cur := { p.cur with strm := .vx } } fun k => { k with vx := { k.vx with s := [(1, 0x1004), (2, 2), (3, 0xC00000)] } }

theorem test_witness_VectorAccesses :
    (∀ o ∈ [0x190, 0x191, 0x192, 0x193, 0x194], (pv.acts o { z with sa := 2 } ∧ (pv.guard z).getLsbD 0 = true ∧ (pv.ea { z with sa := 2 }).toNat % 4 ≠ 0
        ∧ (pv.opa { z with sa := 2 }).toNat % 4 ≠ 0)
      ∧ (pv.acts o { z with mod := 8, sa := 3 } ∧ (pv.opa { z with sa := 3 }).toNat % 4 = 0 ∧ pv.spTarget 0 0xC00000 false = none ∧ pv.spTarget 0 0xC00000 true = none)
      ∧ (pv.acts o { z with sa := 1 } ∧ pv.ready ∧ ordOf o z = 0 ∧ pv.mem.translate 0 0 0x1004 (permR + permW + permA) = .miss)
      ∧ (pv.acts o z ∧ pv.mem.translate 0 0 252 (permR + permW + permA) = .hit (placePa + 252) (placeEntry 0)))
    ∧ (pv.acts 0x190 { z with mod := 8 } ∧ pv.spTarget 0 252 false = some (0, 252) ∧ (pv.curCore.spLine 1).full = false)
    ∧ (let s := on0 pv fun k => { k with sp := [(0, { full := true }), (1, { full := true })] }
       ∀ j < 64, s.spTarget 0 (4 * j) true = some (0, 4 * j) ∧ (s.curCore.spLine (4 * j / 128)).full = true ∧ (s.curCore.spLine (4 * j / 128)).poison = 0)
    ∧ (on0 pv fun k => { k with l1 := [{ loc := lineOf placePa, pa := placePa, va := 0, ctag := 0, valid := BitVec.allOnes 128 },
        { loc := lineOf (placePa + 128), pa := placePa + 128, va := 128, ctag := 0, valid := BitVec.allOnes 128 }] }).curCore.l1.length = 2
    ∧ vtypeOf 0x194 z ∈ [0, 3, 4] ∧ pv.curCore.spEvents = [] := by
  unfold State.acts State.ready; decide +kernel

/-! ## Witnesses: exceptions, control registers and system words -/

/-- A physical address of HBM4E that is its own location (R248). -/
def hb : Nat := 2 ^ 40

/-- The entry of the access tables that admits every context to all of memory. -/
def admitAll : W128 := BitVec.ofNat 128 (2 ^ 127 + 31 <<< 122 + 0x3FF <<< 112 + 52 <<< 106)

/-- Access tables that admit masters, in rising order, to all of memory at every home and base die. -/
def admits (ms : List Nat) : Sparse W128 := (List.range 80).flatMap fun u => ms.map fun m => (1024 * u + m, admitAll)

/-- `p` with 2 MiB of virtual memory from 0x200000, where core 0 may access all of memory, and its trap frame there. -/
def pFrame : State := on0 (p.updMem fun m => { m with
  tcache := [{ unit := 0, ctag := 0, va := 0x200000, size := 21, frame := hb + 0x40000000, perm := 31, epoch := none }]
  acc := admits [0] }) fun k => { k with tframe := 0x200000, tvec := 0x4000 }

/-- The core of `pFrame` in handler mode. -/
def pHandler : State := on0 pFrame fun k => { k with hm := true }

theorem readVirt_ok (s : State) (q : Party) (need va n : Nat)
    (h : ((linePieces va n).all fun x => match s.reach q (BitVec.ofNat 64 x.1) need with
      | .ok pa => (s.phasedLine q pa).2 == 0
      | _ => false) = true) :
    ∃ bs, s.readVirt q true need va n = .ok bs ∧ ∀ b ∈ bs, b.2 = false := by
  have key : ∀ (l : List (Nat × Nat)) (acc : List PByte), (∀ b ∈ acc, b.2 = false) →
      (l.all fun x => match s.reach q (BitVec.ofNat 64 x.1) need with
        | .ok pa => (s.phasedLine q pa).2 == 0
        | _ => false) = true →
      ∃ bs, l.foldlM (fun acc x => do
        let pa ← s.reach q (BitVec.ofNat 64 x.1) need
        let l := if true = true then s.phasedLine q pa else s.engineLine q pa
        pure (acc ++ pieceBytes l (pa % 128) x.2)) acc = (.ok bs : Acc (List PByte)) ∧ ∀ b ∈ bs, b.2 = false := by
    intro l
    induction l with
    | nil => exact fun acc ha _ => ⟨acc, rfl, ha⟩
    | cons x l ih =>
      intro acc ha hl
      simp only [List.all_cons, Bool.and_eq_true] at hl
      obtain ⟨hx, hl⟩ := hl
      revert hx
      cases hr : s.reach q (BitVec.ofNat 64 x.1) need with
      | error e => simp
      | ok pa =>
        intro hp
        have hp : (s.phasedLine q pa).2 = 0 := by simpa using hp
        have := ih (acc ++ pieceBytes (s.phasedLine q pa) (pa % 128) x.2) (by
          intro b hb
          rcases List.mem_append.1 hb with hb | hb
          · exact ha b hb
          · obtain ⟨i, _, rfl⟩ := List.mem_map.1 hb
            simp [hp, bit]) hl
        simpa [List.foldlM_cons, hr, bind, Except.bind, pure, Except.pure] using this
  exact key _ [] (by simp) h

theorem test_witness_ExceptionWords : c1.acts 0x048 z ∧ c1.acts 0x383 z ∧ (c1.guard0 z = true ∧ c1.curCore.hm = false)
    ∧ (∃ o ∈ (on0 pHandler fun k => { k with savedOps := [{ strm := .cc, ord := 0, pc := 0, kind := .none, reqs := [4] }] }).curCore.savedOps, 4 ∈ o.reqs)
    ∧ (pHandler.acts 0x382 z ∧ pHandler.guard0 z = true ∧ pHandler.curCore.hm = true ∧ pHandler.curCore.savedOps = []) := by
  unfold State.acts; decide +kernel

theorem test_witness_ExceptionReturn : ∃ bs, pHandler.readVirt (pHandler.engineParty 0 .cc) true permR pHandler.curCore.tframe.toNat 0x13000 = .ok bs
    ∧ ∀ b ∈ bs, b.2 = false :=
  readVirt_ok _ _ _ _ _ (by decide +kernel)

theorem test_witness_TrapEntry : ((pFrame.core 0).hm = false ∧ (pFrame.core 0).tvec ≠ 0 ∧ (pFrame.core 0).trapBits &&& (pFrame.core 0).tdeleg.toNat = (pFrame.core 0).trapBits)
    ∧ (let s := on0 pHandler fun k => { k with trapBits := 1, trapSync := true }
       (s.core 0).hm = true ∧ (s.core 0).trapSync = true)
    ∧ ((pHandler.core 0).hm = true ∧ (pHandler.core 0).trapSync = false)
    ∧ (let s := on0 pFrame fun k => { k with trapBits := 1 }
       (s.core 0).hm = false ∧ (s.core 0).trapBits &&& (s.core 0).tdeleg.toNat ≠ (s.core 0).trapBits ∧ (s.core 0).trapBits.testBit 5 = false) := by decide +kernel

/-- What the checks of an address read is as it was. -/
def Keeps (s u : State) : Prop :=
  u.mem.tcache = s.mem.tcache ∧ u.mem.acc = s.mem.acc ∧ u.mem.inc = s.mem.inc ∧ u.mem.l2 = s.mem.l2 ∧ u.mem.latent = s.mem.latent

theorem Keeps.refl (s : State) : Keeps s s := ⟨rfl, rfl, rfl, rfl, rfl⟩

theorem keeps_writeBackLine {s u : State} (h : Keeps s u) (hl : s.mem.latent = []) (c : Nat) (l : L1Line) : Keeps s (u.writeBackLine c l) := by
  obtain ⟨h1, h2, h3, h4, h5⟩ := h
  have h6 := h5.trans hl
  unfold State.writeBackLine
  split
  · exact ⟨h1, h2, h3, h4, h5⟩
  · simp only [State.drawn, h6, List.contains_nil, Bool.false_eq_true, if_false, State.updMem, Mem.addVersion]
    split <;> exact ⟨h1, h2, h3, h4, hl.symm⟩

theorem keeps_evictLines {s u : State} (h : Keeps s u) (hl : s.mem.latent = []) (c : Nat) (f : L1Line → Bool) : Keeps s (u.evictLines c f) := by
  have : ∀ (l : List L1Line) (v : State), Keeps s v → Keeps s (l.foldl (fun s l => s.writeBackLine c l) v) := by
    intro l
    induction l with
    | nil => exact fun v hv => hv
    | cons x l ih => exact fun v hv => ih _ (keeps_writeBackLine hv hl c x)
  exact this _ u h

theorem keeps_l1Store {s u : State} (h : Keeps s u) (hl : s.mem.latent = []) (c pa : Nat) (va : W64) (g : W16) (m : LineMask) (d : LineData) :
    Keeps s (u.l1Store c pa va g m d) := by
  have : Keeps s (u.l1Room c (lineOf pa) g) := by
    unfold State.l1Room
    dsimp only
    split
    · exact h
    · split
      · exact h
      · split
        · exact keeps_evictLines (u := u.drawn) h hl c _
        · exact h
  exact this

theorem reach_keeps {s u : State} (h : Keeps s u) (q : Party) (va : W64) (pa : Nat) (hr : s.reach q va permW = .ok pa) (hp : (locOf pa).isSome = true) :
    u.reach q va permW = .ok pa := by
  obtain ⟨h1, h2, h3, h4, -⟩ := h
  have ht : ∀ n, u.mem.translate q.unit q.ctag va n = s.mem.translate q.unit q.ctag va n := by
    intro n
    simp only [Mem.translate, Mem.tfind, h1]
  simp only [State.reach, ht] at hr ⊢
  cases hc : s.mem.translate q.unit q.ctag va (permW &&& 30) with
  | miss => simp [hc] at hr
  | lacks l => simp [hc] at hr
  | hit p e =>
    simp only [hc, State.reachPa] at hr ⊢
    cases hloc : locOf p with
    | some loc =>
      simp only [destOf, hloc, Mem.checkAt, Mem.dramCheck, Mem.l2Misses, Mem.l2Has, Mem.check, Mem.staleAt, Mem.curAt, Mem.accEntry, h2, h3, h4] at hr ⊢
      exact hr
    | none =>
      exfalso
      have hne : p ≠ pa := by
        rintro rfl
        simp [hloc] at hp
      cases hd : destOf s.mem p with
      | dram loc =>
        simp only [destOf, hloc] at hd
        (repeat' split at hd) <;> cases hd
      | peer d a =>
        simp only [hd] at hr
        split at hr
        · cases hr
        · injection hr with hr
          exact hne hr
      | registers => simp [hd] at hr
      | refused => simp [hd] at hr

/-- A frame of any bytes is written from `s`, once each of its lines may be written there. -/
theorem writePhased_ok (s : State) (q : Party) (c va : Nat) (bs : List PByte) (hs : s.mem.latent = [])
    (h : ((linePieces va bs.length).all fun x => match s.reach q (BitVec.ofNat 64 x.1) permW with
      | .ok pa => (locOf pa).isSome
      | _ => false) = true) :
    ∃ t, s.writePhased q c va bs = .ok t := by
  unfold State.writePhased
  generalize linePieces va bs.length = l at h
  suffices ∀ (acc : State × List PByte), Keeps s acc.1 → ∃ t, (l.foldlM (fun (acc : State × List PByte) q' => do
    let pa ← acc.1.reach q (BitVec.ofNat 64 q'.1) permW
    let (mask, data, _) := pieceLine pa (acc.2.take q'.2)
    let s := if (locOf pa).isSome then acc.1.l1Store c pa (BitVec.ofNat 64 q'.1) q.ctag mask data
      else
        (acc.1.updCore c fun k => k.sign pa).updMem fun m => m.addVersion
          { owner := .pending c (acc.1.core c).phase.toNat, line := lineOf pa, mask := mask, data := data, ctag := q.ctag
            va := BitVec.ofNat 64 (alignDown q'.1 128), pa := alignDown pa 128 }
    pure (s, acc.2.drop q'.2)) acc : Acc (State × List PByte)) = .ok t by
    obtain ⟨t, ht⟩ := this (s, bs) (Keeps.refl s)
    exact ⟨t.1, by rw [ht]; rfl⟩
  induction l with
  | nil => exact fun acc _ => ⟨acc, rfl⟩
  | cons x l ih =>
    intro acc ha
    simp only [List.all_cons, Bool.and_eq_true] at h
    obtain ⟨hx, hl⟩ := h
    revert hx
    cases hq : s.reach q (BitVec.ofNat 64 x.1) permW with
    | error e => simp
    | ok pa =>
      intro hn
      have hn : (locOf pa).isSome = true := hn
      simp only [List.foldlM_cons, reach_keeps ha _ _ _ hq hn, bind, Except.bind, pure, Except.pure, hn, if_true]
      exact ih hl _ (keeps_l1Store ha hs _ _ _ _ _ _)

/-- Pieces stand in rising order within `n` bytes. -/
def rising (n pos : Nat) : List Piece → Bool
  | [] => pos ≤ n
  | (off, size, _) :: fs => pos ≤ off && rising n (off + size) fs

theorem emitFrom_length (n : Nat) (fs : List Piece) : ∀ pos, rising n pos fs = true → (emitFrom n pos fs).length = n - pos ∧ pos ≤ n := by
  induction fs with
  | nil => intro pos h; simpa [emitFrom, rising] using h
  | cons x fs ih =>
    obtain ⟨off, size, v⟩ := x
    intro pos h
    simp only [rising, Bool.and_eq_true, decide_eq_true_eq] at h
    have := ih _ h.2
    have hl : (leBytes v size).length = size := by
      clear this h
      induction size generalizing v with
      | zero => rfl
      | succ m im => simp [leBytes, im]
    simp only [emitFrom, List.length_append, List.length_replicate, hl]
    omega

theorem pFrame_rising : rising frameBytes 0 (frameRecord (pFrame.core 0) (pFrame.core 0).theJob (pFrame.part (pFrame.core 0).theJob.part) 0
    (pFrame.epcsFor 0) (pFrame.tiles.filter fun t => (pFrame.core 0).tilesOut.contains t.id) ((pFrame.core 0).memq.filter MemOp.replays) []
    false false []) = true := by
  decide +kernel

theorem pFrame_length : (pFrame.frame 0).length = frameBytes := (emitFrom_length frameBytes _ 0 pFrame_rising).1

theorem pFrame_reach : ((linePieces (pFrame.core 0).tframe.toNat frameBytes).all fun x =>
    match pFrame.reach (pFrame.engineParty 0 .cc) (BitVec.ofNat 64 x.1) permW with
    | .ok pa => (locOf pa).isSome
    | _ => false) = true := by decide +kernel

theorem test_witness_TrapFrame : ∃ t, pFrame.writePhased (pFrame.engineParty 0 .cc) 0 (pFrame.core 0).tframe.toNat ((pFrame.frame 0).map fun b => (b, false)) = .ok t := by
  apply writePhased_ok
  · rfl
  · rw [List.length_map, pFrame_length]
    exact pFrame_reach

/-- `p` with its job at manager level; context 5, managed by context 0, runs on partition 1, whose only cluster is cluster 16; s1 = 5 and
s2 holds an entry of 4 KiB without V, s3 = 16. -/
def pm : State := on0 { p with
    ctxs := sinsert p.ctxs 5 { valid := true, mgr := 0, res := true, part := 1, state := .running, savebase := 0x20000000000 }
    parts := [(1, { valid := true, ctx := 5, ox := 0, oy := 1 })] } fun k =>
  { k with job := k.job.map (fun j => { j with level := 1 }), cc := { k.cc with s := [(1, 5), (2, 12 <<< 42), (3, 16)] } }

/-- The same in which context 5 stands otherwise. -/
def pmIs (st : CtxState) (inc : List Bump) : State := (pm.updCtx 5 fun x => { x with state := st }).updMem fun m => { m with bumps := inc }

/-- A pre-emption of core 0's partition that the core has received, and a checkpoint table of two entries at 0x200000. -/
def pCkpt : State := on0 { pFrame with cuffs := [{ part := 0, ctag := 0, t0 := 0, sends := [], acks := [0] }] } fun k =>
  { k with job := k.job.map fun j => { j with ckpt := 0x200000, ckptN := 2 } }

theorem test_witness_ControlRegisterWords : (∀ n ∈ [0, 4, 8, 0x10, 0x18, 0x24, 0x1E], p.acts 0x380 { z with imm := BitVec.ofNat 32 n })
    ∧ p.guard0 { z with imm := 5 } = true ∧ ¬ (5 ≤ 4 ∨ (8 ≤ 5 ∧ 5 ≤ 0x10) ∨ (0x18 ≤ 5 ∧ 5 ≤ 0x24))
    ∧ (∀ n ∈ [0, 1, 0x20, 0x21, 2, 3, 4], p.acts 0x381 { z with imm := BitVec.ofNat 32 n } ∧ p.guard0 { z with imm := BitVec.ofNat 32 n } = true)
    ∧ (∀ n ∈ [8, 16, 0x18, 0x24], pm.acts 0x381 { z with imm := BitVec.ofNat 32 n } ∧ pm.curCore.theJob.level ≠ 0 ∧ p.curCore.theJob.level = 0)
    ∧ pm.curCore.memq = [] ∧ pm.manages pm.curCore.theJob.ctx ((pm.opb { z with sb := 1 }).toNat % 1024) = true
    ∧ pm.manages pm.curCore.theJob.ctx ((pm.opb z).toNat % 1024) = false
    ∧ (∀ o ∈ [0x392, 0x1FD], p.acts o z ∧ p.preemptPending 0 = false ∧ p.curCore.theJob.ckpt = 0
        ∧ pCkpt.acts o { z with imm := 1 } ∧ pCkpt.preemptPending 0 = true ∧ pCkpt.curCore.theJob.ckpt ≠ 0 ∧ pCkpt.curCore.theJob.ckptN = 2) := by
  unfold State.acts; decide +kernel

theorem test_witness_CheckpointEntry : ∀ n ∈ [0, 1], ∃ bs, pCkpt.readVirt (pCkpt.engineParty 0 .cc) true permR (0x200000 + 64 * n) 64 = .ok bs
    ∧ ∀ b ∈ bs, b.2 = false := fun n hn => by
  rcases hn with _ | ⟨_, hn⟩
  · exact readVirt_ok _ _ _ _ _ (by decide +kernel)
  · rcases hn with _ | ⟨_, hn⟩
    · exact readVirt_ok _ _ _ _ _ (by decide +kernel)
    · cases hn

theorem test_witness_SystemWords : (∀ o ∈ [0x384, 0x386, 0x387, 0x388, 0x389, 0x38A, 0x38B, 0x38C, 0x38D, 0x385, 0x38E, 0x38F, 0x390, 0x391], pm.acts o { z with sa := 1 })
    ∧ pm.curCore.memq = [] ∧ (pm.opa { z with sa := 1 }).toNat % 1024 = 5 ∧ (pm.ctx 5).valid = true ∧ (pm.ctx 5).mgr = pm.curCore.theJob.ctx
    ∧ 5 ≠ pm.curCore.theJob.ctx ∧ (pm.ctx ((pm.opa z).toNat % 1024)).mgr = 0 ∧ (pm.opa z).toNat % 1024 = pm.curCore.theJob.ctx
    ∧ pm.atbwOk 0 5 (pm.opc { z with sc := 2 } ++ pm.opb z) = true ∧ pm.atbwOk 0 5 (pm.opc z ++ pm.opb z) = false
    ∧ (pm.opa { z with sa := 3 }).toNat % 64 = 16 ∧ pm.contextOfCluster 16 = some 5 ∧ pm.contextOfCluster 0 = none ∧ pm.guard0 z = true := by
  unfold State.acts; decide +kernel

theorem test_witness_SystemEffects : (pm.mem.bumps.find? fun u => u.ctx == 5 && !u.reclaimed).isSome = false
    ∧ ((pmIs .running [{ ctx := 5, inc := 1, done := [] }]).mem.bumps.find? fun u => u.ctx == 5 && !u.reclaimed).isSome = true
    ∧ (∀ v ∈ pm.mem.bumps, v.ctx ≠ 5) ∧ (pm.ctx 5).state = .running ∧ (pm.halt 1).raised = false ∧ (pm.ctx 5).savebase.toNat / 2 ^ 12 % 2 ^ 40 ≠ 0
    ∧ (∀ st ∈ [CtxState.empty, .stopped, .halted, .preempted], ((pmIs st []).ctx 5).state = st) ∧ (∀ f ∈ pm.cuffs, f.part ≠ 1)
    ∧ (pm.core 0).svcWait = false ∧ (pm.cluster 16).gated = false ∧ pm.clusterBusy 16 = false ∧ pm.clusterBusy 0 = true
    ∧ ((pm.updCluster 16 fun u => { u with gated := true }).cluster 16).gated = true ∧ pm.parkedDies.contains (dieOf 16) = false
    ∧ (pm.halt 1).kill = false ∧ ((pmIs .stopped []).mayWritePhys 0 0 (2 ^ 41) 128) = true := by decide +kernel

/-! ## Witnesses: copy, barrier and matrix words -/

/-- Bytes that stand, unpoisoned, for a number. -/
def okBytes (a : Acc (List PByte)) (v : Nat) : Bool :=
  match a with
  | .ok bs => bs.all (fun b => !b.2) && leNat (bs.map (·.1)) == v
  | .error _ => false

theorem okBytes_reads (a : Acc (List PByte)) (v : Nat) (h : okBytes a v = true) :
    ∃ bs, a = .ok bs ∧ (∀ b ∈ bs, b.2 = false) ∧ leNat (bs.map (·.1)) = v := by
  unfold okBytes at h
  split at h
  · rename_i bs
    simp only [Bool.and_eq_true, List.all_eq_true, beq_iff_eq] at h
    exact ⟨bs, rfl, fun b hb => by simpa using h.1 b hb, h.2⟩
  · cases h

/-- A packet that copies one row of 4 bytes, one that overlays tiles, a void packet, and a line buffer of 2 slots of 128 bytes at 0x1000. -/
def pktCopy : Nat := 0x10 + 4 * 2 ^ 192 + 2 ^ 224
def pktOverlay : Nat := pktCopy + 2 * 2 ^ 40
def recBuffer : Nat := 128 * 2 ^ 64 + 0x1000 * 2 ^ 128 + 128 * 2 ^ 160 + 2 * 2 ^ 192 + 2 ^ 224

/-- CX of `p`'s core issues; its scratchpad holds the records at 0, 64, 128 and 256, and zeros at 192 and 320; s1 = 128, s2 = 0xC00000. -/
def pX : State := on0 { p with cur := { p.cur with strm := .cx } } fun k => { k with
  cxs := { k.cxs with s := [(1, 128), (2, 0xC00000)] }
  sp := [(0, { full := true, data := BitVec.ofNat 1024 (pktCopy + pktOverlay * 2 ^ 512) }), (1, { full := true, data := 0xFF }),
    (2, { full := true, data := BitVec.ofNat 1024 recBuffer })] }

/-- The template of a scratchpad record at `n`. -/
def rec (n : Nat) : Tpl := { z with mod := 8, imm := BitVec.ofNat 32 n }

theorem test_witness_CopyWords : (∀ o ∈ [0x300, 0x30C, 0x306, 0x307, 0x309, 0x30A, 0x30B], pX.acts o z)
    ∧ (pX.curCore.roomFor 1 (pX.curCore.queueLen 1) = true ∧ pX.curCore.ranges.length < 32 ∧ pX.curCore.carveTo = none)
    ∧ (∀ q ∈ [(0, pktCopy), (64, pktOverlay), (128, 0xFF), (192, 0), (256, recBuffer), (320, 0)],
        (pX.ea (rec q.1)).toNat = q.1 ∧ okBytes (pX.readRecord 0 .cx true q.1 64) q.2 = true)
    ∧ (let fld := fun (p off n : Nat) => p / 2 ^ (8 * off) % 2 ^ (8 * n)
       (∀ p ∈ [pktCopy, pktOverlay], fld p 0 1 = 0x10 ∧ fld p 1 1 = 0 ∧ fld p 2 1 = 0 ∧ fld p 3 1 = 0 ∧ fld p 4 1 = 0 ∧ fld p 6 1 = 0 ∧ fld p 7 1 = 0
          ∧ fld p 0x10 8 = 0 ∧ fld p 0x18 4 = 4 ∧ fld p 0x1C 4 = 1 ∧ fld p 0x28 8 = 0 ∧ fld p 0x30 8 = 0 ∧ fld p 0x38 7 = 0)
       ∧ fld pktCopy 5 1 = 0 ∧ fld pktOverlay 5 1 = 2
       ∧ fld recBuffer 8 8 = 128 ∧ fld recBuffer 0x14 4 = 128 ∧ fld recBuffer 0x18 1 = 2 ∧ fld recBuffer 0x19 3 = 0 ∧ fld recBuffer 0x1C 4 = 1
       ∧ fld recBuffer 0x24 28 = 0 ∧ fld recBuffer 0x10 4 = 0x1000 ∧ 0x1000 + 2 * 128 ≤ spSize pX.curCore.theJob)
    ∧ (pX.guard0 z = true ∧ (pX.ea { z with imm := 1 }).toNat % 64 ≠ 0 ∧ (pX.opa { z with sa := 1 }).toNat = 128 ∧ (pX.opa { z with sa := 2 }).toNat = 0xC00000
      ∧ spSize pX.curCore.theJob ≤ 0xC00000 ∧ (pX.curCore.cx.queue.foldl (LineBuffer.after 0) (sfind pX.curCore.cx.lbs 0)).isNone = true)
    ∧ (let s := on0 pX fun k => { k with cx := { k.cx with lbs := [(3, { record := BitVec.ofNat 512 recBuffer, top := 0, held := false })] } }
       (s.curCore.cx.queue.foldl (LineBuffer.after 3) (sfind s.curCore.cx.lbs 3)).isSome = true)
    ∧ (pX.clearWay 0 64 matches .ok _) = true
    ∧ (match pX.unitAdd { pX.engineParty 0 .cx with slot := none } 64 1 with
       | .ok (s', i) => s'.admits 0 (energyClass 0x300 z) && s'.active 0x300 z && i == 0
       | .error _ => false) = true
    ∧ (on0 pX fun k => { k with job := k.job.map fun j => { j with qpcap := 0 } }).curCore.roomFor 1 0 = false
    ∧ (∀ i ∈ [(Instr.cpost (rec 0)), (.covl (rec 64)), (.lbset (rec 256)), (.fefill { z with sa := 1, imm := 1 }), (.feempty { z with sa := 1, imm := 1 })],
        nextIs (exec i pX) fun u => u.curCore.cx.queue.length == 1) := by
  unfold State.acts; decide +kernel

theorem test_witness_BarrierWords : pX.acts 0x30D z ∧ pX.acts 0x30E z
    ∧ ¬ 2 ^ 48 ≤ (sget {} (pX.cluster 0).bars 0).exp + 0 + (pX.opa { z with sa := 1 }).toNat
    ∧ (let s := pX.updCluster 0 fun q => { q with bars := [(0, { exp := 2 ^ 48 - 128 })] }
       2 ^ 48 ≤ (sget {} (s.cluster 0).bars 0).exp + (s.opa { z with sa := 1 }).toNat ∧ s.guard0 z = true ∧ (s.cluster 0).barAdds = [])
    ∧ (sget {} (pX.cluster 0).bars 0).gen = (pX.opa z).setWidth 16 ∧ (sget {} (pX.cluster 0).bars 0).gen ≠ (pX.opa { z with sa := 1 }).setWidth 16 := by
  unfold State.acts; decide +kernel

/-- MX of `p`'s core issues. -/
def pM : State := { p with cur := { p.cur with strm := .mx } }

/-- A command of the matrix engine. -/
def cmdOf (o seq : Nat) (t : Tpl) : MxCmd := { seq := seq, pc := 0x40, o := o, t := t, opa := 0, opb := 0, opc := 0, gtc := 0, stamp := none }

theorem test_witness_MatrixWords : (∀ o ∈ [0x200, 0x201, 0x202, 0x203, 0x204, 0x205, 0x206, 0x207, 0x208, 0x209, 0x20A, 0x20B, 0x20C, 0x20D, 0x20E,
      0x20F, 0x210, 0x211, 0x212], pM.acts o z ∧ pM.curCore.mx.scalarBusy (scalarCodes o z) = false)
    ∧ pM.curCore.roomFor 0 (pM.curCore.queueLen 0) = true ∧ (mxRanges 0x200 z pM).1 ≠ [] ∧ pM.curCore.ranges.length < 32
    ∧ (mxRanges 0x202 z pM).1 = [] ∧ (mxRanges 0x202 z pM).2 = []
    ∧ (on0 pM fun k => { k with mx := { k.mx with queue := [cmdOf 0x20A 0 { z with dst := 1 }] } }).curCore.mx.scalarBusy (scalarCodes 0x200 { z with sa := 1 }) = true
    ∧ ((on0 pM fun k => { k with carveTo := some 16 }).curCore.carveTo.isSome = true ∧ mxNamesSp 0x200 z = true ∧ mxNamesSp 0x202 z = false)
    ∧ (on0 pM fun k => { k with job := k.job.map fun j => { j with qpcap := 0 } }).curCore.roomFor 0 0 = false
    ∧ 32 ≤ (on0 pM fun k => { k with ranges := List.replicate 32 { stamp := 0, engine := .vx, seq := 0, reads := [], writes := [] } }).curCore.ranges.length := by
  unfold State.acts; decide +kernel

/-- One command in the queue of the matrix engine, at GTC 7. -/
def qM (c : MxCmd) : State := on0 { pM with gtc := 7 } fun k => { k with mx := { k.mx with queue := [c], nextSeq := 2 } }

/-- A near-memory product of one row and one column, in the page at address 0, whose only block has been answered by the base die. -/
def nM : State :=
  let n : Nmv := { seq := 4, pc := 0, cmd := cmdOf 0x211 4 z, tag := 9, a := 0, m := 1, k := 1, fmt := 0x01, asb := 64, lda := 16, scl := 0, y := 0, x := [0], add := [] }
  (on0 pM fun k => { k with mx := { k.mx with nmvs := [n] } }).updMem fun m => { m with
    bd := [{ stack := 0, port := 0, tag := 0, kind := 0, len := 0, addr := 0, mask := 0, ctag := 0, data := [], nmv := some (0, 4, 0), replied := true }] }

theorem test_witness_MatrixEvents : (r.core 0).mx.queue = [] ∧ ((qM (cmdOf 0x202 1 z)).core 0).mx.queue = [cmdOf 0x202 1 z]
    ∧ r.mxMayStart 0 = false ∧ (qM (cmdOf 0x202 1 z)).mxMayStart 0 = true ∧ (qM (cmdOf 0x202 1 z)).mxPast 0 (cmdOf 0x202 1 z) = false
    ∧ (qM (cmdOf 0x202 1 z)).tileAhead 0 0 = false
    ∧ (qM (cmdOf 0x202 1 z)).admits 0 (some ((cmdOf 0x202 1 z).energy ((qM (cmdOf 0x202 1 z)).core 0))) = true
    ∧ (match (qM (cmdOf 0x202 1 z)).mxTry 0 (cmdOf 0x202 1 z) with
       | .go q _ => q.pair == 0
       | _ => false) = true
    ∧ (let q : MxRun := { cmd := cmdOf 0x202 1 z, pipe := 0, occ := 1, land := 1, age := 1, reads := [], writes := [], out := {} }
       [q].find? (fun x => x.cmd.seq == 1) = some q ∧ q.landed = false ∧ q.land ≤ q.age ∧ q.pair = 0 ∧ q.out.rows = [] ∧ q.out.mismatch = false ∧ q.out.scalar = none)
    ∧ r.mxLate 0 = none
    ∧ (let h : MxCmd := { cmdOf 0x205 1 z with ready := some 0 }
       let s : State := { qM h with gtc := 2 ^ 20 }
       s.mxLate 0 = some h ∧ s.mxRuns 0 = true ∧ h.o ≠ 0x200)
    ∧ (let h : MxCmd := { cmdOf 0x200 1 { z with mod := 1 } with ready := some 0 }
       let s : State := { qM h with gtc := 2 ^ 20 }
       s.mxLate 0 = some h ∧ s.mxRuns 0 = true ∧ h.t.mod.toNat % 4 ∈ [1, 2] ∧ (s.core 0).fmtq = [])
    ∧ (let n := ((nM.core 0).mx.nmvs.head?).getD { seq := 0, pc := 0, cmd := cmdOf 0 0 z, tag := 0, a := 0, m := 0, k := 0, fmt := 0, asb := 0, lda := 0, scl := 0, y := 0, x := [], add := [] }
       n.seq = 4 ∧ 256 * 0 < n.m ∧ 0 ∉ n.done ∧ (∃ q ∈ nM.mem.bd, q.nmv = some (0, 4, 0) ∧ q.replied = true)
       ∧ (match (List.range (min 256 (n.m - 256 * 0))).mapM (fun i => nM.nmvResult 0 n (256 * 0 + i)) with
          | .ok ys => ys.all fun y => y.2 == none
          | .error _ => false) = true
       ∧ n.done.length + 1 = (n.m + 255) / 256) := by decide +kernel

/-! ## Witnesses: tile words and the word-level forms -/

/-- The descriptor of a kind over 64 rows, 64 columns and K of 64, without auxiliary record. -/
def descOf (kind : Nat) : Nat := kind + (if kind = 7 ∨ kind = 9 then 0 else 64 * 2 ^ 32 + 64 * 2 ^ 64 + (if kind ≤ 2 then 64 * 2 ^ 96 else 0))

/-- CC of `p`'s core issues; its scratchpad holds the descriptors of tmma, tkat, tbar and tsync at 0, 64, 128 and 192, and zeros at 320;
s1 names device 5, which link 2 reaches, of a domain of 8. -/
def pT : State := (on0 { p with links := [(2, { up := true, reaches := [5] })] } fun k => { k with
  cc := { k.cc with s := [(1, 5)] }
  sp := [(0, { full := true, data := BitVec.ofNat 1024 (descOf 0 + descOf 6 * 2 ^ 512) }),
    (1, { full := true, data := BitVec.ofNat 1024 (descOf 7 + descOf 9 * 2 ^ 512) }),
    (2, { full := true, data := BitVec.ofNat 1024 (8 + 2 ^ 8 + 3 * 2 ^ 24) })] }).updMem fun m => { m with devId := 1, domain := 8 }

theorem test_witness_TileWords : (∀ q ∈ [(0, 0), (6, 64), (7, 128), (9, 192)],
      (∀ m ∈ [9, 10, 11, 12], pT.acts (0x280 + q.1) { rec q.2 with mod := m }) ∧ (pT.ea (rec q.2)).toNat = q.2
      ∧ okBytes (pT.tileLoad 0 .cc pT.curCore.issueOrd true q.2) (descOf q.1) = true ∧ descCheck q.1 1 (BitVec.ofNat 512 (descOf q.1)) = none
      ∧ shapeCheck q.1 1 (BitVec.ofNat 512 (descOf q.1)) 0 = none)
    ∧ (pT.guard0 z = true ∧ pT.curCore.carveTo = none ∧ pT.curCore.roomFor 5 pT.curCore.tilesOut.length = true ∧ (pT.ea { z with imm := 1 }).toNat % 64 ≠ 0)
    ∧ ((pT.opb { z with sb := 1 }).toNat % 1024 = 5 ∧ (pT.opb { z with sb := 1 }).toNat % 1024 ≠ pT.mem.devId ∧ pT.reachable 5 = true ∧ pT.reachable 0 = false)
    ∧ okBytes (pT.tileLoad 0 .cc pT.curCore.issueOrd true 320) 0 = true ∧ (descCheck 1 1 0).isSome = true ∧ (shapeCheck 7 5 (BitVec.ofNat 512 (descOf 7)) 0).isSome = true
    ∧ okBytes (pT.tileLoad 0 .cc pT.curCore.issueOrd true 256) (8 + 2 ^ 8 + 3 * 2 ^ 24) = true ∧ pT.acts 0x288 (rec 256) ∧ descCheck 8 1 (BitVec.ofNat 512 (8 + 2 ^ 8 + 3 * 2 ^ 24)) = none
    ∧ (descCheck 8 1 0).isSome = true
    ∧ (on0 pT fun k => { k with tilesOut := [0, 1, 2, 3, 4, 5, 6, 7] }).curCore.roomFor 5 8 = false
    ∧ nextIs (exec (.tmma { rec 0 with mod := 9 }) pT) (fun u => u.tiles.length == 1 && u.curCore.tilesOut == [0]) = true := by
  unfold State.acts; decide +kernel

theorem test_witness_WordForms : (Latent.template p.cur.core p.cur.strm 3 true ∉ p.mem.latent ∧ Latent.template p.cur.core p.cur.strm 3 false ∉ p.mem.latent)
    ∧ (decodeOpc 0x3FF z).isNone = true ∧ streamAccepts p.cur.strm 0x100 = false ∧ isSupervisorOp 0x386 = true ∧ p.curCore.theJob.level = 0
    ∧ (badRegister p.curCore.theJob.regsl 0x100 { z with dst := 200 }).isSome = true ∧ ({ z with ext := 0xC0000000 } : Tpl).slice = 3
    ∧ (badRegister p.curCore.theJob.regsl 0x07E (unpackTpl (BitVec.ofNat 128 (0x07E * 2 ^ 118)))).isNone = true ∧ p.curCore.postHeld = false
    ∧ (decodeTpl (BitVec.ofNat 128 (0x07E * 2 ^ 118)) matches .ok (.nop _)) = true ∧ streamAccepts p.cur.strm 0x07E = true
    ∧ p.curStrm.stage = none ∧ Latent.template 0 .cc 3 true ∈ (p.updMem fun m => { m with latent := [.template 0 .cc 3 true] }).mem.latent := by
  decide +kernel

theorem test_witness_RegionCut : (0 < 64 ∧ 0 < 8) ∧ (let q : Region := { m0 := 0, m1 := 100, n0 := 0, n1 := 70, k0 := 0, k1 := 5 }
    q.m0 < q.m1 ∧ q.n0 < q.n1 ∧ q.k0 < q.k1 ∧ ((cutRegion 64 64 4 8 true q).2.2.2).length ≠ 0) := by decide +kernel

/-! ## Witnesses: events of tile instructions, copies and queues -/

/-- A node of a tile instruction. -/
def nodeOf (id : Nat) (parent : Option Nat) (level unit : Nat) (acc done : Bool) (red : List Nat) : TileNode :=
  { id := id, parent := parent, level := level, unit := unit, reg := { m0 := 0, m1 := 64, n0 := 0, n1 := 64, k0 := 0, k1 := 64 }, path := 0xFFFFFF
    accepted := acc, complete := done, reduces := red }

/-- An instruction 4 of a kind with some nodes. -/
def tileOf (kind : Nat) (ns : List TileNode) : TileIns :=
  { id := 4, core := some 0, ctx := 0, ctag := 0, part := 0, slot := none, node := 0, kind := kind, level := 1, desc := BitVec.ofNat 512 (descOf kind), aux := 0
    clusters := [0], nodes := ns }

/-- Memory with bytes put at offsets from `hb`. -/
def putBytes (m : Mem) (l : List (Nat × Nat)) : Mem := { m with bytes := l.foldl (fun b q => sset 0 b (hb + q.1) (BitVec.ofNat 8 q.2)) m.bytes }

/-- `p` whose context 0 has page tables: virtual 0 to 2^30 is physical from `hb`, with every permission. -/
def pW : State := (p.updMem fun m => { putBytes m [(0x40001000, 1), (0x40001001, 0x20), (0x40001003, 0x40), (0x40001005, 1),
    (0x40002000, 1), (0x40002001, 0x30), (0x40002003, 0x40), (0x40002005, 1), (0x40003000, 0x7F), (0x40003005, 1)] with acc := admits [0] }).updCtx 0
  fun x => { x with ptroot := BitVec.ofNat 64 (hb + 0x40001001) }

/-- `pW` with one tile instruction, where core 0 may access all of memory. -/
def tI (t : TileIns) : State := { (pW.updMem fun m => { m with acc := admits [0, 512, 576], tcache := { placeEntry 0 with size := 21, frame := hb } :: m.tcache }) with tiles := [t], nextTile := 5 }

/-- A result is there. -/
def isOk {ε α : Type} (o : Except ε α) : Bool :=
  match o with
  | .ok _ => true
  | .error _ => false

/-- A node may be accepted in a state. -/
def mayTake (s : State) (t : TileIns) (x : TileNode) : Bool :=
  s.tile 4 == some t && t.find x.id == some x && s.partRuns 0 && !s.unitPreempted 0 (tileUnit x.level x.unit) && !s.tileBehind t && !s.startsBehind t x
    && !s.storesAhead 0 t.ord && (s.chargeChild x).isSome && !x.accepted && x.reduces.isEmpty

/-- A node's work goes on in a state. -/
def mayWork (s : State) (t : TileIns) (x : TileNode) : Bool :=
  s.tile 4 == some t && t.find x.id == some x && x.accepted && !x.complete && s.partRuns 0 && !s.unitPreempted 0 (tileUnit x.level x.unit) && s.mayFinish t x

theorem test_witness_TileEvents : r.tile 4 = none
    ∧ (∀ q ∈ [(6, 1), (7, 1), (6, 2), (0, 2), (2, 3)], mayTake (tI (tileOf q.1 [nodeOf 0 none q.2 0 false false []])) (tileOf q.1 [nodeOf 0 none q.2 0 false false []])
        (nodeOf 0 none q.2 0 false false []) = true)
    ∧ (let t := tileOf 6 [nodeOf 0 none 2 0 true false [], nodeOf 1 (some 0) 1 0 false false []]
       mayTake (tI t) t (nodeOf 1 (some 0) 1 0 false false []) = true
       ∧ ((tI t).updCluster 0 fun c => { c with bucket := 0 }).chargeChild (nodeOf 1 (some 0) 1 0 false false []) = none
         ∨ sget 0 (tI t).power.weights (32 * (tI t).clusterTable 0 + 22) = 0)
    ∧ (tI (tileOf 6 [])).tileSplit (tileOf 6 [nodeOf 0 none 2 0 false false []]) (nodeOf 0 none 2 0 false false []) ≠ []
    ∧ (let t := tileOf 0 [nodeOf 0 none 2 0 false false []]
       (tI t).tileSplit t (nodeOf 0 none 2 0 false false []) ≠ [] ∧ isOk ((tI t).stageCluster t (nodeOf 0 none 2 0 false false [])) = true)
    ∧ (let t := tileOf 2 [nodeOf 0 none 3 0 false false []]
       isOk ((tI t).nmvSplit t (nodeOf 0 none 3 0 false false [])) = true)
    ∧ (let t := tileOf 0 [nodeOf 0 none 2 0 true false [], nodeOf 1 (some 0) 1 0 true true [], nodeOf 2 (some 0) 1 0 false false [1]]
       t.find 2 = some (nodeOf 2 (some 0) 1 0 false false [1]) ∧ ∀ j ∈ [1], ∃ y ∈ t.nodes, y.id = j ∧ y.complete = true)
    ∧ (let t := tileOf 7 [nodeOf 0 none 1 0 true false []]
       mayWork (tI t) t (nodeOf 0 none 1 0 true false []) = true ∧ ¬ (∃ j ∈ t.waits, ∃ u ∈ (tI t).tiles, u.id = j))
    ∧ (let t := tileOf 2 [nodeOf 0 none 3 0 true false [], nodeOf 1 (some 0) 0 0 true false []]
       mayWork (tI t) t (nodeOf 1 (some 0) 0 0 true false []) = true ∧ t.skips 0 0 = false)
    ∧ (let x : TileNode := { nodeOf 0 none 1 0 true false [] with reg := { m0 := 0, m1 := 1, n0 := 0, n1 := 1, k0 := 0, k1 := 1 }, started := true }
       let t := tileOf 5 [x]
       mayWork (tI t) t x = true ∧ (tI t).drawsBehind t = false
       ∧ (match (tI t).runLeaf t x with
          | .ok (u, y, _, b) => b && isOk (u.finishLines t y)
          | .error _ => false) = true)
    ∧ (let t := tileOf 0 [nodeOf 0 none 2 0 true false [], nodeOf 1 (some 0) 1 0 true true []]
       mayWork (tI t) t (nodeOf 0 none 2 0 true false []) = true)
    ∧ (tI (tileOf 6 [])).mem.staleAt (unitIngress 2) 0 = false ∧ (tI (tileOf 6 [])).mem.staleAt (unitIngress 2) 1 = true
    ∧ r.mem.check unitCrown (856 + 2) 0 0 permT = .denied unitCrown
    ∧ (r.updMem fun m => { m with acc := [(1024 * unitCrown + 858, admitAll)] }).mem.check unitCrown (856 + 2) 0 0 permT = .pass
    ∧ (let d := BitVec.ofNat 512 (descOf 6)
       let s : State := { pW with fabTiles := [{ link := 2, ctag := 0, desc := d, aux := 0, ret := 1 }] }
       s.mem.staleAt unitCrown 0 = false ∧ (s.ctx 0).res = true ∧ s.partRuns (s.ctx 0).part = true ∧ s.unitPreempted (s.ctx 0).part (tileUnit 4 0) = false
       ∧ elem d 8 0 < 8 ∧ descCheck (elem d 8 0) 4 d = none ∧ elem d 64 6 = 0 ∧ shapeCheck (elem d 8 0) 4 d 0 = none)
    ∧ (tI { tileOf 6 [] with remote := some 5 }).tileBehind { tileOf 6 [] with remote := some 5 } = false
    ∧ (tI { tileOf 6 [] with back := some (2, 1), done := true }).tiles.length = 1 := by decide +kernel

/-- One command in CX of `p`'s core. -/
def cX (q : CopyCmd) : State := on0 p fun k => { k with cx := { k.cx with queue := [q], nextSeq := q.seq + 1 } }

/-- A copy of 4 bytes from virtual 64 to the scratchpad, with the fields of a packet. -/
def cp (started complete : Bool) (done : Nat) : CopyCmd :=
  { seq := 3, pc := 0, kind := .copy (BitVec.ofNat 512 (pktCopy + 64 * 2 ^ 64 + 2 ^ 40)) false, started := started, done := done, complete := complete }

theorem test_witness_CopyEvents : (∀ q ∈ [cp false false 0, cp true false 0, cp true false 4, cp true true 4],
      ((cX q).cxOf 0).queue.find? (fun c => c.seq == 3) = some q ∧ (cX q).copyHeld 0 = false ∧ q.total = 4 ∧ q.cpa = 0)
    ∧ (cX (cp false false 0)).copyReady 0 (cp false false 0) = true ∧ (cX (cp true false 0)).copyReady 0 (cp true false 0) = false
    ∧ (∀ kd ∈ [CopyKind.fe true 0 2, .fe false 0 2, .lbset 1 (BitVec.ofNat 512 recBuffer), .halo 0 1 0 0 0 0 false false],
        (cX { cp false false 0 with kind := kd }).copyReady 0 { cp false false 0 with kind := kd } = true)
    ∧ (cX (cp true false 0)).admits 0 (some (16, 0)) = true ∧ (cX (cp false false 0)).mayOverlay 0 (cp false false 0) = true
    ∧ (let q : CopyCmd := { cp false false 0 with kind := .copy (BitVec.ofNat 512 (0x15 + 2 ^ 32 + 3 * 2 ^ 40)) true }
       (cX q).copyReady 0 q = true ∧ (cX q).enginesHeld 0 = false ∧ ((cX q).updMem fun m => { m with acc := [] }).mayOverlay 0 q = false)
    ∧ (let q : CopyCmd := { cp false false 0 with kind := .advance 1 1 0 false }
       let s := (cX q).updCore 0 fun k => { k with cx := { k.cx with lbs := [(1, { record := BitVec.ofNat 512 recBuffer, top := 0, held := false })] } }
       s.copyReady 0 q = true ∧ (sfind (s.core 0).cx.lbs 1).isSome = true)
    ∧ ((cX (cp true true 4)).cxOf 0).queue.all (fun q => !q.past) = true
    ∧ (match (cX (cp true false 0)).chunk 0 (cp true false 0) with
       | .ok (_, q) => q.done == 4
       | .error _ => false) = true
    ∧ (let q : CopyCmd := { cp true false 4 with kind := .copy (BitVec.ofNat 512 pktOverlay) true }
       (cX q).copyHeld 0 = false ∧ q.total ≤ q.done ∧ elem (BitVec.ofNat 512 pktOverlay) 8 5 = 2)
    ∧ ({ cX (cp false false 0) with halts := [(0, { raised := true })] } : State).enginesHeld 0 = true := by decide +kernel

/-- A post starts where its queue has room: the header of `pFrame`'s page is read. -/
theorem test_witness_PostRoom : (match pFrame.queueHeader (pFrame.copyParty 0 (cp false false 0)) 0x200000 with
    | .ok h => decide (0 < h.2.1 + 2 ^ h.2.2.2)
    | .error _ => false) = true := by decide +kernel

/-- `pW` with a queue of 2 slots whose header stands at 0x100 and whose slots stand from 0x200, the first complete, for a server. -/
def qS (server slot0 : Nat) : State :=
  { (pW.updMem fun m => putBytes m [(0x100, 1), (0x111, 2), (0x118, 1), (0x200, slot0), (0x218, 4), (0x21C, 1), (0x23F, 1)]) with
    queues := [(1, { hdr := 0x100, server := server, ctag := 0 })], nextQueue := 2 }

theorem test_witness_QueueEvents : (∀ n ∈ [1, 2, 3, 4], (qS n 0x10).queuesServed ((qS n 0x10).queue 1).ctag = true ∧ ((qS n 0x10).queue 1).server ≠ 0
      ∧ ((qS n 0x10).queue 1).busy = false)
    ∧ (r.queue 0).server = 0
    ∧ (match (qS 1 0x10).headerNow ((qS 1 0x10).queueParty 0) 0x100 with
       | .ok h => h == (1, 0, 0x200, 1)
       | .error _ => false) = true
    ∧ (∀ v ∈ [0x10, 0xFF], (match (qS 1 v).slotNow ((qS 1 v).queueParty 0) 0x200 1 0 with
       | .ok (some a) => elem a 8 0 == v && ((copyCheck a false true).isNone || v == 0xFF)
       | _ => false) = true)
    ∧ (match (qS 1 0x10).slotNow ((qS 1 0x10).queueParty 0) 0x200 1 1 with
       | .ok none => true
       | _ => false) = true
    ∧ (match (qS 1 0xFF).releaseNow ((qS 1 0xFF).queueParty 0) 0x108 (leBytes 1 8) with
       | .ok _ => true
       | .error _ => false) = true
    ∧ (let s := (pm.updMem fun m => { m with svc := [{ ctx := 0, hdr := 0x100, slot := 0, index := some 0 }] })
       (s.ctx 0).valid = true ∧ (s.ctx 7).valid = false ∧ s.mem.svc.length = 1)
    ∧ (let s : State := { p with queues := [(1, { hdr := 0, server := 3, ctag := 0, full := true })] }
       (s.queue 1).full = true ∧ (s.queue 1).noPool = false ∧ (s.ctx 0).tsegpool = 0
       ∧ ((s.updCtx 0 fun x => { x with tsegpool := 0x30000000000 }).ctx 0).tsegpool ≠ 0) := by decide +kernel

/-! ## Witnesses: events of cores and of the scheduler -/

/-- A pending result of CC into s1. -/
def pd (ord due : Nat) : Pend := { strm := .cc, ord := ord, dst := .scalar .cc 1, due := due, val := .word 5 }

/-- A node of context 0 in a state. -/
def nd (st : NodeState) : Node := { ctx := 0, queue := 0, seg := 0, idx := 0, r := { nodeid := 7, hi := 8 }, remain := 0, st := st }

/-- An operating point of 5 W and of a duration. -/
def opt (i dur : Nat) : OpPoint := { index := i, ratio := 0, div := 6, nclu := 1, launch := 0, dur := dur, power := 5 }

/-- A launch header that has been read, with grain 2. -/
def lh : Launch := { header := 0, flags := 0, nfield := 1, regsl := 1, l1sl := 16, rings := 0, fw := [], pt := [], grain := 2, entry := [0, 0x40], tt := [], ckpt := 0, ckptN := 0 }

/-- Run 0 of a node on cluster 0. -/
def run0 : Run := { num := 0, slot := 0, clusters := [0] }

/-- `p` with nodes of its context, core 0 idle. -/
def nS (l : List Node) : State := { (on0 p fun k => { k with job := none }) with nodes := l }

theorem test_witness_CoreEvents : (on0 p fun k => { k with pend := [pd 0 0], cycleOpen := true }).curCore.lands (pd 0 0) = true
    ∧ (let s := on0 p fun k => { k with pend := [pd 0 0, pd 1 0], cycleOpen := true }
       (pd 0 0).ord < (pd 1 0).ord ∧ s.curCore.pend = [pd 0 0, pd 1 0] ∧ s.curCore.lands (pd 1 0) = true)
    ∧ p.timersDue 0 = false ∧ (on0 p fun k => { k with cc := { k.cc with armed := true } }).timersDue 0 = true
    ∧ p.curCore.stall < 65536 ∧ (on0 p fun k => { k with stall := 65536, poolHold := 4096 }).curCore.stall = 65536
    ∧ p.fetchDue 0 .cc = false ∧ (on0 p fun k => { k with cc := { k.cc with fetching := false } }).fetchDue 0 .cc = true
    ∧ p.curCore.theJob.tt.getD StreamId.cc.code 0 = 0
    ∧ (let s := on0 pFrame fun k => { k with job := k.job.map (fun j => { j with tt := [0x200000, 0x200000] }), cc := { k.cc with fetching := false } }
       s.fetchDue 0 .cc = true ∧ s.curCore.theJob.tt.getD StreamId.cc.code 0 = 0x200000)
    ∧ p.mayRetire 0 = false ∧ (on0 p fun k => { k with cc := { k.cc with ended := true } }).mayRetire 0 = true
    ∧ (on0 p fun k => { k with retiring := true }).curCore.job.isSome = true
    ∧ p.curCore.asks = none ∧ r.findNode 0 7 = none
    ∧ (let n := { nd .dispatched with runs := [{ run0 with tasks := [{ lo := 0, hi := 8, cluster := 0 }] }], launch := some lh }
       let s := nS [n]
       s.findNode 0 7 = some n ∧ s.dispatches 0 = true ∧ n.runs.any (fun q => s.serves n q 0 && (q.firstTask 0).isSome) = true)
    ∧ (let n := { nd .dispatched with runs := [run0], launch := some lh }
       let s := (nS [n]).updCore 1 fun k => { k with job := some { node := 7 }, range := { lo := 0, hi := 8, grain := 2, lo0 := 0, hi0 := 8 } }
       s.largestRange n 0 0 = some (1, 8) ∧ run0.firstTask 0 = none ∧ s.serves n run0 0 = true)
    ∧ (on0 p fun k => { k with carveTo := some 16 }).curCore.carveQuiet = true ∧ p.curCore.carveTo = none
    ∧ (on0 p fun k => { k with carveTo := some 16, mx := { k.mx with queue := [{ seq := 1, pc := 0, o := 0x200, t := z, opa := 0, opb := 0, opc := 0, gtc := 0, stamp := none }] } }).curCore.carveQuiet = false
    ∧ r.sweepDue 0 = false ∧ (on0 r fun k => { k with suspect := true }).sweepDue 0 = true := by decide +kernel

theorem test_witness_TemplateImage : ∃ bs, pFrame.readVirt (pFrame.engineParty 0 .cc) true permR 0x200000 1024 = .ok bs ∧ ∀ b ∈ bs, b.2 = false :=
  readVirt_ok _ _ _ _ _ (by decide +kernel)

/-- Of two points of one power, the shorter comes first where it stands first; a deadline of 5 excludes the longer; 0 W fits nothing. -/
theorem test_witness_PointChoice : choosePoint [opt 0 4, opt 1 9] 0 0 (100 * wattUnit) = some (opt 0 4, false, false)
    ∧ choosePoint [opt 0 9, opt 1 4] 0 5 (100 * wattUnit) = some (opt 1 4, false, false)
    ∧ choosePoint [opt 0 4, opt 1 9] 0 0 0 = some (opt 0 4, true, false)
    ∧ choosePoint [opt 0 9, opt 1 6] 0 5 (100 * wattUnit) = some (opt 1 6, false, true)
    ∧ (let l := [opt 0 4, opt 1 9]
       l = [] ++ opt 0 4 :: [opt 1 9] ∧ ∀ q ∈ [opt 1 9], (opt 0 4).power * (opt 0 4).dur ≤ q.power * q.dur) := by decide +kernel

theorem test_witness_GraphEvents : (∀ st ∈ [NodeState.waiting, .ready, .dispatched, .retiring], (nS [nd st]).findNode 0 7 = some (nd st))
    ∧ ((nS []).ctx 0).state = .running ∧ (nS []).dispatches 0 = true ∧ ((nS []).halt 0).raised = false
    ∧ (let n := { nd .ready with points := some [opt 0 4] }
       let s := nS [n]
       let t := s.updNode 0 7 fun m => { m with points := some [opt 0 4], sel := false, point := none }
       s.findNode 0 7 = some n ∧ t.blockedByWait n = false
       ∧ (choosePoint ([opt 0 4].map t.usedPoint) t.gtc n.r.deadline.toNat (t.headroom 0)).isSome = true)
    ∧ (let n := { nd .ready with points := some [opt 0 4], waits := some (opt 0 4) }
       let t := (nS [n]).updNode 0 7 fun m => { m with points := some [opt 0 4], sel := false, point := none }
       t.blockedByWait n = false)
    ∧ ((nd .ready).points = none ∧ (match (nS [nd .ready]).readNow ((nS [nd .ready]).schedParty 0) permR 0 128 with
         | .error _ => true
         | .ok _ => false) = true)
    ∧ ((nd .ready).priority < 7 ∧ 14000000 ≤ ({ nS [nd .ready] with gtc := 14000000 } : State).gtc)
    ∧ (let n := { nd .ready with point := some (opt 0 4), launch := some lh }
       n.r.kind ≠ 1 ∧ ((nS [n]).planRuns n (opt 0 4)).isSome = true ∧ n.flags.testBit 0 = false)
    ∧ (let n := { nd .ready with point := some { opt 0 4 with launch := 1 } }
       n.launch = none ∧ (1 : W64).toNat % 256 ≠ 0)
    ∧ ({ nd .ready with r := { nodeid := 7, attr := 1 }, point := some (opt 0 4) } : Node).r.kind = 1
    ∧ (let n := { nd .dispatched with runs := [run0] }
       let s := nS [n]
       s.runFinished n run0 = true ∧ n.status = none ∧ (s.commitStaged n 0 (s.stagedOf 0 0)).2 = true)
    ∧ (let a := run0
       let b := { run0 with num := 1, slot := 1 }
       let n := { nd .dispatched with runs := [a, b], flags := 4 }
       let s := nS [n]
       n.flags.testBit 2 = true ∧ s.runFinished n a = true ∧ s.runFinished n b = true ∧ s.sameStaged 0 a.slot b.slot = true)
    ∧ (let v := fun (slot : Nat) (d : LineData) => ({ owner := .staged 0 slot, line := 4, mask := 1, data := d, ctag := 0, va := 512, pa := placePa + 512 } : Version)
       let n := { nd .dispatched with runs := [run0, { run0 with num := 1, slot := 1 }, { run0 with num := 2, slot := 2 }], flags := 4 }
       let s := (nS [n]).updMem fun m => { m with vers := [v 0 1, v 1 2, v 2 3] }
       s.sameStaged 0 0 2 = false ∧ s.sameStaged 0 1 2 = false ∧ s.sameStaged 0 0 1 = false)
    ∧ (let n := { nd .waiting with remain := 1 }
       (nS [n]).findNode 0 7 = some n ∧ 0 < n.remain)
    ∧ (nS []).early.length < 64 ∧ (nS []).findNode 0 7 = none
    ∧ (0, 7, RollCause.poison) ∈ ({ nS [nd .ready] with rollbacks := [(0, 7, .poison)] } : State).rollbacks := by decide +kernel

/-! ## Witnesses: events of memory, contexts, links, halts and pre-emption -/

/-- Request 3 of core 0 to virtual 64, which is `placePa + 64`. -/
def rq (k : ReqKind) (st : Stage) : Req :=
  { id := 3, master := 0, ctag := 0, strm := .cc, ord := 0, va := 64, pa := placePa + 64, line := lineOf (placePa + 64), kind := k, stage := st, part := 0
    slot := none, node := 0, mask := 1, data := 0xAB }

/-- `pW` with one request. -/
def mS (q : Req) : State := pW.updMem fun m => { m with reqs := [q], nextReq := 4 }

/-- `p`'s walk of page 0 for cluster 0, discarded or not. -/
def wk (d : Bool) : Walk := { unit := 0, ctag := 0, va := 0, waiters := [], discard := d }

/-- A base-die request of kind `k` that waits for a tag. -/
def bdr (k : Nat) : BdReq := { stack := 2, port := 3, tag := 8, kind := k, len := 0, addr := 4, mask := 0, ctag := 0, data := [] }

theorem test_witness_MemoryEvents : p.mem.findReq 3 = none
    ∧ (∀ k ∈ [ReqKind.fill, .read, .write, .prefetch true, .atomic (.cas 0 1 8)], ∀ st ∈ [Stage.home, .reply, .arrived, .notice, .dirty],
        (mS (rq k st)).mem.findReq 3 = some (rq k st) ∧ (mS (rq k st)).mem.reqReady (rq k st) = true)
    ∧ (match destOf pW.mem (placePa + 64) with
       | .dram loc => pW.mem.check (homeOf loc) 0 0 (placePa + 64) (permR + permW + permA) == .pass
           && pW.mem.check (homeOf loc) 1 0 (placePa + 64) permR == .denied (homeOf loc) && !pW.mem.staleAt (homeOf loc) 0 && pW.mem.staleAt (homeOf loc) 1
       | _ => false) = true
    ∧ pW.mem.prots = [] ∧ (rq .write .home).epoch ≠ some (pW.epochOf 0) ∧ ({ rq .write .home with epoch := some (pW.epochOf 0) } : Req).epoch = some (pW.epochOf 0)
    ∧ lineOf (rq .write .home).pa = (rq .write .home).line ∧ poisonHit (pW.mem.linePoison (rq .write .home).line) (rq .write .home).pa 8 = false
    ∧ (destOf pPeer.mem (2 ^ 43 + 3 * 2 ^ 35) matches .peer 5 0) = true ∧ pPeer.linkFor 5 (2 ^ 43 + 3 * 2 ^ 35) = none
    ∧ pW.mem.staleAt (unitCore 0) 0 = false ∧ pW.mem.staleAt (unitCore 0) 1 = true ∧ pW.curCore.l1 = []
    ∧ pW.mem.staleAt (unitWalker (dieOf (clusterOf 0))) 0 = false
    ∧ (pW.dirtyWalk (clusterOf 0) 0 64 3).isSome = true
    ∧ ((pW.updMem fun m => { putBytes m [(0x40003000, 0x3F)] with logWait := [9] }).updCtx 0 fun x => { x with dlogbase := 1 }).dirtyWalk (clusterOf 0) 0 64 3 = none
    ∧ (let w : AtWrite := { id := 1, master := 5, entry := admitAll, done := [] }
       [w].find? (fun w => !w.done.contains 0) = some w ∧ isTarget 0 = true)
    ∧ (∀ d ∈ [true, false], (pW.updMem fun m => { m with walks := [wk d] }).mem.walks.find? (fun w => w.unit == 0 && w.va == 5 &&& ~~~ 0xFFF) = some (wk d))
    ∧ (pW.walk (walkMaster 0) 0 0 matches .leaf _ _ _ _ _) = true ∧ (p.walk (walkMaster 0) 0 0 matches .bad _ _) = true
    ∧ (∀ k ∈ [0, 1, 2, 4], (let s := pW.updMem fun m => { m with bd := [bdr k] }
       s.mem.bd.find? (fun b => b.stack == 2 && b.port == 3 && b.tag == 8) = some (bdr k) ∧ s.mem.freeBdTag 2 3 0 = some 0 ∧ s.gtc = 0
         ∧ s.mem.staleAt (unitBaseDie 2) 0 = false ∧ (s.fetchStops (bdr k)).isNone = true))
    ∧ (pW.updMem fun m => { m with walks := [wk false] }).mem.walkHeld (wk false) = true
    ∧ (∀ st ∈ [Stage.reply, .arrived], (mS (rq .read st)).egressOf (rq .read st) = none)
    ∧ pW.stageFull 0 none (rq .write .home).line = false := by decide +kernel

theorem l2Shed_empty (s : State) (h : s.mem.l2 = []) : s.l2Shed = s.drawn := by
  unfold State.l2Shed
  split
  · rfl
  · simp [h]

/-- A request to LPDDR6 where L2 holds nothing: L2 misses, and the controller admits it. -/
theorem test_witness_MemoryAllowed : ∀ k ∈ [ReqKind.fill, .read, .write, .atomic (.cas 0 1 8)],
    let s := (mS (rq k .home)).updMem fun m => { m with l2 := [] }
    destOf s.mem (rq k .home).pa = .dram (placePa + 64) ∧ s.mem.check (homeOf (placePa + 64)) 0 0 (placePa + 64) k.need = .pass
    ∧ (s.l2Shed.mem.l2Misses (placePa + 64) k.need = true →
      2 ^ 41 ≤ placePa + 64 ∧ s.l2Shed.mem.dramCheck (placePa + 64) 0 0 (placePa + 64) k.need = .pass) := by
  intro k hk
  refine ⟨?_, ?_, fun hm => ⟨by decide, ?_⟩⟩
  · revert k; decide +kernel
  · revert k; decide +kernel
  · rw [l2Shed_empty _ rfl]; clear hm; revert k; decide +kernel

/-- A bump of context 5 that every table but unit 0's holds. -/
def bp (reclaimed : Bool) : Bump := { ctx := 5, inc := 1, done := (List.range 755).map (· + 1), reclaimed := reclaimed }

/-- `pm` with the bump in progress, and with context 5's fabric set. -/
def bS (reclaimed : Bool) : State := (pm.updMem fun m => { m with bumps := [bp reclaimed] }).updCtx 5 fun x => { x with fabset := [6] }

/-- `pm` whose CC holds a write of parameter `n` of context 5 that has come to its write. -/
def wS (n : Nat) : State := on0 pm fun k => { k with cc := { k.cc with
  hold := some { strm := .cc, ord := 0, pc := 0, kind := .none, hold := some (.system 0x381 0 0 0 0 1 [n, 5]) } } }

theorem test_witness_ContextEvents : (∀ n ∈ [0x1C, 0x1D, 0x1E, 0x1F, 0x23, 0x1A, 0x1B, 0x22],
      (wS n).paramHolds.find? (fun h => [n].contains h.2.2.1 && h.2.2.2.1 == 5) = some (0, .cc, n, 5, 0))
    ∧ ((pm.ctx 5).setParam 0x1C 0).isSome = true ∧ ((pm.ctx 5).setParam 0x23 5).isNone = true ∧ ((pm.ctx 5).setParam 0x23 6).isSome = true := by decide +kernel

theorem test_witness_Bumps : (∀ b ∈ [true, false], (bS b).mem.bumps.find? (fun b => b.ctx == 5 && !b.done.contains 0) = some (bp b))
    ∧ ((bS false).ctx 5).fabset.contains 6 = true ∧ ((bS false).ctx 5).fabset.contains 7 = false
    ∧ (bS false).mem.bumps.find? (fun b => b.ctx == 5 && !b.reclaimed) = some (bp false)
    ∧ pm.links = [] ∧ pm.reclaimReady 5 = false
    ∧ (pm.ctx 5).valid = true ∧ pm.mem.bumps = [] ∧ (r.ctx 5).valid = false := by decide +kernel

/-- `pm` where every table holds the bump of context 5, which was shed. -/
def sS : State := (pm.updMem fun m => { m with bumps := [{ bp false with done := List.range 756 }] }).updCtx 5 fun x => { x with shed := true }

theorem test_witness_Reclaim : sS.reclaimReady 5 = true := by
  have h1 : sS.pendingBump 5 = some { bp false with done := List.range 756 } := by decide +kernel
  have h2 : ((List.range unitCount).all fun u => sS.inFlight u 5 (bit (1 - 1 : BitVec 6) 0) == 0) = true := by decide +kernel
  have h3 : (sS.ctx 5).fabset = [] ∧ (sS.ctx 5).shed = true := by decide +kernel
  have h4 : Bump.onDevice { bp false with done := List.range 756 } = true := by simp [Bump.onDevice, unitCount]
  have h5 : sS.drained { bp false with done := List.range 756 } = true := by
    simp only [State.drained, h4, Bool.true_and, Bool.and_eq_true]
    exact ⟨h2, by simp [bp, h3]⟩
  simp [State.reclaimReady, h1, h5, h3]

theorem test_witness_LinkEvents : (r.link 2).up = false ∧ (pT.link 2).up = true ∧ (pT.link 2).resync = false
    ∧ (let s : State := { pT with links := [(2, { up := true, resync := true, fails := 17, next := 4 })] }
       (s.link 2).up = true ∧ (s.link 2).resync = true ∧ 16 < (s.link 2).fails ∧ (s.link 2).next = 4) := by decide +kernel

/-- `p` with a raised halt line on partition 0. -/
def hS (h : Halt) : State := { p with halts := [(0, { h with raised := true })], parts := [(0, { valid := true, ctx := 0 })] }

/-- A pre-emption of partition 0. -/
def cf : Cuff := { part := 0, ctag := 0, t0 := 0, sends := [], acks := [0, 512] }

theorem test_witness_HaltEvents : ((hS {}).haltUnits 0).find? (fun u => u.1 == coreSource 0 1) = some (coreSource 0 1, some (0, .cc))
    ∧ ((hS {}).halt 0).raised = true ∧ ((hS {}).halt 0).kill = false ∧ coreSource 0 1 ∉ ((hS {}).halt 0).stopped
    ∧ (hS {}).unitAtStop (some (0, .cc)) = true
    ∧ (let s := on0 (hS {}) fun k => { k with mxs := { k.mxs with started := true } }
       (s.haltUnits 0).find? (fun u => u.1 == coreSource 0 4) = some (coreSource 0 4, some (0, .mx)) ∧ s.unitAtStop (some (0, .mx)) = true)
    ∧ (let f : StopRec := { src := coreSource 0 1, code := 5 }
       ((hS { faults := [f] }).halt 0).faults.filter (fun q => q.src == coreSource 0 1) = [f]) := by decide +kernel

theorem test_witness_HaltCompletion : p.allStopped 0 = false ∧ (hS { stopped := [coreSource 0 1] }).allStopped 0 = true ∧ (hS { stopped := [coreSource 0 1], pstop := true }).allStopped 0 = true
    ∧ (p.ctx 0).res = true ∧ (∀ f ∈ p.cuffs, 0 ∉ f.acks) := by decide +kernel

theorem test_witness_Preemption : (let s : State := { p with cuffs := [cf], gtc := 2 ^ 30 }
       s.cuffOf 0 = some cf ∧ (s.core 0).atUnits = false ∧ cf.t0 + (s.ctx 0).ckwd.toNat ≤ s.gtc ∧ (s.core 0).saveOp = none
       ∧ s.engineStopped 0 false = false)
    ∧ (let s : State := { p with cuffs := [{ cf with full := [0] }] }
       s.engineStopped 0 true = true)
    ∧ (let s : State := { (on0 p fun k => { k with saveOp := some { strm := .cc, ord := 0, pc := 0, kind := .none, stage := 4 } }) with cuffs := [cf] }
       s.cuffOf 0 = some cf ∧ 0 ∉ cf.sends ∧ 0 ∉ cf.saved ∧ (s.core 0).saveOp.isSome = true)
    ∧ (let f : Cuff := { cf with saved := [0] }
       let s : State := { p with cuffs := [f] }
       s.mayAck cf 0 = false ∧ s.mayAck f 0 = true ∧ f.acks.any (· != 0) = true
       ∧ (let g : Cuff := { f with acks := [0] }
          ({ p with cuffs := [g] } : State).mayAck g 0 = true ∧ g.acks.all (· == 0) = true ∧ g.park = false)) := by decide +kernel

theorem test_witness_MachineChecks : r.nodesServed 1 0 = [] ∧ (r.ctx 0).mgr ≠ 1024
    ∧ ({ (on0 p fun k => { k with job := k.job.map fun j => { j with node := 7 } }) with nodes := [nd .dispatched] } : State).nodesServed 1 0 = [(0, 7)] := by
  decide +kernel

/-- R447: a wake of a gated cluster completes 50 µs, 350,000 ticks, after it begins; a second write does not move that. -/
theorem test_wake_bound :
    ((({ gated := true } : Cluster).wakeUp 5).wakeUp 9).wakeBy = 350005 ∧ (({} : Cluster).wakeUp 5).waking = false := by decide

/-- R445: a manager's pre-emption that park joins stays one, and its context counts as parked. -/
theorem test_park_joins :
    ((({ r with cuffs := [cf] } : State).preempt 0 true).cuffs.map (·.park)) = [true]
      ∧ ((({ r with cuffs := [cf] } : State).preempt 0 false).cuffs.map (·.park)) = [false] := by decide +kernel

/-! ## Witnesses: power, host, firmware, stepping -/

/-- A curve of one segment from GTC 0 to 2^40: 1200 W, grade `g`. -/
def cv (g : Nat) : Curve := { seq := 1, vfrom := 0, vto := 2 ^ 40, segs := [{ start := 0, limit := 1200, ramp := 0, grade := g }] }

/-- The power state changed, at a GTC. -/
def pwS (s : State) (gtc : Nat) (f : Power → Power) : State := { s with gtc := gtc, power := f s.power }

theorem test_witness_PowerEvents : (pwS r 0 fun w => { w with pending := some (cv 0) }).power.pending = some (cv 0) ∧ r.power.pending = none
    ∧ (cv 0).vfrom ≤ 0 ∧ (cv 0).vto ≤ 2 ^ 40 ∧ (pwS r 0 fun w => { w with curve := some (cv 0) }).power.curve = some (cv 0)
    ∧ ((1 : Nat) % 70000 ≠ 0 ∧ 70000 % 70000 = 0 ∧ r.power.stepped ≠ some 70000 ∧ r.power.measured ≠ some 70000)
    ∧ (7000000 % 7000000 = 0 ∧ (7000000 : Nat) ≠ 0 ∧ (pwS r 7000000 fun w => { w with measured := some 7000000 }).power.windowed = none)
    ∧ r.power.grade = r.power.wantGrade 0 ∧ (∀ g ∈ [1, 2, 3], (pwS r 0 fun w => { w with curve := some (cv g) }).power.wantGrade 0 = g)
    ∧ (p.ctx 0).res = true ∧ (0, p.ctx 0) ∈ p.ctxs ∧ p.runsEssential 0 = false
    ∧ field ((p.updCtx 0 fun x => { x with savebase := 0x1000 }).ctx 0).savebase 12 40 ≠ 0
    ∧ ((r.updCluster 3 fun u => { u with restart := some 0, limited := true }).cluster 3).limited = true ∧ (r.cluster 3).limited = false
    ∧ ((r.updCluster 3 fun u => { u with gated := true, waking := true }).cluster 3).waking = true
    ∧ (let s := pwS r 0 fun w => { w with grade := 2 }
       2 ≤ s.power.grade ∧ s.dieIdle 0 = true ∧ 0 ∉ s.parkedDies) ∧ p.dieIdle 0 = false := by decide +kernel

/-- Queue pair 5 is bound to context 0, and its requests and those of link 2 are admitted everywhere; a command of firmware stands. -/
def hostS : State := { (p.updMem fun m => { m with acc := ((List.range 84).flatMap fun h => [(1024 * h + 605, admitAll), (1024 * h + 858, admitAll)])
  ++ [(1024 * 94 + 858, admitAll)] }) with fw := { p.fw with qps := [(5, 0)] } }

theorem test_witness_HostEvents : (5 < 256 ∧ sfind hostS.fw.qps 5 = some 0 ∧ sfind hostS.fw.qps 6 = none ∧ (0 : Nat) % 8 = 0)
    ∧ ctagOf 0 (hostS.mem.curAt (unitEndpoint (5 / 128)) 0) = 0
    ∧ (match destOf hostS.mem placePa with
       | .dram loc => hostS.mem.checkAt loc 605 0 placePa (permR + permW + permA) == .pass && p.mem.checkAt loc 605 0 placePa permR == .denied (homeOf loc)
           && hostS.mem.checkAt loc 858 0 placePa (permR + permW + permA) == .pass && hostS.mem.checkAt loc 605 1 placePa permR == .stale (homeOf loc)
           && !poisonHit (hostS.mem.linePoison (loc / 128)) loc 8
           && poisonHit ((hostS.updMem fun m => { m with poison := [loc / 32] }).mem.linePoison (loc / 128)) loc 8
       | _ => false) = true
    ∧ hostS.mem.check (unitIngress 2) 858 0 placePa (permR + permW + permA) = .pass ∧ p.mem.check (unitIngress 2) 858 0 placePa (peerNeed (.read 8)) = .denied (unitIngress 2)
    ∧ hostS.mem.staleAt (unitIngress 2) 1 = true ∧ placePa % 128 + 8 ≤ 128
    ∧ hostS.qpStopped 5 = false ∧ hostS.fw.hostHeld = []
    ∧ (hostS.updMem fun m => { m with bumps := [{ ctx := 0, inc := 1, done := [] }] }).qpStopped 5 = true := by decide +kernel

/-- The slot of a command whose payload of `n` bytes stands at `placePa`. -/
def cmdSlot (k n : Nat) : BitVec 512 := BitVec.ofNat 512 (0x40 + k * 256 + placePa * 2 ^ 64 + n * 2 ^ 128)

theorem test_witness_FirmwareCommands : (∀ q ∈ [(1, 0), (2, 32), (3, 64), (4, 136), (5, 24), (6, 32), (7, 24), (8, 16), (9, 24), (10, 16), (11, 32), (12, 8),
      (14, 16), (15, 8), (16, 8), (17, 0)],
      (let w := (cmdSlot q.1 q.2).toNat
       w % 256 = 0x40 ∧ w / 2 ^ 8 % 256 = q.1 ∧ w / 2 ^ 16 % 2 ^ 48 = 0 ∧ w / 2 ^ 256 = 0 ∧ w / 2 ^ 64 % 2 ^ 64 = placePa ∧ w / 2 ^ 128 % 2 ^ 64 = q.2)
      ∧ (p.fwRead placePa q.2).isSome = true)
    ∧ p.fw.recovery = false ∧ ({ p with fw := { p.fw with cmds := [{ slot := cmdSlot 5 24 }] } } : State).fw.cmds.head? = some { slot := cmdSlot 5 24 }
    ∧ p.fwRead (2 ^ 43) 8 = none ∧ (cmdSlot 18 0).toNat / 2 ^ 8 % 256 = 18 ∧ (0xFF : BitVec 512).toNat % 256 = 0xFF := by decide +kernel

/-- The payload of TABLES. -/
theorem test_witness_TablesPayload : (p.fwRead placePa 4048).isSome = true := by decide +kernel

/-- The word placed in `p` is found; at the edge of a tick there is nothing due and nothing from outside, or an event is. -/
theorem test_witness_StepRunsDecoded : p.phase = .issue ∧ p.turn = [(0, .cc, 0)] ∧ (p.openCycle 0).mayIssue 0 .cc = true
    ∧ (match (p.openCycle 0).fetchWord 0 .cc 0 with
       | .ok w => w == 0x01000000 && wordsOf w == 1
       | _ => false) = true
    ∧ (decodeForm 0 0xFF000005 [0, 0, 0, 0] matches .ok _) = true ∧ wordsOf 0xFF000005 = 5 ∧ field (0xFF000005 : W32) 24 2 ≠ 0
    ∧ issueCheck .cc p.curCore.theJob (amend 0 0 0 0) = none ∧ (p.updCurStrm fun x => { x with annul := 1 }).curStrm.isAnnulled = true
    ∧ ({ p with turn := [(0, .mx, 0)] } : State).turn = [(0, .mx, 0)] ∧ ({ p with turn := [] } : State).phase = .issue
    ∧ ({ p with phase := .finish } : State).phase = .finish
    ∧ (let s : State := { r with agenda := [(0, .warmReset)], power := { r.power with stepped := some 0 } }
       s.phase = .edge ∧ s.due.isNone = true ∧ s.external = some (0, .warmReset))
    ∧ r.phase = .edge ∧ r.due.isSome = true := by decide +kernel

theorem test_witness_DecodeEncode : (Instr.add { z with mod := 3, dst := 63, imm := 0xFFFFFFFF }).wf = true ∧ encode (.add z) ≠ [] := by decide +kernel

theorem test_witness_StepKeepsMemory : p.mem.wf = true ∧ nextIs (step p) (fun t => t.mem.wf) = true := by decide +kernel

theorem test_witness_MemoryReadsBack : p.mem.wf = true ∧ (p.mem.writeLine 5 1 0xAB 0).byte 640 = 0xAB ∧ (5 : Nat) < 128 := by decide +kernel

/-! ## Instructions and operations on the spec's worked cases -/

/-- What a word sends, when it issues in a state. -/
def sent (i : Instr) (s : State) : Option Val :=
  match exec i s with
  | .next u => (u.curCore.pend.getLast?).map (·.val)
  | _ => none

/-- CC with opa in s1 and opb in s2. -/
def ab (a b : W64) : State := regs .cc [(1, a), (2, b)]

/-- A template of s1 and s2. -/
def t12 : Tpl := { z with dst := 3, sa := 1, sb := 2 }

/-- Sums and products wrap at 2^64 (R120). -/
theorem test_arithmetic : sent (.add t12) (ab (-1) 2) = some (.word 1) ∧ sent (.sub t12) (ab 1 2) = some (.word (-1))
    ∧ sent (.mul t12) (ab (-3) 5) = some (.word (-15)) ∧ sent (.mulhu t12) (ab (-1) (-1)) = some (.word 0xFFFFFFFFFFFFFFFE) := by decide +kernel

/-- The worked case of R146: −7 / 2 is −3, and a division by zero gives all ones (R122). -/
theorem test_division : sent (.div t12) (ab (-7) 2) = some (.word (-3)) ∧ sent (.div t12) (ab (-7) 0) = some (.word 0xFFFFFFFFFFFFFFFF) := by decide +kernel

/-- The worked case of `bext` and `bdep` under R123. -/
theorem test_bit_fields : sent (.bext t12) (ab 0xB6 0xF0) = some (.word 0xB) ∧ sent (.bdep t12) (ab 0xB 0xF0) = some (.word 0xB0) := by decide +kernel

/-- The worked case of R30: of the range from 320 to 1000 with grain 64, a claim takes 320 to 384, and WID takes 320. -/
theorem test_claim : (match exec (.rclaim { z with dst := 4, sa := 5 }) (on0 (regs .cc []) fun k => { k with range := { lo := 320, hi := 1000, grain := 64, lo0 := 320, hi0 := 1000 } }) with
    | .next u => u.curCore.range.lo == 384 && u.curCore.pend.map (·.val) == [.word 320, .word 384, .word 320]
    | _ => false) = true ∧ splitPoint 384 616 64 = 704 := by decide +kernel

/-- The worked case of R130: `loop s9, s9, top` reads 3, writes 2, and is taken to 0x1C0 after its two slots, with the bases to step there. -/
theorem test_loop : (match exec (.loop { z with dst := 9, sa := 9, imm := 0xFFFFFFF0 }) (on0 (regs .cc [(9, 3)]) fun k => { k with cc := { k.cc with pc := 0x200 } }) with
    | .next u => u.curStrm.redirects == [(2, 0x1C0)] && u.curCore.pend.map (·.val) == [.word 2] && u.curStrm.rot == [2]
    | _ => false) = true := by decide +kernel

/-- The worked case of R17: the matrix sequencer of core 5 in the cluster at (9, 2). -/
theorem test_source_number : coreSource 333 4 = 0x606C ∧ clusterOf 333 = 41 := by decide

/-- The worked case of R208: at MXSLACK 256, the deadline of stamp 1000 is at the first edge from 5024, at divisor 5 that of 5025. -/
theorem test_deadline : ({ cmdOf 0x205 0 z with stamp := some 1000 } : MxCmd).deadline 256 false = some 5024 ∧ ceilDiv 5024 5 * 5 = 5025 := by decide

/-- The worked case of R72: the word 0x1400_0009 issues template 5 of CC, `add s4, s2, s3`, with DST 9, and leaves the template. -/
theorem test_patched_issue : (let s := (State.reset.withFetchWord 32 0x14000009).updCurStrm fun x =>
      { x with table := [(5, wordsTpl 0 0 0x03000300 0x402)], s := [(2, 6), (3, 7)] }
    nextIs (step s) fun u => u.curCore.pend.map (fun q => (q.dst, q.val)) == [(.scalar .cc 9, .word 13)]
      && sget 0 u.curStrm.table 5 == wordsTpl 0 0 0x03000300 0x402 && (u.curStrm.warnSet &&& warnIf true .rndna) == warnIf true .rndna) = true := by
  decide +kernel

/-- The worked case of R164: lane 0 is 2^24 and the others are 1.0; the tree gives 2^24 + 62. -/
theorem test_reduction : (let v : Vec := packElems 2048 32 (fun i => if i = 0 then 0x4B800000 else 0x3F800000) 64
    let s := on0 (regs .vx []) fun k => { k with vec := [(3, v)] }
    let lane0 := fun (x : Option Val) => match x with
      | some (.vector w) => elem w 32 0
      | _ => 0
    lane0 (sent (.vred { z with dst := 68, sa := 67 }) s) = 0x4B80001F) := by decide +kernel

/-! ### Gumel (R86-R88, R114, R24, R409) -/

/-- R88 and the worked encodings of chapter 4: template 5 is `add s4, s2, s3`. -/
theorem test_gumas_words :
    (gumas [(5, 0x00000402030000000000000000000000)]
      [.instr 0x00000902030000000000000000000000, .instr 0x00000708030000000000000000000000,
       .instr 0x00000402030018000000000000000000, .instr 0x00000402030000000000000000000000]).map (·.1)
      = some [0x14000009, 0x14800708, 0x14FB0000, 0x14F00000] := by decide

/-- The worked `addi` of chapter 4: template 9 is `addi s1, s1, 0`; then -8 and 0x123456. -/
theorem test_gumas_immediates :
    (gumas [(9, 0x00800101000000000000000000000000)]
      [.instr 0x0080010100000000FFFFFFF800000000, .instr 0x00800101000000000012345600000000]).map (·.1)
      = some [0x24C0FFF8, 0xFB000009, 0x00123456] := by decide

/-- The worked branch of R128: template 7 is `br.lt.n s3, s4` with offset -4, and then -10. -/
theorem test_gumas_branch :
    (gumas [(7, 0x0A05000304000000FFFFFFFC00000000)]
      [.instr 0x0A05000304000000FFFFFFFC00000000, .instr 0x0A05000304000000FFFFFFF600000000]).map (·.1)
      = some [0x1CF00000, 0x1CC0FFF6] := by decide

/-- The worked `madd` of chapter 13, behind sixteen pinned templates: a new template, then one amended field. -/
theorem test_gumas_new_template :
    (gumas ((List.range 16).map fun n => (n, 0x00400000000000000000000000000000 + BitVec.ofNat 128 (n * 2 ^ 32 * 65537)))
      [.instr 0x2080070F100400000000000000000000, .instr 0x2080070F100700000000000000000000,
       .instr 0x0A050008030000000000000300000000]).map (·.1) = some [0x40F00000, 0x40300007, 0x44F00000] := by decide

/-- The format word of the worked case in chapter 5. -/
theorem test_fmt_word :
    fmtWordOf { afmt := 3, bfmt := 3, blk := 1, dfmt := 17, tfmt := 16, tblk := 1 } = 0x18D0088200400000 := by decide

set_option maxRecDepth 10000 in
/-- R24 and R87: the header of chapter 13. -/
theorem test_launch_header :
    let b := LaunchKeys.bytes { fw := [1], pt := [1], grain := 1, regsl := 1, l1sl := 16, entry := [0, 0x30000000] }
    b.length = 256 ∧ b.take 9 = [1, 0, 0, 0, 1, 1, 16, 0, 1] ∧ b.getD 0x10 0 = 1 ∧ b.getD 0x18 0 = 1
      ∧ b.getD 0x2B 0 = 0x30 := by decide

/-- R409: the worked `.ckpt`. -/
theorem test_ckpt_entry :
    (ckptEntry 0x30000100 .cc [.s 1 4, .s 9 9, .p 2 2, .v 0 1, .sp 0x10000 8192]).map (·.take 0x28)
      = some ([0, 1, 0, 0x30, 0, 0, 0, 0, 0x1E, 2, 0, 0, 0, 0, 0, 0, 3, 0, 0, 0, 0, 0, 0, 0, 4, 0, 1, 1, 0, 0, 0, 0,
        0, 0, 1, 0, 0, 0x20, 0, 0] : List Byte) := by decide

/-- R86: division truncates, the remainder takes the dividend's sign, a shift right is arithmetic, a zero divisor is an error. -/
theorem test_expressions :
    let e (op : GumOp) (a b : GumExpr) := (GumExpr.bin op a b).eval fun _ => none
    e .div (.neg (.num 7)) (.num 2) = some (-3) ∧ e .rem (.neg (.num 7)) (.num 2) = some (-1)
      ∧ e .shr (.neg (.num 8)) (.num 64) = some (-1) ∧ e .shl (.num 1) (.num 64) = some 0
      ∧ e .div (.num 1) (.num 0) = none ∧ e .shl (.num 1) (.neg (.num 1)) = none := by decide

/-- R86: the branch of chapter 13, from entry + 0x58 to entry + 0x64, and a branch back. -/
theorem test_branch_offset :
    branchImm 0x30000064 0x30000058 = 3 ∧ branchImm 0x30000038 0x30000074 = 0xFFFFFFF1 := by decide
end Sys2Proof.Tests
end

section
/-! PROOFS. A masked write of a line reads back (R5, R283, R449, R450): what the tables, the packed line and the poison list hold
after each part of `Mem.writeLine`, and from these the statement about memory. -/

namespace Sys2Proof.Machine

/-! ## Packed fields and bits -/

/-- A field that was zero adds its own weight to the packed number. -/
theorem packNat_eq_add_of_zero {w n j : Nat} {f g : Nat → Nat} (hj : j < n) (hz : g j = 0) (h : ∀ i, i ≠ j → f i = g i) :
    packNat w f n = packNat w g n + f j * 2 ^ (w * j) := by
  induction n with
  | zero => omega
  | succ n ih =>
    rw [packNat, packNat]
    by_cases hjn : j = n
    · subst hjn
      rw [packNat_congr j fun i hi => h i (Nat.ne_of_lt hi), hz]
      omega
    · rw [ih (by omega), h n (Ne.symm hjn)]
      omega

theorem packNat_zero (w n : Nat) : packNat w (fun _ => 0) n = 0 := by
  induction n with
  | zero => rfl
  | succ n ih => simp [packNat, ih]

theorem natOfBits_eq_packNat (f : Nat → Bool) (n : Nat) : natOfBits f n = packNat 1 (fun i => (f i).toNat) n := by
  induction n with
  | zero => rfl
  | succ n ih => cases h : f n <;> simp [natOfBits, packNat, ih, h]

theorem bit_ofBits {w i : Nat} (f : Nat → Bool) (hi : i < w) : bit (ofBits w f) i = f i := by
  have hf : (natOfBits f w).testBit i = f i := by
    rw [natOfBits_eq_packNat, Nat.testBit_eq_decide_div_mod_eq]
    have hlt : ∀ j, j < w → (f j).toNat < 2 ^ 1 := fun j _ => Bool.toNat_lt (f j)
    have hfield := packNat_field hlt hi
    rw [Nat.one_mul, Nat.pow_one] at hfield
    rw [hfield]
    cases f i <;> rfl
  rw [bit, ofBits, BitVec.getLsbD_ofNat, hf, decide_eq_true hi, Bool.true_and]

/-! ## Sparse tables in parts -/

theorem sget_of_not_mem {β : Type} (d : β) (m : Sparse β) (k : Nat) (h : ∀ e ∈ m, e.1 ≠ k) : sget d m k = d := by
  induction m with
  | nil => rfl
  | cons e m ih =>
    have hk : k ≠ e.1 := Ne.symm (h e List.mem_cons_self)
    rw [sget, if_neg hk]
    exact ih fun e' he' => h e' (List.mem_cons_of_mem _ he')

/-- Where the first part of a table lists a key its value counts, and the second part stands behind it. -/
theorem sget_append {β : Type} (d : β) (a b : Sparse β) (k : Nat) : sget d (a ++ b) k = sget (sget d b k) a k := by
  induction a with
  | nil => rfl
  | cons e a ih => simp [sget, ih]

theorem sget_append_left {β : Type} (d : β) (a : Sparse β) {b : Sparse β} {k : Nat} (h : ∀ e ∈ b, e.1 ≠ k) :
    sget d (a ++ b) k = sget d a k := by
  rw [sget_append, sget_of_not_mem d b k h]

theorem sget_append_right {β : Type} (d : β) {a : Sparse β} (b : Sparse β) {k : Nat} (h : ∀ e ∈ a, e.1 ≠ k) :
    sget d (a ++ b) k = sget d b k := by
  rw [sget_append, sget_of_not_mem _ a k h]

/-- A table cut down to some keys reads as before at those and as unlisted elsewhere. -/
theorem sget_filter_key {β : Type} (d : β) (m : Sparse β) (p : Nat → Bool) (k : Nat) :
    sget d (m.filter fun e => p e.1) k = if p k = true then sget d m k else d := by
  induction m with
  | nil => simp [sget]
  | cons e m ih =>
    obtain ⟨k', v⟩ := e
    rw [List.filter_cons]
    by_cases hk : k = k'
    · subst hk
      cases hp : p k <;> simp [sget, ih, hp]
    · cases p k' <;> simp [sget, ih, hk]

/-- The entries of a row of values, those equal to the default left out, read as the row. -/
theorem sget_row {β : Type} [DecidableEq β] (d : β) (l : List β) (base k : Nat) :
    sget d (((l.zipIdx base).map fun p => (p.2, p.1)).filter fun e => e.2 != d) k
      = if base ≤ k then l.getD (k - base) d else d := by
  induction l generalizing base with
  | nil => simp [sget]
  | cons x l ih =>
    rw [List.zipIdx_cons, List.map_cons, List.filter_cons]
    by_cases hk : k = base
    · subst hk
      have htail := ih (k + 1)
      rw [if_neg (by omega)] at htail
      by_cases hx : x = d <;> simp [sget, htail, hx]
    · have hcons : (if base ≤ k then (x :: l).getD (k - base) d else d)
          = if base + 1 ≤ k then l.getD (k - (base + 1)) d else d := by
        by_cases hb : base + 1 ≤ k
        · have hs : k - base = (k - (base + 1)) + 1 := by omega
          rw [if_pos hb, if_pos (by omega), hs, List.getD_cons_succ]
        · rw [if_neg hb, if_neg (by omega)]
      rw [hcons, ← ih (base + 1)]
      by_cases hx : x = d <;> simp [sget, hx, hk]

theorem mem_row_key {β : Type} {p : Nat × β → Bool} {l : List β} {base : Nat} {e : Nat × β}
    (h : e ∈ ((l.zipIdx base).map fun p => (p.2, p.1)).filter p) : base ≤ e.1 ∧ e.1 < base + l.length := by
  obtain ⟨q, hq, rfl⟩ := List.mem_map.1 (List.mem_filter.1 h).1
  exact ⟨List.le_snd_of_mem_zipIdx hq, List.snd_lt_add_of_mem_zipIdx hq⟩

/-- A replaced row reads as the new values, and every other key as before. -/
theorem sget_sreplace {β : Type} [DecidableEq β] (d : β) (m : Sparse β) (base : Nat) (l : List β) (k : Nat) :
    sget d (sreplace d m base l) k = if base ≤ k ∧ k < base + l.length then l.getD (k - base) d else sget d m k := by
  have below : ∀ e ∈ m.filter (fun e => decide (e.1 < base)), e.1 < base := fun e he => by
    simpa using (List.mem_filter.1 he).2
  have above : ∀ e ∈ m.filter (fun e => decide (base + l.length ≤ e.1)), base + l.length ≤ e.1 := fun e he => by
    simpa using (List.mem_filter.1 he).2
  unfold sreplace
  rcases Nat.lt_or_ge k base with hlo | hlo
  · rw [sget_append_left d _ fun e he => by have := above e he; omega,
      sget_append_left d _ fun e he => by have := mem_row_key he; omega,
      sget_filter_key d m fun k => decide (k < base)]
    rw [if_pos (decide_eq_true hlo), if_neg (by omega)]
  · rcases Nat.lt_or_ge k (base + l.length) with hhi | hhi
    · rw [sget_append_left d _ fun e he => by have := above e he; omega,
        sget_append_right d _ fun e he => by have := below e he; omega, sget_row]
      rw [if_pos hlo, if_pos ⟨hlo, hhi⟩]
    · rw [List.append_assoc, sget_append_right d _ fun e he => by have := below e he; omega,
        sget_append_right d _ fun e he => by have := mem_row_key he; omega,
        sget_filter_key d m fun k => decide (base + l.length ≤ k)]
      rw [if_pos (decide_eq_true hhi), if_neg (by omega)]

/-! ## A line's data -/

theorem byteAt_eq_extractLsb' {W : Nat} (x : BitVec W) (i : Nat) : byteAt x i = x.extractLsb' (8 * i) 8 := rfl

/-- The sum over the listed bytes of one line, in the place of each, is the packed line. -/
theorem foldl_bytes_eq_packNat (line : Nat) (m : Sparse Byte) (hs : m.Pairwise fun a b => a.1 < b.1)
    (hl : ∀ e ∈ m, e.1 / 128 = line) (a : Nat) :
    m.foldl (fun a e => a + e.2.toNat <<< (8 * (e.1 % 128))) a
      = a + packNat 8 (fun i => (sget 0 m (128 * line + i)).toNat) 128 := by
  induction m generalizing a with
  | nil => exact congrArg (a + ·) (packNat_zero 8 128).symm
  | cons e m ih =>
    obtain ⟨k, v⟩ := e
    obtain ⟨hk, hs⟩ := List.pairwise_cons.1 hs
    have hkl : k / 128 = line := hl (k, v) List.mem_cons_self
    have hki : 128 * line + k % 128 = k := hkl ▸ Nat.div_add_mod k 128
    have hnew : sget 0 m (128 * line + k % 128) = 0 :=
      sget_of_not_mem 0 m _ fun e he => by have : k < e.1 := hk e he; omega
    have hadd := packNat_eq_add_of_zero (w := 8) (Nat.mod_lt k (by decide : 0 < 128))
      (f := fun i => (sget 0 ((k, v) :: m) (128 * line + i)).toNat) (g := fun i => (sget 0 m (128 * line + i)).toNat)
      (by simp only [hnew]; rfl) (fun i hi => by simp only [sget]; rw [if_neg (by omega)])
    rw [List.foldl_cons, ih hs (fun e he => hl e (List.mem_cons_of_mem _ he)), hadd]
    simp only [sget, hki, if_true, Nat.shiftLeft_eq]
    omega

theorem Mem.lineData_eq_packNat (m : Mem) (line : Nat) (h : m.wf = true) :
    m.lineData line = BitVec.ofNat 1024 (packNat 8 (fun i => (m.byte (128 * line + i)).toNat) 128) := by
  obtain ⟨hs, -⟩ := (swf_iff 0 m.bytes).1 h
  unfold Mem.lineData
  rw [foldl_bytes_eq_packNat line _ (hs.filter _) fun e he => by simpa using (List.mem_filter.1 he).2, Nat.zero_add]
  refine congrArg _ (packNat_congr 128 fun i hi => ?_)
  rw [sget_filter_key 0 m.bytes fun k => k / 128 == line, if_pos (by rw [beq_iff_eq]; omega)]
  rfl

theorem byteAt_ofNat_packNat {W n i : Nat} (hW : W = 8 * n) (b : Nat → Byte) (hi : i < n) :
    byteAt (BitVec.ofNat W (packNat 8 (fun j => (b j).toNat) n)) i = b i := by
  subst hW
  have hb : ∀ j, j < n → (b j).toNat < 2 ^ 8 := fun j _ => BitVec.isLt _
  apply BitVec.eq_of_toNat_eq
  rw [byteAt_eq_extractLsb', BitVec.extractLsb'_toNat, BitVec.toNat_ofNat, Nat.mod_eq_of_lt (packNat_lt n hb),
    Nat.shiftRight_eq_div_pow, packNat_field hb hi]

/-- A line's data are its bytes, lowest first (R5). -/
theorem Mem.byteAt_lineData (m : Mem) (line : Nat) {i : Nat} (h : m.wf = true) (hi : i < 128) :
    byteAt (m.lineData line) i = m.byte (128 * line + i) := by
  rw [m.lineData_eq_packNat line h, byteAt_ofNat_packNat (by decide) (fun j => m.byte (128 * line + j)) hi]

/-! ## The merge of a line -/

/-- The byte mask of a line widened to a bit mask, one byte of the line at a time. -/
theorem bit_widenedMask (mask : LineMask) (n k : Nat) (hk : k < 1024) :
    (foldUpTo n (fun a i => if bit mask i then a ||| BitVec.ofNat 1024 (255 <<< (8 * i)) else a) (0 : LineData)).getLsbD k
      = (decide (k / 8 < n) && bit mask (k / 8)) := by
  have hbyte : ∀ i, (BitVec.ofNat 1024 (255 <<< (8 * i))).getLsbD k = decide (k / 8 = i) := by
    intro i
    rw [BitVec.getLsbD_ofNat, Nat.testBit_shiftLeft, show 255 = 2 ^ 8 - 1 from rfl, Nat.testBit_two_pow_sub_one,
      decide_eq_true hk, Bool.true_and, ← Bool.decide_and]
    exact decide_eq_decide.2 (by omega)
  induction n with
  | zero => simp [foldUpTo]
  | succ n ih =>
    have hlt : k / 8 < n + 1 ↔ k / 8 < n ∨ k / 8 = n := Nat.lt_succ_iff_lt_or_eq
    rw [foldUpTo_succ]
    cases hb : bit mask n with
    | true =>
      rw [if_pos rfl, BitVec.getLsbD_or, ih, hbyte]
      by_cases hkn : k / 8 = n <;> simp [hlt, hkn, hb]
    | false =>
      rw [if_neg (by decide), ih]
      by_cases hkn : k / 8 = n <;> simp [hlt, hkn, hb]

/-- A merged line has the written byte under the mask and the old one elsewhere. -/
theorem byteAt_mergeLine (old data : LineData) (mask : LineMask) {i : Nat} (hi : i < 128) :
    byteAt (mergeLine old data mask) i = if bit mask i = true then byteAt data i else byteAt old i := by
  apply BitVec.eq_of_getLsbD_eq
  intro j hj
  have hdiv : (8 * i + j) / 8 = i := by omega
  have hk : 8 * i + j < 1024 := by omega
  have hm := bit_widenedMask mask 128 (8 * i + j) hk
  rw [hdiv, decide_eq_true hi, Bool.true_and] at hm
  simp only [byteAt_eq_extractLsb', mergeLine, BitVec.getLsbD_extractLsb', BitVec.getLsbD_or, BitVec.getLsbD_and,
    BitVec.getLsbD_not, hm, hk]
  cases bit mask i <;> simp [hj]

/-- A masked write of a line reads back, and leaves every other byte alone (R283). -/
theorem Mem.byte_writeLine (m : Mem) (line : Nat) (mask : LineMask) (data : LineData) (p : BitVec 4) (a : Nat)
    (h : m.wf = true) :
    (m.writeLine line mask data p).byte a =
      if a / 128 = line ∧ bit mask (a % 128) = true then byteAt data (a % 128) else m.byte a := by
  rw [Mem.byte, Mem.writeLine_bytes, sget_sreplace, List.length_map, List.length_range]
  by_cases hl : a / 128 = line
  · have hi : a % 128 < 128 := Nat.mod_lt a (by decide)
    have hoff : a - 128 * line = a % 128 := by omega
    have ha : 128 * line + a % 128 = a := by omega
    rw [if_pos (by omega), hoff, List.getD_eq_getElem?_getD, List.getElem?_map, List.getElem?_range hi, Option.map_some,
      Option.getD_some, byteAt_mergeLine _ _ _ hi, m.byteAt_lineData line h hi, ha]
    simp only [hl, true_and]
  · rw [if_neg (by omega), if_neg fun hc => hl hc.1]
    rfl

/-! ## Poison -/

theorem Mem.contains_poison_setPoison (m : Mem) (sector x : Nat) (p : Bool) :
    (m.setPoison sector p).poison.contains x = if x = sector then p else m.poison.contains x := by
  apply Bool.eq_iff_iff.2
  cases p with
  | false => by_cases hx : x = sector <;> simp [Mem.setPoison, hx]
  | true =>
    simp only [Mem.setPoison, if_true, List.contains_eq_mem, decide_eq_true_eq]
    by_cases hm : sector ∈ m.poison
    · rw [if_pos hm]
      by_cases hx : x = sector
      · simp only [hx, hm, if_true]
      · simp only [hx, if_false, decide_eq_true_eq]
    · rw [if_neg hm, List.mem_append, List.mem_singleton]
      by_cases hx : x = sector
      · simp only [hx, or_true, if_true]
      · simp only [hx, or_false, if_false, decide_eq_true_eq]

/-- The marks after the first `n` sectors of a line are settled: those of the sectors the mask touches are set from `q`. -/
theorem contains_poison_sectorLoop (m : Mem) (line : Nat) (mask : LineMask) (q : BitVec 4) (x n : Nat) (hn : n ≤ 4) :
    (foldUpTo n (fun m i => if sectorMask mask i = 0 then m else m.setPoison (4 * line + i) (bit q i)) m).poison.contains x
      = if x / 4 = line ∧ x % 4 < n ∧ sectorMask mask (x % 4) ≠ 0 then bit q (x % 4) else m.poison.contains x := by
  induction n with
  | zero => simp [foldUpTo]
  | succ n ih =>
    rw [foldUpTo_succ]
    have ih := ih (by omega)
    by_cases hx : x = 4 * line + n
    · have hdiv : x / 4 = line := by omega
      have hmod : x % 4 = n := by omega
      rw [hmod, if_neg fun hc => Nat.lt_irrefl n hc.2.1] at ih
      rw [hdiv, hmod]
      by_cases hz : sectorMask mask n = 0
      · rw [if_pos hz, ih, if_neg fun hc => hc.2.2 hz]
      · rw [if_neg hz, Mem.contains_poison_setPoison, if_pos hx, if_pos ⟨rfl, Nat.lt_succ_self n, hz⟩]
    · have hlt : (x / 4 = line ∧ x % 4 < n + 1 ∧ sectorMask mask (x % 4) ≠ 0)
          ↔ (x / 4 = line ∧ x % 4 < n ∧ sectorMask mask (x % 4) ≠ 0) := by omega
      simp only [hlt, ← ih]
      split
      · rfl
      · rw [Mem.contains_poison_setPoison, if_neg hx]

theorem sectorMask_eq_toNat (mask : LineMask) (i : Nat) : sectorMask mask i = (mask.extractLsb' (32 * i) 32).toNat :=
  (BitVec.extractLsb'_toNat _ _ _).symm

theorem sectorMask_eq_zero_iff (mask : LineMask) (i : Nat) : sectorMask mask i = 0 ↔ mask.extractLsb' (32 * i) 32 = 0 := by
  rw [sectorMask_eq_toNat]
  exact (BitVec.toNat_inj (y := 0#32))

theorem sectorMask_eq_full_iff (mask : LineMask) (i : Nat) :
    sectorMask mask i = 2 ^ 32 - 1 ↔ mask.extractLsb' (32 * i) 32 = BitVec.allOnes 32 := by
  rw [sectorMask_eq_toNat]
  exact (BitVec.toNat_inj (y := BitVec.allOnes 32))

theorem Mem.bit_linePoison (m : Mem) (line : Nat) {i : Nat} (hi : i < 4) :
    bit (m.linePoison line) i = m.poison.contains (4 * line + i) := bit_ofBits _ hi

/-- The mark of every sector after a masked write of a line (R449, R450). -/
theorem Mem.contains_poison_writeLine (m : Mem) (line : Nat) (mask : LineMask) (data : LineData) (p : BitVec 4) (x : Nat) :
    (m.writeLine line mask data p).poison.contains x =
      if x / 4 = line then
        if sectorMask mask (x % 4) = 0 then m.poison.contains x
        else if sectorMask mask (x % 4) = 2 ^ 32 - 1 then bit p (x % 4)
        else m.poison.contains x || bit p (x % 4)
      else m.poison.contains x := by
  unfold Mem.writeLine
  rw [contains_poison_sectorLoop _ line mask _ x 4 (Nat.le_refl 4)]
  have hi : x % 4 < 4 := Nat.mod_lt x (by decide)
  by_cases hl : x / 4 = line
  · have hx : 4 * line + x % 4 = x := by omega
    by_cases hz : sectorMask mask (x % 4) = 0
    · simp [hl, hz]
    · rw [if_pos ⟨hl, hi, hz⟩, if_pos hl, mergePoison, bit_ofBits _ hi, m.bit_linePoison line hi, hx]
  · simp [hl]

/-- Settles O60: the bytes by the merge of the line into its row of the table, the marks by the loop over its four sectors
(R5, R283, R449, R450, and log entry 90 for a sector written in part). -/
theorem memoryReadsBack : Obligations.MemoryReadsBack := by
  unfold Obligations.MemoryReadsBack
  refine ⟨fun m line mask data p a h => m.byte_writeLine line mask data p a h,
    fun m line i h hi => m.byteAt_lineData line h hi, fun m line mask data p x => ?_⟩
  rw [m.contains_poison_writeLine line mask data p x]
  simp only [sectorMask_eq_zero_iff, sectorMask_eq_full_iff, bit]

end Sys2Proof.Machine
end

section
/-! PROOFS. Words that send several results: the pending results and the generators an effect leaves, one rule per operation that the
effects of vector words are made of, and words that a check of their operands may stop (R47, R56, R104). -/

namespace Sys2Proof.Machine

/-! ## Sent results -/

/-- The effect from `s` to `v` stays in the frame of a word, adds `l` to the issuing core's pending results and leaves the generators
`b`. -/
structure EffectSends (s v : State) (l : List Pend) (b : Sparse W32) : Prop where
  frame : EffectFrame s v
  pend : (v.core s.cur.core).pend = s.curCore.pend ++ l
  sr : (v.core s.cur.core).sr = b

/-- The time and the issue count of the issuing core stay through an effect. -/
theorem EffectFrame.clock {s v : State} (h : EffectFrame s v) :
    (v.core s.cur.core).now = s.curCore.now ∧ (v.core s.cur.core).issueOrd = s.curCore.issueOrd := by
  rw [h.core]
  cases s.cur.strm <;> exact ⟨rfl, rfl⟩

/-- A result is bound and dated alike before and after an effect. -/
theorem EffectFrame.sends_eq {s v : State} (h : EffectFrame s v) (d : BitVec 8) (lat : Nat) (x : Val) :
    v.sends d lat x = s.sends d lat x := by
  obtain ⟨hnow, hord⟩ := h.clock
  have hbind : bindDst v.curStrm v.cur.strm d.toNat = bindDst s.curStrm s.cur.strm d.toNat := by
    simp only [State.curStrm, State.curCore, h.cur]
    rw [h.stream]
    rfl
  rw [State.sends, hbind, State.curCore, h.cur, hnow, hord]
  rfl

namespace EffectSends

theorem refl (s : State) : EffectSends s s [] s.curCore.sr :=
  ⟨.refl s, (List.append_nil _).symm, rfl⟩

variable {s v : State} {l : List Pend} {b : Sparse W32}

theorem warn (h : EffectSends s v l b) (w : W64) : EffectSends s (v.warn w) l b := by
  refine ⟨h.frame.trans (.warn v w), (State.pend_warn v w _).trans h.pend, ?_⟩
  rw [← h.sr, ← h.frame.cur]
  simp [State.warn, State.updCurStrm, State.updStrm]

theorem setSr (h : EffectSends s v l b) (b' : Sparse W32) : EffectSends s (v.updCur fun k => { k with sr := b' }) l b' := by
  refine ⟨h.frame.trans (.setSr v b'), ?_, ?_⟩
  · rw [← h.pend, ← h.frame.cur]
    simp [State.updCur]
  · rw [← h.frame.cur]
    simp [State.updCur]

theorem land (h : EffectSends s v l b) (d : BitVec 8) (lat : Nat) (x : Val) :
    EffectSends s (v.land d lat x) (l ++ s.sends d lat x) b := by
  refine ⟨h.frame.trans (.land v d lat x), ?_, (State.sr_land v d lat x _).trans h.sr⟩
  have hp := State.pend_land v d lat x
  rw [State.curCore, h.frame.cur, h.pend, h.frame.sends_eq, List.append_assoc] at hp
  exact hp

theorem addPend (h : EffectSends s v l b) (e : StreamId) (d : Dst) (lat : Nat) (x : Val) :
    EffectSends s (v.updCur fun k => k.addPend e d lat x)
      (l ++ [{ strm := e, ord := s.curCore.issueOrd, dst := d, due := s.curCore.now + lat - 1, val := x }]) b := by
  obtain ⟨hnow, hord⟩ := h.frame.clock
  refine ⟨h.frame.trans (.addPend v e d lat x), ?_, ?_⟩
  · simp only [State.updCur, h.frame.cur, State.core_updCore_self, Core.addPend, h.pend, hnow, hord, List.append_assoc]
  · simp only [State.updCur, h.frame.cur, State.core_updCore_self, Core.addPend, h.sr]

/-- A result that is sent unless `c`. -/
theorem sendUnless {v' : State} {l' : List Pend} (c : Prop) [Decidable c] (h : EffectSends s v l b)
    (h' : EffectSends s v' (l ++ l') b) : EffectSends s (if c then v else v') (l ++ if c then [] else l') b := by
  by_cases hc : c
  · rw [if_pos hc, if_pos hc, List.append_nil]
    exact h
  · rw [if_neg hc, if_neg hc]
    exact h'

theorem gains_retire (h : EffectSends s v l b) (o : Nat) (t : Tpl) : Gains s (v.retire o t true .seq false) l :=
  (State.pend_retire ..).trans h.pend

theorem sr_retire (h : EffectSends s v l b) (o : Nat) (t : Tpl) :
    ((v.retire o t true .seq false).core s.cur.core).sr = b := (State.sr_retire ..).trans h.sr

theorem wordFrame_retire (h : EffectSends s v l b) (o : Nat) (t : Tpl) : WordFrame s (v.retire o t true .seq false) :=
  h.frame.retire ..

end EffectSends

/-- A lane loop sends its vector and leaves the generators after its draws. -/
theorem effectSends_vecResult (o lat : Nat) (t : Tpl) (w : Nat) (f : Nat → Nat → Nat) (s : State) :
    EffectSends s (vecResult o lat t w f s)
      (s.sends t.dst lat (.vector (mapLanes (drawing o t) (s.guard t) w (s.vreg t.dst) s.curCore.sr f).1))
      (mapLanes (drawing o t) (s.guard t) w (s.vreg t.dst) s.curCore.sr f).2 :=
  ((EffectSends.refl s).setSr _).land t.dst lat _

/-! ## Vector words -/

/-- What a lane loop sends is a matter of the pending results and the generators, and of its elements alone. -/
theorem LanesSent.congr {lat w : Nat} {sr : Bool} {f g : Nat → Nat → Nat} {t : Tpl} {s u u' : State} (h : LanesSent lat w sr f t s u)
    (hfg : ∀ e, e < 2048 / w → ∀ d, f e d = g e d) (hp : (u'.core s.cur.core).pend = (u.core s.cur.core).pend)
    (hsr : (u'.core s.cur.core).sr = (u.core s.cur.core).sr) (hw : WordFrame s u') : LanesSent lat w sr g t s u' := by
  obtain ⟨v, hgain, -, helem, hgen⟩ := h
  refine ⟨v, hp.trans hgain, hw, fun e he => ?_, fun i hi => hsr ▸ hgen i hi⟩
  rw [helem e he, hfg e he]

/-- The lanes of another description of the elements. -/
theorem LanesSent.congr_elems {lat w : Nat} {sr : Bool} {f g : Nat → Nat → Nat} {t : Tpl} {s u : State} (h : LanesSent lat w sr f t s u)
    (hfg : ∀ e, e < 2048 / w → ∀ d, f e d = g e d) : LanesSent lat w sr g t s u := by
  have ⟨_, _, hw, _⟩ := h
  exact h.congr hfg rfl rfl hw

/-- A word whose lane loop besides raises WARN bits sends the same lanes. -/
theorem lanesSent_vecResult_warn (o lat : Nat) (t : Tpl) (w n : Nat) (hw : w * n = 32) (f : Nat → Nat → Nat) (x : W64) (s : State) :
    LanesSent lat w (drawing o t) f t s (((vecResult o lat t w f s).warn x).retire o t true .seq false) := by
  have hs := effectSends_vecResult o lat t w f s
  exact (lanesSent_vecResult o lat t w n hw f s).congr (fun _ _ _ => rfl)
    (((hs.warn x).gains_retire o t).trans (hs.gains_retire o t).symm)
    (((hs.warn x).sr_retire o t).trans (hs.sr_retire o t).symm) ((hs.warn x).wordFrame_retire o t)

/-! ## Checked words -/

/-- A checked word that acts and passes its check: its effect, then its retirement. -/
theorem issueChecked_of_none {o : Nat} {t : Tpl} {s : State} (h : s.acts o t) {check : State → Option FaultInfo}
    (hc : check s = none) (body : State → State) :
    issueChecked o t check body s = .next ((body s).retire o t true .seq false) := by
  rw [issueChecked, if_pos h.2, hc]
  exact issue_acts h body

/-- A checked word that acts and fails its check faults and does nothing else. -/
theorem issueChecked_of_some {o : Nat} {t : Tpl} {s : State} (h : s.acts o t) {check : State → Option FaultInfo} {f : FaultInfo}
    (hc : check s = some f) (body : State → State) : issueChecked o t check body s = .next (s.faultCur f) := by
  rw [issueChecked, if_pos h.2, hc]

end Sys2Proof.Machine
end

section
/-! PROOFS. Conversions of one part of a register and words on blocks of lanes (R105, R111-R115, R153, R159-R162): what a written part
holds, which words pass the format check, and the blocks of a list. -/

namespace Sys2Proof.Machine

/-! ## Fields of a register -/

theorem field_eq_div_mod {w : Nat} (x : BitVec w) (lo len : Nat) : field x lo len = x.toNat / 2 ^ lo % 2 ^ len := by
  rw [field, Nat.shiftRight_eq_div_pow]

theorem testBit_elem {W : Nat} (x : BitVec W) (w i k : Nat) :
    (elem x w i).testBit k = (decide (k < w) && x.getLsbD (w * i + k)) := by
  rw [elem, Nat.testBit_mod_two_pow, Nat.testBit_shiftRight]
  rfl

theorem getLsbD_putField {W : Nat} (x : BitVec W) (lo len v k : Nat) (hk : k < W) :
    (putField x lo len v).getLsbD k = if lo ≤ k ∧ k < lo + len then v.testBit (k - lo) else x.getLsbD k := by
  rw [putField, BitVec.getLsbD_or, BitVec.getLsbD_and, BitVec.getLsbD_not, BitVec.getLsbD_ofNat, BitVec.getLsbD_ofNat,
    Nat.testBit_shiftLeft, Nat.testBit_shiftLeft, Nat.testBit_two_pow_sub_one, Nat.testBit_mod_two_pow, decide_eq_true hk]
  by_cases hlo : lo ≤ k
  · have hlt : k - lo < len ↔ k < lo + len := by omega
    by_cases hhi : k < lo + len <;> simp [hlo, hhi, hlt]
  · simp [hlo]

/-- A written element reads back, cut to its width, and every other element stays. -/
theorem elem_putElem (v : Vec) {w : Nat} (i x e : Nat) (he : w * e + w ≤ 2048) :
    elem (putElem v w i x) w e = if e = i then x % 2 ^ w else elem v w e := by
  apply Nat.eq_of_testBit_eq
  intro k
  rw [testBit_elem, apply_ite (Nat.testBit · k), testBit_elem, Nat.testBit_mod_two_pow]
  by_cases hk : k < w
  · rw [putElem, getLsbD_putField _ _ _ _ _ (by omega)]
    by_cases hei : e = i
    · subst hei
      rw [if_pos (by omega), if_pos rfl, Nat.add_sub_cancel_left]
    · have hout : ¬ (w * i ≤ w * e + k ∧ w * e + k < w * i + w) := by
        rcases Nat.lt_or_gt_of_ne hei with hlt | hlt
        · have := Nat.mul_le_mul_left w (Nat.succ_le_of_lt hlt)
          rw [Nat.mul_succ] at this
          omega
        · have := Nat.mul_le_mul_left w (Nat.succ_le_of_lt hlt)
          rw [Nat.mul_succ] at this
          omega
      rw [if_neg hout, if_neg hei]
  · simp [hk]

/-! ## A part of a register -/

theorem eq_partLane_iff {e p j : Nat} (hj : j < 64) : e = 64 * p + j ↔ e / 64 = p ∧ e % 64 = j := by omega

/-- The first `n` lanes of a part: the elements written and the generators advanced so far. -/
theorem putPart_lanes (sr : Bool) (g : W64) (w p : Nat) (old : Vec) (bank : Sparse W32) (f : Nat → Nat → Nat) (n : Nat)
    (hn : n ≤ 64) : ∃ v b,
      foldUpTo n (fun (acc : Vec × Sparse W32) j =>
        if bit g j then
          let (d, b) := if sr then srDraw acc.2 j else (0, acc.2)
          (putElem acc.1 w (64 * p + j) (f j d), b)
        else acc) (old, bank) = (v, b)
      ∧ (∀ e, w * e + w ≤ 2048 → elem v w e =
          if e / 64 = p ∧ e % 64 < n ∧ bit g (e % 64) = true then f (e % 64) (if sr then drawOf bank (e % 64) 0 else 0) % 2 ^ w
          else elem old w e)
      ∧ ∀ i, sget 0 b i = if decide (i < n) && (sr && bit g i) then srNext (sget 0 bank i) else sget 0 bank i := by
  induction n with
  | zero => exact ⟨old, bank, rfl, fun e _ => by simp, fun i => by simp⟩
  | succ n ih =>
    obtain ⟨v, b, hfold, helem, hgen⟩ := ih (by omega)
    rw [foldUpTo_succ, hfold]
    have hlt : ∀ i, i < n + 1 ↔ i < n ∨ i = n := fun i => Nat.lt_succ_iff_lt_or_eq
    have hcur : sget 0 b n = sget 0 bank n := by rw [hgen n]; simp
    cases hg : bit g n with
    | false =>
      refine ⟨v, b, rfl, fun e he => ?_, fun i => ?_⟩
      · rw [helem e he]
        by_cases hen : e % 64 = n <;> simp [hlt, hen, hg]
      · rw [hgen i]
        by_cases hin : i = n <;> simp [hlt, hin, hg]
    | true =>
      let d := if sr then drawOf bank n 0 else 0
      have hput : ∀ e, w * e + w ≤ 2048 → elem (putElem v w (64 * p + n) (f n d)) w e =
          if e / 64 = p ∧ e % 64 < n + 1 ∧ bit g (e % 64) = true then
            f (e % 64) (if sr then drawOf bank (e % 64) 0 else 0) % 2 ^ w
          else elem old w e := by
        intro e he
        rw [elem_putElem v _ _ e he, helem e he]
        simp only [eq_partLane_iff (show n < 64 by omega), hlt]
        by_cases hen : e % 64 = n
        · rw [hen]
          by_cases hp : e / 64 = p <;> simp [hp, hg, d]
        · simp [hen]
      cases sr with
      | false =>
        exact ⟨_, b, rfl, hput, fun i => by rw [hgen i]; simp⟩
      | true =>
        have hd : srByte (srNext (sget 0 b n)) = d := by rw [hcur]; rfl
        refine ⟨_, sset 0 b n (srNext (sget 0 b n)), by simp only [if_true, srDraw, hd], hput, fun i => ?_⟩
        by_cases hin : i = n
        · subst hin
          rw [sget_sset_self, hcur]
          simp [hg]
        · rw [sget_sset_ne 0 _ _ hin, hgen i]
          simp [hlt, hin]

/-- A conversion's vector and generators are those of its part. -/
theorem partIs_putPart (sr : Bool) (fd : Fmt) (part : Nat) (f : Nat → Nat → Nat) (t : Tpl) (s u : State)
    (hu : (u.core s.cur.core).sr = (putPart sr (s.guard t) fd part (s.vreg t.dst) s.curCore.sr f).2) :
    PartIs fd.width part sr f t s u (putPart sr (s.guard t) fd part (s.vreg t.dst) s.curCore.sr f).1 := by
  obtain ⟨v, b, hfold, helem, hgen⟩ :=
    putPart_lanes sr (s.guard t) fd.width (part % (32 / fd.width)) (s.vreg t.dst) s.curCore.sr f 64 (Nat.le_refl 64)
  have hput : putPart sr (s.guard t) fd part (s.vreg t.dst) s.curCore.sr f = (v, b) := hfold
  rw [hput] at hu ⊢
  refine ⟨fun e he => ?_, fun i hi => ?_⟩
  · have hin : fd.width * e + fd.width ≤ 2048 := by
      rw [← Nat.mul_succ]
      exact Nat.le_trans (Nat.mul_le_mul_left _ he) (Nat.mul_div_le 2048 _)
    rw [helem e hin]
    simp [bit, Nat.mod_lt e (show 0 < 64 by decide)]
  · rw [hu, hgen i, decide_eq_true hi, Bool.true_and]
    rfl

end Sys2Proof.Machine
end

section
/-! PROOFS. The conversions `vcvt`, `vquant` and `vdequant` (R111, R115, R153, R159, R160). -/

namespace Sys2Proof.Machine

/-! ## `vcvt` -/

/-- A format code that R115 gives. -/
def formatGiven (c : Nat) : Prop := c ≤ 6 ∨ (8 ≤ c ∧ c ≤ 14) ∨ (16 ≤ c ∧ c ≤ 23)

/-- The formats of a conversion's immediate are given, and its reserved bits are zero (R153). -/
def convertValid (imm : W32) : Prop :=
  formatGiven (imm.toNat % 32) ∧ formatGiven (imm.toNat / 2 ^ 8 % 32) ∧ imm.toNat / 2 ^ 5 % 8 = 0 ∧ imm.toNat / 2 ^ 15 = 0

theorem isNone_ofCode?_iff {c : Nat} (hc : c < 32) : (Fmt.ofCode? c).isNone = true ↔ ¬ formatGiven c := by
  unfold formatGiven
  revert c
  decide

/-- The check of `vcvt`, in the fields of its immediate. -/
theorem vcvtCheck_eq (t : Tpl) (s : State) [Decidable (convertValid t.imm)] :
    vcvtCheck t s = if convertValid t.imm then none else some { code := .formatInvalid, det1 := t.imm.setWidth 64 } := by
  have hsrc : field t.imm 0 5 = t.imm.toNat % 32 := rfl
  have hdst : field t.imm 8 5 = t.imm.toNat / 2 ^ 8 % 32 := field_eq_div_mod ..
  have hlow : field t.imm 5 3 = t.imm.toNat / 2 ^ 5 % 8 := field_eq_div_mod ..
  have hhigh : field t.imm 15 17 = t.imm.toNat / 2 ^ 15 := by
    rw [field_eq_div_mod]
    exact Nat.mod_eq_of_lt (Nat.div_lt_of_lt_mul t.imm.isLt)
  have hinv : ((Fmt.ofCode? (field t.imm 0 5)).isNone || (Fmt.ofCode? (field t.imm 8 5)).isNone || field t.imm 5 3 != 0
      || field t.imm 15 17 != 0) = true ↔ ¬ convertValid t.imm := by
    simp only [Bool.or_eq_true, bne_iff_ne, hsrc, hdst, hlow, hhigh, convertValid, Classical.not_and_iff_not_or_not,
      isNone_ofCode?_iff (Nat.mod_lt _ (show 0 < 32 by decide)), or_assoc, ne_eq]
  by_cases hv : convertValid t.imm
  · rw [vcvtCheck, if_neg fun h => hinv.1 h hv, if_pos hv]
  · rw [vcvtCheck, if_pos (hinv.2 hv), if_neg hv]

/-- The source format of a conversion (R153). -/
def convertSrc (t : Tpl) : Fmt := (Fmt.ofCode? (t.imm.toNat % 32)).getD .fp32

/-- The destination format of a conversion (R153). -/
def convertDst (t : Tpl) : Fmt := (Fmt.ofCode? (t.imm.toNat / 2 ^ 8 % 32)).getD .fp32

/-- Element `j` of a conversion, with draw `d` (R153). -/
def convertElem (t : Tpl) (s : State) (j d : Nat) : Nat :=
  (roundTo (decodeFmt (convertSrc t)
      (elem (s.vreg t.sa) (convertSrc t).width (64 * (t.mod.toNat % 8 % (32 / (convertSrc t).width)) + j)) (t.imm.getLsbD 13))
    (convertDst t) (rndOf 0x111 t) (satOf 0x111 t) (t.imm.getLsbD 14) d).code

/-- The part that `vcvt` writes, and the generators after its draws. -/
def convertPart (t : Tpl) (s : State) : Vec × Sparse W32 :=
  putPart (drawing 0x111 t) (s.guard t) (convertDst t) (t.mod.toNat / 8 % 8) (s.vreg t.dst) s.curCore.sr (convertElem t s)

theorem exec_vcvt (t : Tpl) (s : State) : exec (.vcvt t) s = issueChecked 0x111 t (vcvtCheck t) (fun s =>
    (s.updCur fun k => { k with sr := (convertPart t s).2 }).landVec t.dst 6 (convertPart t s).1) s := by
  have hdst : t.imm.toNat / 2 ^ 8 % 32 = field t.imm 8 5 := (field_eq_div_mod t.imm 8 5).symm
  have hpart : t.mod.toNat / 8 % 8 = field t.mod 3 3 := (field_eq_div_mod t.mod 3 3).symm
  unfold convertPart convertElem convertDst
  rw [hdst, hpart]
  rfl

/-- Settles O16: the check of the word decides between the fault and the effect, which sends one part. -/
theorem vectorConvert : Obligations.VectorConvert := by
  classical
  unfold Obligations.VectorConvert
  refine ⟨fun t s ha (hv : convertValid t.imm) => ?_, fun t s ha (hv : ¬ convertValid t.imm) => ?_⟩
  · have hs := ((EffectSends.refl s).setSr (convertPart t s).2).land t.dst 6 (.vector (convertPart t s).1)
    refine ⟨_, (exec_vcvt t s).trans (issueChecked_of_none ha ((vcvtCheck_eq t s).trans (if_pos hv)) _), (convertPart t s).1,
      hs.gains_retire 0x111 t, hs.wordFrame_retire 0x111 t, ?_⟩
    exact partIs_putPart (drawing 0x111 t) (convertDst t) (t.mod.toNat / 8 % 8) (convertElem t s) t s _ (hs.sr_retire 0x111 t)
  · exact (exec_vcvt t s).trans (issueChecked_of_some ha ((vcvtCheck_eq t s).trans (if_neg hv)) _)

end Sys2Proof.Machine
end

section
/-! PROOFS. `vquant` and `vdequant`: the format check, the results of a quantised register, and what the words send (R111, R159, R160). -/

namespace Sys2Proof.Machine

/-! ## The format word -/

/-- The format word fails a check of R159: its element format is no operand, or a block, a transform or a reserved bit stands where the
format allows none. -/
def quantInvalid (w : W64) : Prop :=
  let a := w.toNat / 2 ^ 59
  let wide := a = 17 ∨ a = 18 ∨ 20 ≤ a
  ¬ (a ≤ 6 ∨ (8 ≤ a ∧ a ≤ 14) ∨ (16 ≤ a ∧ a ≤ 18) ∨ a = 20 ∨ a = 21) ∨ (w.toNat / 2 ^ 52 % 4 ≠ 0 ∧ wide)
    ∨ w.toNat / 2 ^ 47 % 4 = 3 ∨ (w.toNat / 2 ^ 47 % 4 ≠ 0 ∧ 20 ≤ a) ∨ w.toNat % 2 ^ 21 ≠ 0

/-- The element format of a format word (R114). -/
def quantFmt (w : W64) : Fmt := (Fmt.ofCode? (w.toNat / 2 ^ 59)).getD .bf16

/-- The elements of a block: all 64 where there are no blocks (R114). -/
def quantBlock (w : W64) : Nat := [64, 8, 16, 32].getD (w.toNat / 2 ^ 52 % 4) 0

theorem fwAfmt_eq (w : W64) : fwAfmt w = w.toNat / 2 ^ 59 := by
  rw [fwAfmt, field_eq_div_mod]
  exact Nat.mod_eq_of_lt (Nat.div_lt_of_lt_mul w.isLt)

theorem fwBlk_eq (w : W64) : fwBlk w = w.toNat / 2 ^ 52 % 4 := field_eq_div_mod w 52 2

theorem fwXform_eq (w : W64) : fwXform w = w.toNat / 2 ^ 47 % 4 := field_eq_div_mod w 47 2

theorem blockSize_fwBlk (w : W64) : blockSize (fwBlk w) 64 = quantBlock w := by
  have hlt : w.toNat / 2 ^ 52 % 4 < 4 := Nat.mod_lt _ (by decide)
  rw [fwBlk_eq, quantBlock]
  generalize w.toNat / 2 ^ 52 % 4 = c at hlt
  revert c
  decide

theorem asOperand_iff (c : Nat) :
    asOperand c = true ↔ c ≤ 6 ∨ (8 ≤ c ∧ c ≤ 14) ∨ (16 ≤ c ∧ c ≤ 18) ∨ c = 20 ∨ c = 21 := by
  simp [asOperand, or_assoc]

theorem widthClass_eq_two_iff (c : Nat) : widthClass c = 2 ↔ 20 ≤ c := by
  unfold widthClass
  repeat' split
  all_goals omega

theorem widthClass_eq_three_iff (c : Nat) : widthClass c = 3 ↔ c = 17 ∨ c = 18 := by
  unfold widthClass
  repeat' split
  all_goals omega

/-- The check of `vquant` and `vdequant`, in the fields of the format word. -/
theorem quantCheck_eq (t : Tpl) (s : State) [Decidable (quantInvalid (s.opb t))] :
    quantCheck t s = if quantInvalid (s.opb t) then some { code := .formatInvalid, det1 := s.opb t } else none := by
  have hinv : (!asOperand (fwAfmt (s.opb t)) || (fwBlk (s.opb t) != 0 && (widthClass (fwAfmt (s.opb t)) == 3
      || widthClass (fwAfmt (s.opb t)) == 2)) || fwXform (s.opb t) == 3
      || (fwXform (s.opb t) != 0 && widthClass (fwAfmt (s.opb t)) == 2) || field (s.opb t) 0 21 != 0) = true
      ↔ quantInvalid (s.opb t) := by
    have hlow : field (s.opb t) 0 21 = (s.opb t).toNat % 2 ^ 21 := rfl
    simp only [Bool.or_eq_true, Bool.and_eq_true, Bool.not_eq_true', ← Bool.not_eq_true, asOperand_iff, bne_iff_ne, beq_iff_eq,
      widthClass_eq_two_iff, widthClass_eq_three_iff, fwAfmt_eq, fwBlk_eq, fwXform_eq, hlow, quantInvalid, or_assoc, ne_eq]
  by_cases hv : quantInvalid (s.opb t)
  · rw [if_pos hv]
    exact if_pos (hinv.2 hv)
  · rw [if_neg hv]
    exact if_neg fun h => hv (hinv.1 h)

/-! ## Quantised elements and their scales -/

/-- The values that are quantised: the FP32 lanes, transformed if the word says so (R112). -/
def quantInput (w : W64) (a : Vec) : List Num :=
  if w.toNat / 2 ^ 47 % 4 = 1 then hadamard64 (if w.getLsbD 46 then 32 else 16) (lanesFp32 a) else lanesFp32 a

/-- The scale of each block (R111). -/
def quantScales (w : W64) (a : Vec) : List BlockScale :=
  (List.range (64 / quantBlock w)).map fun b =>
    blockScale (((quantInput w a).drop (b * quantBlock w)).take (quantBlock w)) (quantFmt w) (w.getLsbD 45) (w.getLsbD 51)

/-- The scale of an element without a block: one. -/
def unitScale : BlockScale := ⟨0, .fin false 1 0 false, false, false⟩

/-- The scale of the block of lane `j`. -/
def quantScale (w : W64) (a : Vec) (j : Nat) : BlockScale := (quantScales w a).getD (j / quantBlock w) unitScale

/-- Element `j` of a quantised register, with draw `d` (R159). -/
def quantElem (t : Tpl) (s : State) (j d : Nat) : Nat :=
  let w := s.opb t
  if ¬ w.toNat / 2 ^ 52 % 4 = 0 ∧ (quantScale w (s.vreg t.sa) j).bad = true then zeroCode (quantFmt w) false
  else
    (roundTo (((quantInput w (s.vreg t.sa)).getD j .nan).div
        (if w.toNat / 2 ^ 52 % 4 = 0 then .fin false 1 0 false else (quantScale w (s.vreg t.sa) j).value))
      (quantFmt w) (rndOf 0x180 t) (satOf 0x180 t) (w.getLsbD 45) d).code

/-- The part that `vquant` writes, and the generators after its draws. -/
def quantPart (t : Tpl) (s : State) : Vec × Sparse W32 :=
  putPart (drawing 0x180 t) (s.guard t) (quantFmt (s.opb t)) (t.mod.toNat % 8) (s.vreg t.dst) s.curCore.sr (quantElem t s)

/-- The scale codes, one byte for each block. -/
def quantCodes (w : W64) (a : Vec) : W64 :=
  if w.toNat / 2 ^ 52 % 4 = 0 then 0
  else BitVec.ofNat 64 (leNat ((quantScales w a).map fun b => BitVec.ofNat 8 b.code))

/-- The lanes of the blocks with an event. -/
def quantMask (w : W64) (a : Vec) : W64 :=
  if w.toNat / 2 ^ 52 % 4 = 0 then 0 else ofBits 64 fun j => (quantScale w a j).event

/-- How many blocks had an event. -/
def quantEvents (w : W64) (a : Vec) : Nat :=
  if w.toNat / 2 ^ 52 % 4 = 0 then 0 else ((quantScales w a).filter (·.event)).length

theorem ofCode?_fwAfmt (w : W64) : (Fmt.ofCode? (fwAfmt w)).getD .bf16 = quantFmt w := by rw [fwAfmt_eq, quantFmt]

theorem transformed_eq_quantInput (w : W64) (a : Vec) :
    (if fwXform w = 1 then hadamard64 (fwHsz w) (lanesFp32 a) else lanesFp32 a) = quantInput w a := by
  rw [fwXform_eq]
  rfl

theorem scales_eq_quantScales (w : W64) (a : Vec) :
    (segments (quantBlock w) (64 / quantBlock w) (quantInput w a)).map
      (fun b => blockScale b (quantFmt w) (fwAinf w) (fwAsc w)) = quantScales w a := List.map_map

/-- The model's result of `vquant` is the part, the codes, the lanes, the events and the generators named above. -/
theorem vquantResult_eq (t : Tpl) (s : State) :
    vquantResult (s.opb t) (rndOf 0x180 t) (satOf 0x180 t) (s.guard t) (field t.mod 0 3) (s.vreg t.dst) (s.vreg t.sa) s.curCore.sr
      = ((quantPart t s).1, quantCodes (s.opb t) (s.vreg t.sa), quantMask (s.opb t) (s.vreg t.sa),
          quantEvents (s.opb t) (s.vreg t.sa), (quantPart t s).2) := by
  unfold vquantResult
  simp only [blockSize_fwBlk, ofCode?_fwAfmt, transformed_eq_quantInput, scales_eq_quantScales]
  simp only [fwBlk_eq]
  unfold quantPart quantElem quantCodes quantMask quantEvents
  by_cases hb : (s.opb t).toNat / 2 ^ 52 % 4 = 0
  · simp only [hb, if_true, not_true_eq_false, false_and, if_false, Bool.false_eq_true]
    rfl
  · simp only [hb, if_false, not_false_eq_true, true_and]
    rfl

/-- `vquant` past its check: WARN, the generators, the register and the codes, then FMASK and the count where there are events. -/
theorem exec_vquant (t : Tpl) (s : State) : exec (.vquant t) s = issueChecked 0x180 t (quantCheck t) (fun s =>
    let u := (((s.warn (partWarn t s)).updCur fun k => { k with sr := (quantPart t s).2 }).landVec t.dst 8 (quantPart t s).1).landWord
      t.sc 8 (quantCodes (s.opb t) (s.vreg t.sa))
    let u := if quantMask (s.opb t) (s.vreg t.sa) = 0 then u
      else u.updCur fun k => k.addPend .vx .fmask 8 (.orBits (quantMask (s.opb t) (s.vreg t.sa)))
    if quantEvents (s.opb t) (s.vreg t.sa) = 0 then u
    else u.updCur fun k => k.addPend .vx (.count 9 2) 8 (.word (BitVec.ofNat 64 (quantEvents (s.opb t) (s.vreg t.sa))))) s := by
  have hexec : exec (.vquant t) s = execVquant t s := rfl
  rw [hexec, execVquant]
  simp only [vquantResult_eq]

/-! ## What `vquant` sends -/

/-- Byte `i` of a packed list is its item there, or zero past its end. -/
theorem leNat_byte (l : List Byte) (i : Nat) : leNat l / 2 ^ (8 * i) % 2 ^ 8 = (l.getD i 0).toNat := by
  induction l generalizing i with
  | nil => simp [leNat]
  | cons x l ih =>
    have hx : x.toNat < 256 := x.isLt
    rw [leNat]
    cases i with
    | zero =>
      rw [Nat.mul_zero, Nat.pow_zero, Nat.div_one, List.getD_cons_zero]
      omega
    | succ i =>
      rw [List.getD_cons_succ, ← ih i, Nat.mul_succ, Nat.add_comm (8 * i), Nat.pow_add, ← Nat.div_div_eq_div_mul]
      congr 2
      omega

/-- A field of a number cut to a word that holds the field is that of the number. -/
theorem elem_ofNat {W w i : Nat} (x : Nat) (h : w * i + w ≤ W) : elem (BitVec.ofNat W x) w i = x / 2 ^ (w * i) % 2 ^ w := by
  obtain ⟨d, rfl⟩ := Nat.exists_eq_add_of_le h
  rw [elem, BitVec.toNat_ofNat, Nat.shiftRight_eq_div_pow, Nat.add_assoc, Nat.pow_add, Nat.mod_mul_right_div_self, Nat.pow_add,
    Nat.mod_mul_right_mod]

theorem getD_map_default {α β : Type} (f : α → β) (d : α) (l : List α) (i : Nat) : (l.map f).getD i (f d) = f (l.getD i d) := by
  rw [List.getD_eq_getElem?_getD, List.getElem?_map, Option.getD_map, List.getD_eq_getElem?_getD]

theorem quantBlock_pos (w : W64) : 0 < quantBlock w := by
  have hlt : w.toNat / 2 ^ 52 % 4 < 4 := Nat.mod_lt _ (by decide)
  rw [quantBlock]
  generalize w.toNat / 2 ^ 52 % 4 = c at hlt
  revert c
  decide

theorem quantScales_length (w : W64) (a : Vec) : (quantScales w a).length = 64 / quantBlock w := by
  rw [quantScales, List.length_map, List.length_range]

/-- The scale codes by byte: one for each block, and zero past the blocks or where there are none (R159). -/
theorem elem_quantCodes (w : W64) (a : Vec) {b : Nat} (hb : b < 8) :
    elem (quantCodes w a) 8 b =
      if ¬ w.toNat / 2 ^ 52 % 4 = 0 ∧ b < 64 / quantBlock w then (quantScale w a (b * quantBlock w)).code % 256 else 0 := by
  have hunit : (0 : Byte) = BitVec.ofNat 8 unitScale.code := rfl
  unfold quantCodes
  by_cases hn : w.toNat / 2 ^ 52 % 4 = 0
  · rw [if_pos hn, if_neg fun h => h.1 hn]
    simp [elem]
  · rw [if_neg hn, elem_ofNat _ (by omega), leNat_byte, hunit, getD_map_default, BitVec.toNat_ofNat, quantScale,
      Nat.mul_div_cancel _ (quantBlock_pos w)]
    by_cases hlen : b < 64 / quantBlock w
    · rw [if_pos ⟨hn, hlen⟩]
    · rw [if_neg fun h => hlen h.2, List.getD_eq_getElem?_getD,
        List.getElem?_eq_none (by rw [quantScales_length]; omega)]
      rfl

theorem getLsbD_quantMask (w : W64) (a : Vec) {j : Nat} (hj : j < 64) :
    (quantMask w a).getLsbD j = (!decide (w.toNat / 2 ^ 52 % 4 = 0) && (quantScale w a j).event) := by
  unfold quantMask
  by_cases hn : w.toNat / 2 ^ 52 % 4 = 0
  · rw [if_pos hn, decide_eq_true hn]
    simp
  · rw [if_neg hn, decide_eq_false hn]
    exact bit_ofBits _ hj

/-- A result of VX that lands after eight cycles. -/
def lateResult (s : State) (d : Dst) (v : Val) : Pend :=
  { strm := .vx, ord := s.curCore.issueOrd, dst := d, due := s.curCore.now + 8 - 1, val := v }

/-- The number of events is sent where blocks had any. -/
theorem quantEvents_sent {β : Type} (w : W64) (a : Vec) (f : Nat → List β) :
    (if quantEvents w a = 0 then [] else f (quantEvents w a))
      = if w.toNat / 2 ^ 52 % 4 = 0 ∨ ((quantScales w a).filter (·.event)).length = 0 then []
        else f ((quantScales w a).filter (·.event)).length := by
  unfold quantEvents
  by_cases hn : w.toNat / 2 ^ 52 % 4 = 0
  · simp only [hn, if_true, true_or]
  · simp only [hn, if_false, false_or]

/-- `vquant` under a valid format word sends the part, the codes, and what is set of FMASK and the conversion counters (R159). -/
theorem doesWhen_vquant : DoesWhen .vquant 0x180 (fun t s => ¬ quantInvalid (s.opb t)) fun t s u =>
    let w := s.opb t
    let a := s.vreg t.sa
    WordFrame s u
      ∧ Gains s u (s.sends t.dst 8 (.vector (quantPart t s).1) ++ s.sends t.sc 8 (.word (quantCodes w a))
          ++ (if quantMask w a = 0 then [] else [lateResult s .fmask (.orBits (quantMask w a))])
          ++ if w.toNat / 2 ^ 52 % 4 = 0 ∨ ((quantScales w a).filter (·.event)).length = 0 then []
            else [lateResult s (.count 9 2) (.word (BitVec.ofNat 64 ((quantScales w a).filter (·.event)).length))])
      ∧ PartIs (quantFmt w).width (t.mod.toNat % 8) (drawing 0x180 t) (quantElem t s) t s u (quantPart t s).1 := by
  classical
  intro t s ha hv
  have hregs := ((((EffectSends.refl s).warn (partWarn t s)).setSr (quantPart t s).2).land t.dst 8
    (.vector (quantPart t s).1)).land t.sc 8 (.word (quantCodes (s.opb t) (s.vreg t.sa)))
  have hmask := hregs.sendUnless (quantMask (s.opb t) (s.vreg t.sa) = 0)
    (hregs.addPend .vx .fmask 8 (.orBits (quantMask (s.opb t) (s.vreg t.sa))))
  have hall := hmask.sendUnless (quantEvents (s.opb t) (s.vreg t.sa) = 0)
    (hmask.addPend .vx (.count 9 2) 8 (.word (BitVec.ofNat 64 (quantEvents (s.opb t) (s.vreg t.sa)))))
  refine ⟨_, (exec_vquant t s).trans (issueChecked_of_none ha ((quantCheck_eq t s).trans (if_neg hv)) _),
    hall.wordFrame_retire 0x180 t, ?_, partIs_putPart _ _ _ _ t s _ (hall.sr_retire 0x180 t)⟩
  rw [← quantEvents_sent (s.opb t) (s.vreg t.sa) fun n => [lateResult s (.count 9 2) (.word (BitVec.ofNat 64 n))]]
  exact hall.gains_retire 0x180 t

/-! ## `vdequant` -/

/-- Element `j` of `vdequant`, with draw `d` (R160). -/
def dequantElem (t : Tpl) (s : State) (j d : Nat) : Nat :=
  let w := s.opb t
  (roundTo ((decodeFmt (quantFmt w)
      (elem (s.vreg t.sa) (quantFmt w).width (64 * (t.mod.toNat % 8 % (32 / (quantFmt w).width)) + j)) (w.getLsbD 45)).mul
      (if w.toNat / 2 ^ 52 % 4 = 0 then .fin false 1 0 false else decodeScale (w.getLsbD 51) (elem (s.opc t) 8 (j / quantBlock w))))
    .fp32 (rndOf 0x181 t) (satOf 0x181 t) true d).code

theorem exec_vdequant (t : Tpl) (s : State) : exec (.vdequant t) s = issueChecked 0x181 t (quantCheck t) (fun s =>
    (vecResult 0x181 6 t 32 (dequantElem t s) s).warn (partWarn t s)) s := by
  have hexec : exec (.vdequant t) s = execVdequant t s := rfl
  rw [hexec, execVdequant]
  simp only [ofCode?_fwAfmt, blockSize_fwBlk]
  simp only [fwBlk_eq]
  rfl

/-- `vdequant` under a valid format word sends its lanes, and its WARN bits besides (R160). -/
theorem doesWhen_vdequant : DoesWhen .vdequant 0x181 (fun t s => ¬ quantInvalid (s.opb t)) fun t s u =>
    LanesSent 6 32 (drawing 0x181 t) (dequantElem t s) t s u := by
  classical
  intro t s ha hv
  exact ⟨_, (exec_vdequant t s).trans (issueChecked_of_none ha ((quantCheck_eq t s).trans (if_neg hv)) _),
    lanesSent_vecResult_warn 0x181 6 t 32 1 rfl (dequantElem t s) _ s⟩

/-- Settles O17: the format word decides between the fault and the effect, which for `vquant` is four results and for `vdequant` a lane
loop. -/
theorem vectorQuantise : Obligations.VectorQuantise := by
  classical
  unfold Obligations.VectorQuantise
  refine ⟨fun t s ha hv => ?_, doesWhen_vdequant, fun p hp t s ha (hv : quantInvalid (s.opb t)) => ?_⟩
  · obtain ⟨u, hexec, hframe, hgain, hpart⟩ := doesWhen_vquant t s ha hv
    exact ⟨u, hexec, (quantPart t s).1, quantCodes (s.opb t) (s.vreg t.sa), quantMask (s.opb t) (s.vreg t.sa), hframe, hgain, hpart,
      fun b hb => elem_quantCodes (s.opb t) (s.vreg t.sa) hb, fun j hj => getLsbD_quantMask (s.opb t) (s.vreg t.sa) hj⟩
  · have hbad := (quantCheck_eq t s).trans (if_pos hv)
    simp only [List.mem_cons, List.not_mem_nil, or_false] at hp
    obtain rfl | rfl := hp
    · exact (exec_vquant t s).trans (issueChecked_of_some ha hbad _)
    · exact (exec_vdequant t s).trans (issueChecked_of_some ha hbad _)

end Sys2Proof.Machine
end

section
/-! PROOFS. `vhad`, `vsmooth` and `vamax`: the blocks of the FP32 lanes (R112, R113, R161, R162). -/

namespace Sys2Proof.Machine

/-! ## Blocks of a list -/

/-- Segment `i` of a list. -/
theorem getD_map_segments {α β : Type} (g : List α → β) (d : β) (n k : Nat) (l : List α) {i : Nat} (hi : i < k) :
    ((segments n k l).map g).getD i d = g ((l.drop (i * n)).take n) := by
  simp [segments, hi]

/-- Item `j` of lists of one length set end to end. -/
theorem getD_flatten_of_length {α : Type} (d : α) {n : Nat} (L : List (List α)) (h : ∀ l ∈ L, l.length = n) (j : Nat) (hn : 0 < n) :
    L.flatten.getD j d = (L.getD (j / n) []).getD (j % n) d := by
  induction L generalizing j with
  | nil => simp
  | cons l L ih =>
    obtain ⟨hl, hL⟩ := List.forall_mem_cons.1 h
    rw [List.flatten_cons]
    rcases Nat.lt_or_ge j n with hj | hj
    · rw [List.getD_eq_getElem?_getD, List.getElem?_append_left (hl ▸ hj), ← List.getD_eq_getElem?_getD,
        Nat.div_eq_of_lt hj, Nat.mod_eq_of_lt hj, List.getD_cons_zero]
    · rw [List.getD_eq_getElem?_getD, List.getElem?_append_right (hl ▸ hj), ← List.getD_eq_getElem?_getD, hl,
        ih hL, Nat.div_eq_sub_div hn hj, List.getD_cons_succ, Nat.mod_eq_sub_mod hj]

theorem lanesFp32_length (v : Vec) : (lanesFp32 v).length = 64 := by rw [lanesFp32, List.length_map, List.length_range]

theorem getD_lanesFp32 (v : Vec) (d : Num) {j : Nat} (hj : j < 64) : (lanesFp32 v).getD j d = fp32Val (lane v j) := by
  simp [lanesFp32, hj]

theorem hadamardBlock_length (xs : List Num) : (hadamardBlock xs).length = xs.length := by
  unfold hadamardBlock
  split
  · rw [List.length_map]
  · rw [List.length_map, List.length_range]

/-- Output `j` of the transform of 64 values is output `j mod n` of the transform of its block (R112). -/
theorem getD_hadamard64 {n : Nat} (hn : n = 16 ∨ n = 32) {xs : List Num} (hxs : xs.length = 64) (d : Num) {j : Nat} (hj : j < 64) :
    (hadamard64 n xs).getD j d = (hadamardBlock ((xs.drop (j / n * n)).take n)).getD (j % n) d := by
  have hpos : 0 < n := by omega
  have hdvd : n ∣ 64 := by obtain rfl | rfl := hn <;> decide
  have hlen : ∀ l ∈ (segments n (64 / n) xs).map hadamardBlock, l.length = n := by
    intro l hl
    simp only [segments, List.map_map, List.mem_map, List.mem_range, Function.comp_apply] at hl
    obtain ⟨i, hi, rfl⟩ := hl
    have hin := Nat.mul_le_mul_right n (Nat.succ_le_of_lt hi)
    rw [Nat.succ_mul, Nat.div_mul_cancel hdvd] at hin
    rw [hadamardBlock_length, List.length_take, List.length_drop, hxs]
    omega
  have hblock : j / n < 64 / n := Nat.div_lt_div_of_lt_of_dvd hdvd hj
  rw [hadamard64, getD_flatten_of_length d _ hlen j hpos, getD_map_segments hadamardBlock [] n _ xs hblock]

theorem amaxBlock_dvd {k : Nat} (hk : k < 4) : 8 * 2 ^ k ∣ 64 := by
  revert k
  decide

/-! ## Words on the lanes -/

/-- A word on FP32 lanes that acts, its lanes described anew. -/
theorem does_fp32Lanes {i : Tpl → Instr} {o lat : Nat} {f g : Tpl → State → Nat → Nat → Nat}
    (h : ∀ t s, exec (i t) s = issue o t (fun s => vecResult o lat t 32 (f t s) s) s)
    (hfg : ∀ t s j, j < 64 → ∀ d, f t s j d = g t s j d) : Does i o fun t s u => LanesSent lat 32 (drawing o t) (g t s) t s u := by
  intro t s ha
  obtain ⟨u, hexec, hlanes⟩ :=
    does_vecResult (pre := fun _ _ => True) (w := fun _ => 32) (fun t s _ => h t s) (fun _ => rfl) t s ha trivial
  exact ⟨u, hexec, hlanes.congr_elems fun j hj => hfg t s j hj⟩

/-- Settles O18: each word is a lane loop, whose elements are those of the blocks of the lanes. -/
theorem vectorBlocks : Obligations.VectorBlocks := by
  unfold Obligations.VectorBlocks
  have hsize : ∀ t : Tpl, (if t.mod.getLsbD 0 then 32 else 16) = 16 ∨ (if t.mod.getLsbD 0 then 32 else 16) = 32 := fun t => by
    cases t.mod.getLsbD 0 <;> simp
  refine ⟨does_fp32Lanes (fun _ _ => rfl) fun t s j hj d => ?vhad, does_fp32Lanes (fun _ _ => rfl) fun t s j hj d => ?vsmooth,
    does_fp32Lanes (fun _ _ => rfl) fun t s j hj d => ?vamax⟩
  case vhad => exact congrArg fp32Code (getD_hadamard64 (hsize t) (lanesFp32_length (s.vreg t.sa)) .nan hj)
  case vsmooth =>
    exact congr (congrArg (fun x k => (roundTo (smoothProduct (bit t.mod 0) x k) .fp32 (rndOf 0x183 t) (satOf 0x183 t) true d).code)
      (getD_lanesFp32 (s.vreg t.sa) .nan hj).symm) (getD_lanesFp32 (s.vreg t.sb) .nan hj).symm
  case vamax =>
    have hn : 8 <<< field t.mod 0 2 = 8 * 2 ^ (t.mod.toNat % 4) := Nat.shiftLeft_eq ..
    have hblock : j / (8 * 2 ^ (t.mod.toNat % 4)) < 64 / (8 * 2 ^ (t.mod.toNat % 4)) :=
      Nat.div_lt_div_of_lt_of_dvd (amaxBlock_dvd (Nat.mod_lt _ (by decide))) hj
    rw [hn]
    exact congrArg fp32Code (getD_map_segments _ Num.nan _ _ (lanesFp32 (s.vreg t.sa)) hblock)

end Sys2Proof.Machine
end
